-- ==== Sys2Proof/Word.lean ====
section
/-! DEFINITION. The word types of the P8 and the plainest helpers over them: 64-bit registers and
instruction words, 512-byte accumulator rows, 8-bit tenant label masks, and values that carry a label. -/

namespace Sys2Proof

/-- A 64-bit scalar or instruction word (R37, R66). -/
abbrev Word := BitVec 64

/-- One byte of a store. -/
abbrev Byte := BitVec 8

/-- An 8-bit tenant label mask (R57, R352). -/
abbrev Label := BitVec 8

/-- A labelled value: a value and its label are always written together and read together (R57). -/
structure Lv (n : Nat) where
  v : BitVec n
  l : Label
  deriving DecidableEq, Repr, Inhabited

/-- A predicate with its label (R46). -/
structure Pred where
  v : Bool
  l : Label
  deriving DecidableEq, Repr, Inhabited

/-- Four things of one kind: extents, origins, steps and coordinates of the four dimensions (R48). -/
structure Quad (α : Type) where
  x0 : α
  x1 : α
  x2 : α
  x3 : α
  deriving DecidableEq, Repr, Inhabited

/-- The entry of dimension `i`; at or above 3 the last one. -/
def Quad.get {α : Type} (q : Quad α) (i : Nat) : α :=
  match i with
  | 0 => q.x0
  | 1 => q.x1
  | 2 => q.x2
  | _ => q.x3

/-- The quad with the entry of dimension `i` replaced. -/
def Quad.set {α : Type} (q : Quad α) (i : Nat) (a : α) : Quad α :=
  match i with
  | 0 => { q with x0 := a }
  | 1 => { q with x1 := a }
  | 2 => { q with x2 := a }
  | _ => { q with x3 := a }

/-- The quad of `f 0` to `f 3`. -/
def Quad.ofFn {α : Type} (f : Nat → α) : Quad α := ⟨f 0, f 1, f 2, f 3⟩

/-- `true` when `a` is a subset of `b` as masks (R355). -/
def Label.sub (a b : Label) : Bool := a &&& ~~~b == 0#8

end Sys2Proof
end

