-- ==== Sys2Proof/Config.lean ====
section
/-! DEFINITION. What the manual leaves open: opaque functions with no body, so that nothing can be proved of a value of
theirs. Each is applied to a plain counter or to operands held in the state. -/

namespace Sys2Proof.Config

/-- Which enabled agent moves next: the order among agents is fixed by no rule beyond those modelled
(R249, R299, R325). DESIGN CHOICE (log 4), safe: every order is allowed. -/
opaque choice : Nat → Nat

/-- A yes or no the manual leaves open: whether an operation whose answer never came was performed (R214, R334, R384,
R386), whether debug is enabled for an address space (R237, R404), whether a die trains (R424), by which port a write to the PF's page
comes (R406). DESIGN CHOICE (logs 48, 79, 95, 107), safe. -/
opaque freeBit : Nat → Bool

/-- The fused latency of a die pair before it is brought into the range of R259. DESIGN CHOICE (log 18), safe. -/
opaque dlat : Nat → Nat → Nat

/-- Byte `i` of the package key, fused into each part (R359, R422). DESIGN CHOICE (log 11), safe. -/
opaque packageKey : Nat → BitVec 8

/-- Module power as the controller measures it at a frame tick, in units of 10 W (R416). DESIGN CHOICE (log 12),
safe. -/
opaque measuredPower : Nat → Nat

/-- SEGCYC as read in untimed S code of a core, where no segment cycle is current (R63 states none). DESIGN CHOICE
(log 19), safe. -/
opaque idleSegcyc : Nat → BitVec 32

/-- Where a byte of device memory stands in the line of the box placed there (R264, R389): its offset in the line and the
line's bytes LB; from LB on no element lies there. It stands for memory where no box of a live launch lies. DESIGN CHOICE
(log 64), safe. -/
opaque lineAt : Nat → Nat × Nat

/-- The channel of a device address on its die (R337): the driver and the frames' owner do not choose it, and the mapping is not
stated. DESIGN CHOICE (log 92), safe. -/
opaque channel : Nat → Nat

/-- What a code finds beyond its detecting power (R391): none, that it detects the error still; or the bits it leaves
wrong. Applied to the sector and its wrong bits. DESIGN CHOICE (log 17), safe. -/
opaque beyond : Nat → List Nat → Option (List Nat)

/-- The protection code under which the controller holds a sector that no page of a box maps, for the patrol scrub and for
checkpoints (R388, R398, R422). DESIGN CHOICE (log 35), safe. -/
opaque frameCode : Nat → Nat

end Sys2Proof.Config
end

