-- ==== Sys2Proof/Machine/Tab.lean ====
section
/-! DEFINITION. The one form in which the model holds stores and files that are sparse: a list of keys and values, keys
strictly rising, no entry equal to what an unlisted key reads as. Byte memories, register files, box tables and the
tables of tasks, launches and address spaces are all of this form, so equal contents are equal data. -/

namespace Sys2Proof.Machine

/-- A sparse table: keys strictly rising, no entry equal to `default`. -/
abbrev Tab (α : Type) := List (Nat × α)

/-- A byte store (spec 17 R316, 10 R266, R268): addresses and bytes; an unlisted byte reads as 0 (DESIGN CHOICE, log 2). -/
abbrev Mem := Tab Byte

/-- What key `k` reads as. -/
def Tab.get {α : Type} [Inhabited α] (t : Tab α) (k : Nat) : α :=
  match t with
  | [] => default
  | (k', v) :: r => if k = k' then v else Tab.get r k

/-- The table with `k` reading as `v`; the canonical form is kept. -/
def Tab.put {α : Type} [Inhabited α] [DecidableEq α] (t : Tab α) (k : Nat) (v : α) : Tab α :=
  match t with
  | [] => if v = default then [] else [(k, v)]
  | (k', v') :: r =>
    if k < k' then (if v = default then (k', v') :: r else (k, v) :: (k', v') :: r)
    else if k = k' then (if v = default then r else (k, v) :: r)
    else (k', v') :: Tab.put r k v

/-- Every key of the table is above `lo` and no entry is the default. -/
def Tab.wfFrom {α : Type} [Inhabited α] [DecidableEq α] (t : Tab α) (lo : Nat) : Bool :=
  match t with
  | [] => true
  | (k, v) :: r => decide (lo ≤ k) && decide (v ≠ default) && Tab.wfFrom r (k + 1)

/-- The canonical form: keys strictly rising, no default entry. -/
def Tab.wf {α : Type} [Inhabited α] [DecidableEq α] (t : Tab α) : Bool := Tab.wfFrom t 0

/-- A byte memory in canonical form. -/
def Memory.wf (m : Mem) : Bool := Tab.wf m

/-- The entry at `k` when one is listed. -/
def Tab.find {α : Type} (t : Tab α) (k : Nat) : Option α :=
  match t with
  | [] => none
  | (k', v) :: r => if k = k' then some v else Tab.find r k

/-- The table without key `k`. -/
def Tab.drop {α : Type} (t : Tab α) (k : Nat) : Tab α := t.filter (fun e => e.1 != k)

/-- The value at `k` changed by `f`. -/
def Tab.upd {α : Type} [Inhabited α] [DecidableEq α] (t : Tab α) (k : Nat) (f : α → α) : Tab α :=
  t.put k (f (t.get k))

/-- `n` bytes from `a`. -/
def Mem.bytes (m : Mem) (a n : Nat) : List Byte := (List.range n).map (fun i => Tab.get m (a + i))

/-- Little-endian value of a byte list (R5). -/
def leNat : List Byte → Nat
  | [] => 0
  | b :: r => b.toNat + 256 * leNat r

/-- The `n` little-endian bytes of `v` (R5). -/
def leBytes (n v : Nat) : List Byte :=
  match n with
  | 0 => []
  | n + 1 => BitVec.ofNat 8 v :: leBytes n (v / 256)

/-- The little-endian value of `n` bytes at `a`. -/
def Mem.nat (m : Mem) (a n : Nat) : Nat := leNat (Mem.bytes m a n)

/-- Bytes written in ascending address from `a`. -/
def Mem.write (m : Mem) (a : Nat) (bs : List Byte) : Mem :=
  match bs with
  | [] => m
  | b :: r => Mem.write (Tab.put m a b) (a + 1) r

/-- Address and byte pairs written one after another. -/
def Mem.writes (m : Mem) (ws : List (Nat × Byte)) : Mem :=
  match ws with
  | [] => m
  | (a, b) :: r => Mem.writes (Tab.put m a b) r

/-- Bits `[hi:lo]` of a natural number (R5). -/
def bits (v hi lo : Nat) : Nat := v / 2 ^ lo % 2 ^ (hi + 1 - lo)

/-- Bit `n` of a natural number. -/
def bit (v n : Nat) : Bool := v.testBit n

/-- A list of numbers without its repeats. -/
def uniq (l : List Nat) : List Nat := l.foldr (fun a r => if r.contains a then r else a :: r) []

/-- 1 for true, 0 for false. -/
def b2n (b : Bool) : Nat := if b then 1 else 0

/-- `v` rounded up to a multiple of `m`. -/
def upTo (v m : Nat) : Nat := (v + m - 1) / m * m

/-- The value of `n` as a signed number of `w` bits. -/
def signed (w n : Nat) : Int := if n < 2 ^ (w - 1) then (n : Int) else (n : Int) - (2 : Int) ^ w

/-- A signed number as its `w`-bit two's complement pattern. -/
def unsigned (w : Nat) (z : Int) : Nat := (z % (2 : Int) ^ w).toNat

end Sys2Proof.Machine
end

