-- ==== Sys2Proof/Machine/Crypto.lean ====
section
/-! DEFINITION. The standards that the spec cites by name: Ed448 (RFC 8032) with SHAKE256 (FIPS 202) for policies (spec 19,
R362), AES-256-GCM (FIPS 197, SP 800-38D) under the package key for checkpoints (23, R422). -/

namespace Sys2Proof.Machine

/-! ## SHAKE256 -/

/-- A 64-bit lane rotated left. -/
def rol64 (x n : Nat) : Nat := x <<< (n % 64) % 2 ^ 64 ||| x >>> (64 - n % 64)

/-- Lane (x, y) of a Keccak state, its indexes modulo 5. -/
def lane (a : List Nat) (x y : Nat) : Nat := a.getD (x % 5 + 5 * (y % 5)) 0

/-- Rotations of the lanes (FIPS 202, table 2), lane (x, y) at x + 5 y. -/
def keccakRot : List Nat := [0, 1, 62, 28, 27, 36, 44, 6, 55, 20, 3, 10, 43, 25, 39, 41, 45, 15, 21, 8, 18, 2, 61, 56, 14]

/-- The round constants. -/
def keccakRc : List Nat :=
  [0x0000000000000001, 0x0000000000008082, 0x800000000000808A, 0x8000000080008000, 0x000000000000808B, 0x0000000080000001,
    0x8000000080008081, 0x8000000000008009, 0x000000000000008A, 0x0000000000000088, 0x0000000080008009, 0x000000008000000A,
    0x000000008000808B, 0x800000000000008B, 0x8000000000008089, 0x8000000000008003, 0x8000000000008002, 0x8000000000000080,
    0x000000000000800A, 0x800000008000000A, 0x8000000080008081, 0x8000000000008080, 0x0000000080000001, 0x8000000080008008]

/-- One round of Keccak-f[1600]: theta, rho and pi, chi, iota. -/
def keccakRound (a : List Nat) (rc : Nat) : List Nat :=
  let c := (List.range 5).map fun x => lane a x 0 ^^^ lane a x 1 ^^^ lane a x 2 ^^^ lane a x 3 ^^^ lane a x 4
  let d (x : Nat) : Nat := c.getD ((x + 4) % 5) 0 ^^^ rol64 (c.getD ((x + 1) % 5) 0) 1
  let t := (List.range 25).map fun i => rol64 (a.getD i 0 ^^^ d (i % 5)) (keccakRot.getD i 0)
  -- lane (x, y) of what follows comes from lane (x + 3 y, x)
  let b := (List.range 25).map fun i => lane t (i % 5 + 3 * (i / 5)) (i % 5)
  (List.range 25).map fun i =>
    let n := lane b (i % 5) (i / 5) ^^^ ((2 ^ 64 - 1 - lane b (i % 5 + 1) (i / 5)) &&& lane b (i % 5 + 2) (i / 5))
    if i = 0 then n ^^^ rc else n

def keccakF (a : List Nat) : List Nat := keccakRc.foldl keccakRound a

/-- A block of 136 bytes taken in. -/
def absorb (a : List Nat) (bs : List Byte) : List Nat :=
  keccakF (a.zipIdx.map fun e => if e.2 < 17 then e.1 ^^^ leNat ((bs.drop (8 * e.2)).take 8) else e.1)

/-- The message padded to whole blocks of SHAKE256. -/
def shakePad (m : List Byte) : List Byte :=
  let k := 136 - m.length % 136
  m ++ (List.range k).map fun i =>
    BitVec.ofNat 8 ((if i = 0 then 0x1F else 0) + (if i + 1 = k then 0x80 else 0))

/-- `n` bytes squeezed out. -/
def squeeze (a : List Nat) (n fuel : Nat) : List Byte :=
  match fuel with
  | 0 => []
  | fuel + 1 => ((a.take 17).flatMap fun x => leBytes 8 x).take n ++ squeeze (keccakF a) (n - 136) fuel

/-- SHAKE256 with `n` bytes of output. -/
def shake256 (m : List Byte) (n : Nat) : List Byte :=
  let p := shakePad m
  squeeze ((List.range (p.length / 136)).foldl (fun a i => absorb a ((p.drop (136 * i)).take 136)) (List.replicate 25 0)) n
    ((n + 135) / 136)

/-! ## Ed448 -/

/-- The prime of the field, the order of the base point, and the constant d of the curve (RFC 8032, 5.2). -/
def edP : Nat := 2 ^ 448 - 2 ^ 224 - 1
def edL : Nat := 2 ^ 446 - 13818066809895115352007386748515426880336692474882178609894547503885
def edD : Nat := edP - 39081

/-- A power in the field. -/
def edPow (b e fuel : Nat) : Nat :=
  match fuel with
  | 0 => 1
  | fuel + 1 => if e = 0 then 1 else
    let r := edPow (b * b % edP) (e / 2) fuel
    if e % 2 = 1 then r * b % edP else r

def edSub (a b : Nat) : Nat := (a + edP - b) % edP

/-- A point in projective coordinates. -/
structure EdPt where
  x : Nat
  y : Nat
  z : Nat
  deriving DecidableEq, Repr, Inhabited

def edZero : EdPt := ⟨0, 1, 1⟩

/-- The base point. -/
def edB : EdPt :=
  ⟨224580040295924300187604334099896036246789641632564134246125461686950415467406032909029192869357953282578032075146446173674602635247710,
    298819210078481492676017930443930673437544040154080242095928241372331506189835876003536878655418784733982303233503462500531545062832660, 1⟩

/-- The sum of two points (RFC 8032, 5.2.4): the same formula for every pair. -/
def EdPt.add (p q : EdPt) : EdPt :=
  let a := p.z * q.z % edP
  let b := a * a % edP
  let c := p.x * q.x % edP
  let d := p.y * q.y % edP
  let e := edD * c % edP * d % edP
  let f := edSub b e
  let g := (b + e) % edP
  let h := (p.x + p.y) * (q.x + q.y) % edP
  ⟨a * f % edP * edSub (edSub h c) d % edP, a * g % edP * edSub d c % edP, f * g % edP⟩

/-- A multiple of a point. -/
def EdPt.mul (p : EdPt) (n fuel : Nat) : EdPt :=
  match fuel with
  | 0 => edZero
  | fuel + 1 => if n = 0 then edZero else
    let r := (p.add p).mul (n / 2) fuel
    if n % 2 = 1 then r.add p else r

def EdPt.same (p q : EdPt) : Bool :=
  decide (p.x * q.z % edP = q.x * p.z % edP) && decide (p.y * q.z % edP = q.y * p.z % edP)

/-- The point that 57 bytes encode (RFC 8032, 5.2.3); none where they encode none. -/
def edDecode (bs : List Byte) : Option EdPt :=
  let n := leNat bs
  let y := n % 2 ^ 455
  let s := n / 2 ^ 455 % 2
  if bs.length ≠ 57 || y ≥ edP then none
  else
    let u := edSub (y * y % edP) 1
    let v := edSub (edD * (y * y % edP) % edP) 1
    let u3v := edPow u 3 8 * v % edP
    let x := u3v * edPow (u3v * (u * u % edP) % edP * (v * v % edP) % edP) ((edP - 3) / 4) 448 % edP
    if v * (x * x % edP) % edP ≠ u then none
    else if x = 0 && s = 1 then none
    else some ⟨if x % 2 = s then x else edP - x, y, 1⟩

/-- The prefix of Ed448's hashes (RFC 8032, 2): "SigEd448", 0 for messages not hashed before, the context string. -/
def edDom (ctx : List Byte) : List Byte :=
  [0x53, 0x69, 0x67, 0x45, 0x64, 0x34, 0x34, 0x38, 0x00, BitVec.ofNat 8 ctx.length] ++ ctx

/-- The verdict of Ed448 on a key, a context string, a message and a signature (RFC 8032, 5.2.7): the group equation with its
cofactor 4. -/
def ed448Verify (key ctx msg sig : List Byte) : Bool :=
  let s := leNat (sig.drop 57)
  match edDecode (sig.take 57), edDecode key with
  | some r, some a =>
    let k := leNat (shake256 (edDom ctx ++ sig.take 57 ++ key ++ msg) 114) % edL
    decide (sig.length = 114) && decide (s < edL) && ((edB.mul s 456).mul 4 4).same ((r.add (a.mul k 456)).mul 4 4)
  | _, _ => false

/-! ## AES-256-GCM -/

/-- The product in AES's field of 256 elements. -/
def gf8 (a b fuel : Nat) : Nat :=
  match fuel with
  | 0 => 0
  | fuel + 1 =>
    let r := gf8 (if 2 * a ≥ 256 then (2 * a) ^^^ 0x11B else 2 * a) (b / 2) fuel
    if b % 2 = 1 then r ^^^ a else r

def gfMul (a b : Nat) : Nat := gf8 a b 8

/-- The inverse, 0 for 0: the power 254. -/
def gfInv (a : Nat) : Nat :=
  let b := gfMul a a
  let c := gfMul b b
  let d := gfMul c c
  let e := gfMul d d
  let f := gfMul e e
  let g := gfMul f f
  gfMul b (gfMul c (gfMul d (gfMul e (gfMul f (gfMul g (gfMul g g))))))

/-- AES's substitution of a byte (FIPS 197, 5.1.1). -/
def aesSub (a : Nat) : Nat :=
  let b := gfInv a
  let rot (n : Nat) : Nat := (b * 2 ^ n) % 256 + b / 2 ^ (8 - n)
  b ^^^ rot 1 ^^^ rot 2 ^^^ rot 3 ^^^ rot 4 ^^^ 0x63

/-- Its table. -/
def aesBox : List Nat := (List.range 256).map aesSub

def xors (a b : List Nat) : List Nat := List.zipWith (· ^^^ ·) a b

/-- The words of the key schedule of a 32-byte key (FIPS 197, 5.2): 60 of 4 bytes. -/
def aesKeys (box : List Nat) (key : List Nat) : List (List Nat) :=
  (List.range 52).foldl (fun ws j =>
    let i := j + 8
    let t := ws.getD (i - 1) []
    let sub (w : List Nat) : List Nat := w.map fun b => box.getD b 0
    let t := if i % 8 = 0 then xors (sub (t.drop 1 ++ t.take 1)) [2 ^ (i / 8 - 1), 0, 0, 0]
      else if i % 8 = 4 then sub t else t
    ws ++ [xors (ws.getD (i - 8) []) t]) ((List.range 8).map fun i => (key.drop (4 * i)).take 4)

/-- The key of a round. -/
def aesRoundKey (ks : List (List Nat)) (r : Nat) : List Nat := ((ks.drop (4 * r)).take 4).flatten

/-- SubBytes and ShiftRows: byte 4 c + r of the state comes from column c + r. -/
def aesShift (box s : List Nat) : List Nat :=
  (List.range 16).map fun i => box.getD (s.getD ((i + 4 * (i % 4)) % 16) 0) 0

/-- MixColumns. -/
def aesMix (s : List Nat) : List Nat :=
  (List.range 16).map fun i =>
    let at_ (k : Nat) : Nat := s.getD (i / 4 * 4 + (i + k) % 4) 0
    gfMul (at_ 0) 2 ^^^ gfMul (at_ 1) 3 ^^^ at_ 2 ^^^ at_ 3

/-- A block of 16 bytes enciphered under a key schedule of 14 rounds. -/
def aesBlock (box : List Nat) (ks : List (List Nat)) (b : List Nat) : List Nat :=
  let s := (List.range 13).foldl (fun s r => xors (aesMix (aesShift box s)) (aesRoundKey ks (r + 1))) (xors b (aesRoundKey ks 0))
  xors (aesShift box s) (aesRoundKey ks 14)

/-- Bytes as a number, the first the most significant, and back. -/
def beNat (bs : List Nat) : Nat := bs.foldl (fun n b => 256 * n + b) 0

def beBytes (n v : Nat) : List Nat := (List.range n).map fun i => v / 256 ^ (n - 1 - i) % 256

/-- The product of GCM (SP 800-38D, 6.3). -/
def gcmMul (x y : Nat) : Nat :=
  ((List.range 128).foldl (fun (e : Nat × Nat) i =>
    (if x.testBit (127 - i) then e.1 ^^^ e.2 else e.1, if e.2 % 2 = 1 then (e.2 / 2) ^^^ (0xE1 * 2 ^ 120) else e.2 / 2)) (0, y)).1

/-- Blocks of 16 bytes, the last filled with zeros. -/
def gcmBlocks (bs : List Nat) : List Nat :=
  (List.range ((bs.length + 15) / 16)).map fun i =>
    let b := (bs.drop (16 * i)).take 16
    beNat b * 256 ^ (16 - b.length)

/-- The key stream over bytes: counter blocks from the nonce's second on. -/
def gcmCtr (box : List Nat) (ks : List (List Nat)) (nonce bs : List Nat) : List Nat :=
  (List.range ((bs.length + 15) / 16)).flatMap fun i =>
    xors ((bs.drop (16 * i)).take 16) (aesBlock box ks (nonce ++ beBytes 4 ((i + 2) % 2 ^ 32)))

/-- The tag of sealed bytes with their associated data. -/
def gcmTag (box : List Nat) (ks : List (List Nat)) (nonce aad ct : List Nat) : List Nat :=
  let h := beNat (aesBlock box ks (List.replicate 16 0))
  let s := (gcmBlocks aad ++ gcmBlocks ct ++ [8 * aad.length * 2 ^ 64 + 8 * ct.length]).foldl (fun z b => gcmMul (z ^^^ b) h) 0
  xors (beBytes 16 s) (aesBlock box ks (nonce ++ beBytes 4 1))

def natsOf (bs : List Byte) : List Nat := bs.map (·.toNat)

def bytesOfNats (ns : List Nat) : List Byte := ns.map (BitVec.ofNat 8)

/-- Sealed bytes and tag of a text under a 32-byte key, a 12-byte nonce and associated data. -/
def gcmSeal (key nonce aad text : List Byte) : List Byte × List Byte :=
  let ks := aesKeys aesBox (natsOf key)
  let c := gcmCtr aesBox ks (natsOf nonce) (natsOf text)
  (bytesOfNats c, bytesOfNats (gcmTag aesBox ks (natsOf nonce) (natsOf aad) c))

/-- The text that sealed bytes hold; none for a bad tag. -/
def gcmOpen (key nonce aad ct tag : List Byte) : Option (List Byte) :=
  let ks := aesKeys aesBox (natsOf key)
  let c := natsOf ct
  if bytesOfNats (gcmTag aesBox ks (natsOf nonce) (natsOf aad) c) = tag then some (bytesOfNats (gcmCtr aesBox ks (natsOf nonce) c))
  else none

/-- The package key of AES-256-GCM (R359): fused, and its value is not stated (log 11). -/
def packageKey : List Byte := (List.range 32).map Config.packageKey

end Sys2Proof.Machine
end

