-- ==== Sys2Proof/Syntax.lean ====
section
/-! DEFINITION. The instructions of the P8: one constructor of `Instr` per row of spec/opcode_table.json. The rows that
are words of the Lumron instruction set carry the fields of their encoding (R66-R92); the rows that are steps of the
hardware, of the scheduler or of the host carry what names the occasion. Fields that only some codes of the encoding
use are inductive types, so a reserved code has no term. -/

namespace Sys2Proof

/-- Rounding modes (R19). -/
inductive RMode | rne | rtz | rup | rdn | rsr
  deriving DecidableEq, Repr, Inhabited

/-- An S-lane operand: level and index (R37). -/
inductive SOp
  | lat
  | q (i : BitVec 4)
  | s (i : BitVec 5)
  | k (i : BitVec 5)
  deriving DecidableEq, Repr, Inhabited

/-- Operand b of an S word that takes an IMM word in its place (R75). -/
inductive SB
  | op (a : SOp)
  | imm (n : BitVec 60)
  deriving DecidableEq, Repr, Inhabited

/-- The immediate of an SI word: IMM22, or an IMM word with IMM22 = 0 (R75, R80). -/
inductive Imm
  | short (n : BitVec 22)
  | long (n : BitVec 60)
  deriving DecidableEq, Repr, Inhabited

/-- A coordinate of an SM word: an operand, or the unsigned 7-bit immediate of AI and BI (R84). -/
inductive SC
  | op (a : SOp)
  | imm (n : BitVec 7)
  deriving DecidableEq, Repr, Inhabited

/-- The task index of SPAWN and GSPAWN (R85, R75). -/
inductive TIdx
  | op (a : SOp)
  | imm (n : BitVec 7)
  | long (n : BitVec 60)
  deriving DecidableEq, Repr, Inhabited

/-- A predicate operand: negate flag and number (R41, R81). A guard has the same form. -/
structure POp where
  neg : Bool
  p   : BitVec 6
  deriving DecidableEq, Repr, Inhabited

/-- The destination of a scalar result: named write and named register (R39, R79). -/
structure Dst where
  nw   : Bool
  nidx : BitVec 5
  deriving DecidableEq, Repr, Inhabited

/-- The DEP word: token produced and tokens consumed, 0 for none (R74). -/
structure Dep where
  prod : BitVec 6
  c0   : BitVec 6
  c1   : BitVec 6
  c2   : BitVec 6
  deriving DecidableEq, Repr, Inhabited

/-- What every word carries beside its operands: the idle count, and the STAMP and DEP words (R66, R69). -/
structure Hdr where
  idle  : BitVec 10
  stamp : Option (BitVec 32)
  dep   : Option Dep
  deriving DecidableEq, Repr, Inhabited

/-- The CLAMP field with its pool index (R70). -/
inductive Clamp
  | none
  | unit
  | sym
  | pool (k : BitVec 5)
  deriving DecidableEq, Repr, Inhabited

/-- The MOD word (R70). -/
structure Mod where
  nega  : Bool
  absa  : Bool
  negb  : Bool
  absb  : Bool
  negc  : Bool
  absc  : Bool
  exp   : BitVec 7
  rm    : Option RMode
  rabs  : Bool
  rneg  : Bool
  clamp : Clamp
  sat   : Bool
  deriving DecidableEq, Repr, Inhabited

/-- The COORD word: coordinates 2 and 3 (R77). -/
structure Coord where
  c2 : BitVec 30
  c3 : BitVec 30
  deriving DecidableEq, Repr, Inhabited

/-- SA fields of a word with operands a and b (R79). -/
structure SA where
  d : Dst
  a : SOp
  b : SB
  g : POp
  deriving DecidableEq, Repr, Inhabited

/-- SA fields of a word with one operand (R79). -/
structure SA1 where
  d : Dst
  a : SOp
  g : POp
  deriving DecidableEq, Repr, Inhabited

/-- SI fields (R80). -/
structure SI where
  d   : Dst
  a   : SOp
  imm : Imm
  g   : POp
  deriving DecidableEq, Repr, Inhabited

/-- SP fields of a word that compares two scalars (R81). -/
structure SP where
  pd : BitVec 6
  a  : SOp
  b  : SB
  g  : POp
  deriving DecidableEq, Repr, Inhabited

/-- SP fields of a word that combines two predicates (R81). -/
structure PP where
  pd : BitVec 6
  a  : POp
  b  : POp
  g  : POp
  deriving DecidableEq, Repr, Inhabited

/-- Widths of SEXT and ZEXT (R79). -/
inductive ExtW | w8 | w16 | w32
  deriving DecidableEq, Repr, Inhabited

/-- Conditions of CMP and VICMP (R81). -/
inductive ICond | eq | ne | lts | les | gts | ges | ltu | leu | gtu | geu
  deriving DecidableEq, Repr, Inhabited

/-- Conditions of FCMP and VCMP (R81, R148). -/
inductive FCond | eq | ne | lt | le | gt | ge | uo
  deriving DecidableEq, Repr, Inhabited

/-- Scalar floating-point types (R120). -/
inductive FT | f32 | f64
  deriving DecidableEq, Repr, Inhabited

/-- The other type of FCVT (R121). -/
inductive CvtT | f32 | f64 | s64 | u64
  deriving DecidableEq, Repr, Inhabited

/-- Field selectors of DSET (R83, R128): SLOT, VALID, STEPi, ORGi, EXTi. -/
inductive DFld
  | slot
  | valid
  | step (i : BitVec 2)
  | org (i : BitVec 2)
  | ext (i : BitVec 2)
  deriving DecidableEq, Repr, Inhabited

/-- Argument modes (R85, R261); ROOT is the mode of the entry task's boxes. -/
inductive AMode | in_ | out | inout | stream | loc | root
  deriving DecidableEq, Repr, Inhabited

/-- Merge policies (R85). -/
inductive Merge | excl | sum | max | min | order
  deriving DecidableEq, Repr, Inhabited

/-- Fence scopes (R86, R324). -/
inductive Scope | core | cluster | die | package | system
  deriving DecidableEq, Repr, Inhabited

/-- Type slots of the V classes (R94). -/
inductive VF | f32 | bf16 | f16
  deriving DecidableEq, Repr, Inhabited

inductive VI | i8 | i16 | i32 | i64
  deriving DecidableEq, Repr, Inhabited

inductive VW | w32 | w16 | w8 | w64
  deriving DecidableEq, Repr, Inhabited

/-- A V-lane operand (R38): latch, queue entry, accumulator row, broadcast scalar. -/
inductive VOp
  | vlat
  | vq (i : BitVec 3)
  | row (i : BitVec 8)
  | s (i : BitVec 5)
  | k (i : BitVec 5)
  deriving DecidableEq, Repr, Inhabited

/-- A level-11 operand: a broadcast scalar (R53). -/
inductive Bc
  | s (i : BitVec 5)
  | k (i : BitVec 5)
  deriving DecidableEq, Repr, Inhabited

/-- The index operand of VGTH and VSCT: level 01 or 10 (R167). -/
inductive VIx
  | vq (i : BitVec 3)
  | row (i : BitVec 8)
  deriving DecidableEq, Repr, Inhabited

/-- VA fields of a word with one, two or three sources (R87). -/
structure VA1 where
  dest : BitVec 8
  a    : VOp
  mask : BitVec 3
  z    : Bool
  deriving DecidableEq, Repr, Inhabited

structure VA2 where
  dest : BitVec 8
  a    : VOp
  b    : VOp
  mask : BitVec 3
  z    : Bool
  deriving DecidableEq, Repr, Inhabited

structure VA3 where
  dest : BitVec 8
  a    : VOp
  b    : VOp
  c    : VOp
  mask : BitVec 3
  z    : Bool
  deriving DecidableEq, Repr, Inhabited

/-- VA fields of a comparison, which writes mask `dm` (R148). -/
structure VCm where
  dm   : BitVec 3
  a    : VOp
  b    : VOp
  mask : BitVec 3
  z    : Bool
  deriving DecidableEq, Repr, Inhabited

/-- Element formats of VCVT with the codes of R88. -/
inductive ETy | f32 | bf16 | f16 | e4m3 | e5m2 | e3m2 | e2m3 | e2m1 | int8 | uint8 | int16 | int32
  deriving DecidableEq, Repr, Inhabited

/-- VM fields shared by the memory words (R89). -/
structure VM where
  reg    : BitVec 8
  d      : BitVec 4
  rowoff : BitVec 12
  mask   : BitVec 3
  coord  : Option Coord
  deriving DecidableEq, Repr, Inhabited

/-- CA fields of a copy: destination and source handles, counter (slot and index, when CE is set), advances (R92). -/
structure CA where
  dst  : BitVec 4
  src  : BitVec 4
  cnt  : Option (BitVec 4 × BitVec 8)
  advd : Bool
  advs : Bool
  deriving DecidableEq, Repr, Inhabited

/-- Operations of RATOM (R92, R213). -/
inductive AOp | add | swap | cas | mins | maxs | and | or | xor
  deriving DecidableEq, Repr, Inhabited

/-- The rings of the device: the four of the PF and the fault-record ring of each function (R371, R374). -/
inductive RingId
  | fq
  | ev
  | col
  | err
  | fault (fn : Nat)
  deriving DecidableEq, Repr, Inhabited

/-- On-chip SRAM structures whose words can fail (R399). -/
inductive Sram
  | spad | acc | clstore | bslot | afifo | vq
  | istore | queues | fmtq | regs | descs
  | tlb | uncache | tasktab | staging
  | hostTlb | peerRx | peerRetry | colStore | cpMem
  deriving DecidableEq, Repr, Inhabited

/-- What a peer asks of this device (R385). -/
inductive PeerReq
  | rd (va : Nat) (len : Nat) (buf : Nat)
  | wr (va : Nat) (data : List (BitVec 8))
  | atom (op : AOp) (wide : Bool) (va : Nat) (x y : BitVec 64)
  deriving DecidableEq, Repr, Inhabited

/-- What a debug read names: a device virtual address, or a place in a box of a task's scratchpad or cluster store (R359). -/
inductive DebugAt
  | va (a : Nat)
  | box (task slot off : Nat)
  deriving DecidableEq, Repr, Inhabited

/-- A host access through a window: a read of `len` bytes or a write (R376). -/
inductive HostAcc
  | rd (off : Nat) (len : Nat)
  | wr (off : Nat) (data : List (BitVec 8))
  deriving DecidableEq, Repr, Inhabited


/-- One constructor per row of spec/opcode_table.json, in the table's order. Words of the instruction set take `h`, what
every word carries, and their own fields; steps that have no encoding take what names their occasion: a task `tid`, an
outstanding word `x`, a unit `u`, a launch `lid`, a function `fn`, a port, a die. -/
inductive Instr
  | add (h : Hdr) (f : SA)
  | sub (h : Hdr) (f : SA)
  | mul (h : Hdr) (f : SA)
  | mulhs (h : Hdr) (f : SA)
  | mulhu (h : Hdr) (f : SA)
  | divs (h : Hdr) (f : SA)
  | divu (h : Hdr) (f : SA)
  | rems (h : Hdr) (f : SA)
  | remu (h : Hdr) (f : SA)
  | and (h : Hdr) (f : SA)
  | or (h : Hdr) (f : SA)
  | xor (h : Hdr) (f : SA)
  | andn (h : Hdr) (f : SA)
  | orn (h : Hdr) (f : SA)
  | shl (h : Hdr) (f : SA)
  | shr (h : Hdr) (f : SA)
  | sar (h : Hdr) (f : SA)
  | rol (h : Hdr) (f : SA)
  | ror (h : Hdr) (f : SA)
  | clz (h : Hdr) (f : SA1)
  | ctz (h : Hdr) (f : SA1)
  | popc (h : Hdr) (f : SA1)
  | brev (h : Hdr) (f : SA1)
  | mins (h : Hdr) (f : SA)
  | maxs (h : Hdr) (f : SA)
  | minu (h : Hdr) (f : SA)
  | maxu (h : Hdr) (f : SA)
  | sext (h : Hdr) (f : SA1) (w : ExtW)
  | zext (h : Hdr) (f : SA1) (w : ExtW)
  | bfx (h : Hdr) (f : SA1) (lsb w1 : BitVec 6)
  | bfi (h : Hdr) (f : SA) (lsb w1 : BitVec 6)
  | sel (h : Hdr) (f : SA) (p : POp)
  | mov (h : Hdr) (f : SA1)
  | addImm (h : Hdr) (f : SI)
  | subImm (h : Hdr) (f : SI)
  | mulImm (h : Hdr) (f : SI)
  | andImm (h : Hdr) (f : SI)
  | orImm (h : Hdr) (f : SI)
  | xorImm (h : Hdr) (f : SI)
  | andnImm (h : Hdr) (f : SI)
  | ornImm (h : Hdr) (f : SI)
  | shlImm (h : Hdr) (f : SI)
  | shrImm (h : Hdr) (f : SI)
  | sarImm (h : Hdr) (f : SI)
  | rolImm (h : Hdr) (f : SI)
  | rorImm (h : Hdr) (f : SI)
  | minsImm (h : Hdr) (f : SI)
  | maxsImm (h : Hdr) (f : SI)
  | minuImm (h : Hdr) (f : SI)
  | maxuImm (h : Hdr) (f : SI)
  | movi (h : Hdr) (d : Dst) (imm : Imm) (g : POp)
  | cmp (h : Hdr) (f : SP) (cc : ICond)
  | tst (h : Hdr) (f : SP) (ne : Bool)
  | pand (h : Hdr) (f : PP)
  | por (h : Hdr) (f : PP)
  | pxor (h : Hdr) (f : PP)
  | pandn (h : Hdr) (f : PP)
  | pget (h : Hdr) (d : Dst) (a : POp) (g : POp)
  | pset (h : Hdr) (pd : BitVec 6) (a : SOp) (g : POp)
  | fcmp (h : Hdr) (t : FT) (pd : BitVec 6) (a b : SOp) (g : POp) (cc : FCond)
  | fadd (h : Hdr) (t : FT) (f : SA) (rm : RMode)
  | fsub (h : Hdr) (t : FT) (f : SA) (rm : RMode)
  | fmul (h : Hdr) (t : FT) (f : SA) (rm : RMode)
  | ffma (h : Hdr) (t : FT) (f : SA) (c : SOp) (rm : RMode)
  | fdiv (h : Hdr) (t : FT) (f : SA) (rm : RMode)
  | fsqrt (h : Hdr) (t : FT) (f : SA1) (rm : RMode)
  | fmin (h : Hdr) (t : FT) (f : SA)
  | fmax (h : Hdr) (t : FT) (f : SA)
  | fcvt (h : Hdr) (t : FT) (f : SA1) (rm : RMode) (x : CvtT) (out : Bool)
  | br (h : Hdr) (g : POp) (off : BitVec 24)
  | callt (h : Hdr) (g : POp) (off : BitVec 24)
  | rett (h : Hdr) (g : POp)
  | loopb (h : Hdr) (g : POp) (off : BitVec 24)
  | lset (h : Hdr) (a : SOp) (dcnt : BitVec 16) (long : Bool) (g : POp)
  | nop (h : Hdr) (g : POp)
  | dset (h : Hdr) (d : BitVec 4) (fld : DFld) (a : SOp) (g : POp)
  | dget (h : Hdr) (d : Dst) (e : BitVec 4) (w : BitVec 3) (g : POp)
  | boxsub (h : Hdr) (d e : BitVec 4) (a b : SOp) (co : Option Coord) (g : POp)
  | boxdim (h : Hdr) (d : Dst) (e : BitVec 4) (dim : BitVec 2) (g : POp)
  | dadv (h : Hdr) (d : BitVec 4) (a : SOp) (dim : BitVec 2) (g : POp)
  | lds (h : Hdr) (d : Dst) (slot : BitVec 4) (x y : SC) (co : Option Coord) (g : POp)
  | sts (h : Hdr) (slot : BitVec 4) (x y : SC) (c : SB) (co : Option Coord) (g : POp)
  | cadd (h : Hdr) (slot : BitVec 4) (x : SC) (c : SB) (co : Option Coord) (g : POp)
  | crd (h : Hdr) (d : Dst) (slot : BitVec 4) (x : SC) (co : Option Coord) (g : POp)
  | fmtq (h : Hdr) (a : SB) (g : POp)
  | sync (h : Hdr)
  | segend (h : Hdr) (sig : BitVec 64) (len : BitVec 32)
  | segmentEndCheck
  | waitge (h : Hdr) (slot : BitVec 4) (idx : BitVec 8) (a : SB)
  | waitgeSatisfied (tid : Nat)
  | park (tid : Nat)
  | parkedWake (tid : Nat)
  | pcommit (h : Hdr)
  | pcancel (h : Hdr)
  | phaseRestoreComplete (tid : Nat)
  | realign (h : Hdr) (f : BitVec 12)
  | arg (h : Hdr) (x : BitVec 4) (d : BitVec 4) (mode : AMode) (merge : Merge) (g : POp)
  | spawn (h : Hdr) (i : TIdx) (g : POp)
  | gspawn (h : Hdr) (i : TIdx) (n1 : BitVec 3) (g : POp)
  | cont (h : Hdr) (off : BitVec 24) (g : POp)
  | tend (h : Hdr) (g : POp)
  | tfail (h : Hdr) (a : SB) (g : POp)
  | lblget (h : Hdr) (f : SA1)
  | lblraise (h : Hdr) (mask : BitVec 8) (g : POp)
  | sysrd (h : Hdr) (d : Dst) (n : BitVec 8) (g : POp)
  | syswr (h : Hdr) (n : BitVec 8) (a : SB) (g : POp)
  | trap (h : Hdr) (code : BitVec 8) (g : POp)
  | bkpt (h : Hdr) (g : POp)
  | breakResume (tid : Nat)
  | fence (h : Hdr) (sc : Scope) (g : POp)
  | vadd (h : Hdr) (t : VF) (f : VA2) (md : Option Mod)
  | vsub (h : Hdr) (t : VF) (f : VA2) (md : Option Mod)
  | vmul (h : Hdr) (t : VF) (f : VA2) (md : Option Mod)
  | vfma (h : Hdr) (t : VF) (f : VA3) (md : Option Mod)
  | vmin (h : Hdr) (t : VF) (f : VA2) (md : Option Mod)
  | vmax (h : Hdr) (t : VF) (f : VA2) (md : Option Mod)
  | vcmp (h : Hdr) (t : VF) (f : VCm) (cc : FCond) (md : Option Mod)
  | vsel (h : Hdr) (w : VW) (dest : BitVec 8) (a b : VOp) (mask : BitVec 3)
  | vrcp (h : Hdr) (t : VF) (f : VA1) (md : Option Mod)
  | vrsq (h : Hdr) (t : VF) (f : VA1) (md : Option Mod)
  | vsqrt (h : Hdr) (t : VF) (f : VA1) (md : Option Mod)
  | vdiv (h : Hdr) (t : VF) (f : VA2) (md : Option Mod)
  | vexp2 (h : Hdr) (t : VF) (f : VA1) (md : Option Mod)
  | vlog2 (h : Hdr) (t : VF) (f : VA1) (md : Option Mod)
  | vtanh (h : Hdr) (t : VF) (f : VA1) (md : Option Mod)
  | vsigm (h : Hdr) (t : VF) (f : VA1) (md : Option Mod)
  | vcvt (h : Hdr) (dt st : ETy) (f : VA1) (sc : Option VOp) (nosat : Bool) (md : Option Mod)
  | vredsum (h : Hdr) (t : VF) (dest : BitVec 8) (a : VOp) (mask : BitVec 3) (md : Option Mod)
  | vredmax (h : Hdr) (t : VF) (dest : BitVec 8) (a : VOp) (mask : BitVec 3) (md : Option Mod)
  | vredmin (h : Hdr) (t : VF) (dest : BitVec 8) (a : VOp) (mask : BitVec 3) (md : Option Mod)
  | vredamax (h : Hdr) (t : VF) (dest : BitVec 8) (a : VOp) (mask : BitVec 3) (md : Option Mod)
  | vscan (h : Hdr) (t : VF) (f : VA1) (md : Option Mod)
  | viadd (h : Hdr) (t : VI) (f : VA2) (md : Option Mod)
  | visub (h : Hdr) (t : VI) (f : VA2) (md : Option Mod)
  | vimul (h : Hdr) (t : VI) (f : VA2) (md : Option Mod)
  | vimulh (h : Hdr) (t : VI) (f : VA2) (u : Bool) (md : Option Mod)
  | vimad (h : Hdr) (t : VI) (f : VA3) (md : Option Mod)
  | vimin (h : Hdr) (t : VI) (f : VA2) (u : Bool) (md : Option Mod)
  | vimax (h : Hdr) (t : VI) (f : VA2) (u : Bool) (md : Option Mod)
  | vand (h : Hdr) (t : VI) (f : VA2)
  | vor (h : Hdr) (t : VI) (f : VA2)
  | vxor (h : Hdr) (t : VI) (f : VA2)
  | vandn (h : Hdr) (t : VI) (f : VA2)
  | vnot (h : Hdr) (t : VI) (f : VA1)
  | vshl (h : Hdr) (t : VI) (f : VA2)
  | vshr (h : Hdr) (t : VI) (f : VA2)
  | vsar (h : Hdr) (t : VI) (f : VA2)
  | vicmp (h : Hdr) (t : VI) (f : VCm) (cc : ICond) (md : Option Mod)
  | vpopc (h : Hdr) (t : VI) (f : VA1)
  | vclz (h : Hdr) (t : VI) (f : VA1)
  | vmov (h : Hdr) (w : VW) (f : VA1)
  | vbcast (h : Hdr) (w : VW) (f : VA1) (b : Bc)
  | viota (h : Hdr) (w : VW) (dest : BitVec 8) (a b : Bc) (mask : BitVec 3) (z : Bool)
  | vperm (h : Hdr) (w : VW) (f : VA2)
  | vrotl (h : Hdr) (w : VW) (f : VA1) (b : Bc)
  | vzip (h : Hdr) (w : VW) (dest a : BitVec 8) (n1 : BitVec 2) (mask : BitVec 3) (z : Bool)
  | vunzip (h : Hdr) (w : VW) (dest a : BitVec 8) (n1 : BitVec 2) (mask : BitVec 3) (z : Bool)
  | vmand (h : Hdr) (d a b : BitVec 3)
  | vmor (h : Hdr) (d a b : BitVec 3)
  | vmxor (h : Hdr) (d a b : BitVec 3)
  | vmnot (h : Hdr) (d a : BitVec 3)
  | vmpop (h : Hdr) (dest : BitVec 8) (a : BitVec 3)
  | vld (h : Hdr) (w : VW) (f : VM) (adv z : Bool)
  | vst (h : Hdr) (w : VW) (f : VM) (adv : Bool)
  | vgth (h : Hdr) (w : VW) (f : VM) (ix : VIx)
  | vsct (h : Hdr) (w : VW) (f : VM) (ix : VIx)
  | vwin (h : Hdr) (p s : Option (BitVec 4))
  | vmode (h : Hdr) (rm : Option RMode) (seed : Option Bc)
  | mloadb (h : Hdr) (slot : Bool) (b x : BitVec 4)
  | mma (h : Hdr) (t : BitVec 4) (slot : Bool) (a x : BitVec 4) (rows1 : BitVec 7) (ovw chk zs : Bool)
  | mzero (h : Hdr) (t : BitVec 4)
  | mcopy (h : Hdr) (d t : BitVec 4)
  | mchkv (h : Hdr) (t : BitVec 4) (ka kr : BitVec 5) (rr cr : BitVec 8)
  | mtype (h : Hdr) (t : BitVec 4) (int : Bool)
  | accrel (h : Hdr) (n : BitVec 5)
  | accwake (h : Hdr) (t : BitVec 4)
  | accgate (h : Hdr) (t : BitVec 4) (ret : Bool)
  | accinjFlip
  | cin (h : Hdr) (f : CA)
  | cout (h : Hdr) (f : CA)
  | coutNa (h : Hdr) (f : CA)
  | cfill (h : Hdr) (src : BitVec 4) (cnt : Option (BitVec 4 × BitVec 8)) (advs : Bool)
  | cslice (h : Hdr) (f : CA) (n1 : BitVec 3)
  | rrot (h : Hdr) (dst src : BitVec 4) (advd advs prev : Bool)
  | csig (h : Hdr) (slot : BitVec 4) (idx : BitVec 8) (amt : BitVec 14)
  | ratom (h : Hdr) (op : AOp) (wide : Bool) (tgt src : BitVec 4) (cnt : Option (BitVec 4 × BitVec 8))
  | cfence (h : Hdr) (sc : Scope)
  | txload (h : Hdr) (src : BitVec 4) (id : BitVec 8)
  | txrun (h : Hdr) (f : CA) (id : BitVec 8)
  | xsend (h : Hdr) (src : BitVec 4) (die : BitVec 3) (ch : BitVec 6) (advs : Bool)
  | xrecv (h : Hdr) (dst : BitVec 4) (die : BitVec 3) (ch : BitVec 6) (at_ : BitVec 32) (advd : Bool)
  | xsendDataArrive (x : Nat)
  | xrecvPerform
  | untimedWordComplete (x : Nat)
  | heldFaultFound (x : Nat)
  | ratomAnswer (x : Nat)
  | ratomRetryTimeout (x : Nat)
  | fetchGroup
  | sResultArrive
  | vRowWrite
  | timedStorePerform
  | mRowGroupAccumulate
  | mloadbSlotReady
  | mchkvResult
  | childCopyInComplete (tid : Nat)
  | taskPick (u : Nat)
  | outwardCopyComplete (tid : Nat)
  | join (tid : Nat)
  | taskAging (tid : Nat)
  | gangReservationLapse (tid : Nat)
  | gangStart (tid : Nat)
  | timetabledStart (tid : Nat)
  | forcedSave (tid : Nat)
  | preemptComplete (asid : Nat)
  | chainTailWrite (fn ch : Nat) (v : BitVec 64)
  | chainReset (fn ch : Nat)
  | chainEntryStart (fn ch : Nat)
  | launchComplete (lid : Nat)
  | pageFaultRecord (die asid page : Nat)
  | faultresolveReplay (die : Nat) (tag : BitVec 16)
  | faultresolveAbort (die : Nat) (tag : BitVec 16)
  | pageWalkComplete (die asid page : Nat)
  | expandedViewRead (asid va len : Nat)
  | colDecision
  | bar2Access (fn port : Nat) (a : HostAcc)
  | cxlMemAccess (port : Nat) (a : HostAcc)
  | debugRead (asid : Nat) (at_ : DebugAt) (len : Nat)
  | createAs
  | destroyAs
  | invalidate
  | setKey
  | setDest
  | installPolicy
  | removePolicy
  | connect
  | circuitRetuneComplete
  | setWeight
  | setWindow
  | setPeerasid
  | preempt
  | resume
  | timingGroup
  | mailboxUnknownCommand
  | thawCoreContext (core asid : Nat)
  | thawHostFunction (fn port : Nat)
  | thawDebugSession
  | thawPeerPort (port : Nat)
  | thawQuarantinedCore (core : Nat)
  | thawSequencerContext (sq asid : Nat)
  | vftabWrite (n : Nat) (v : BitVec 64)
  | ringHeadWrite (r : RingId) (v : BitVec 64)
  | ringRecordWrite
  | peerFlitReceive (port : Nat) (sq : BitVec 12) (good : Bool) (rq : PeerReq)
  | peerNakReplay (port : Nat) (sq : BitVec 12)
  | peerRequest (port : Nat)
  | peerLinkFail (port : Nat)
  | peerRateStepDown (port : Nat)
  | peerRateStepUp (port : Nat)
  | flr (fn port : Nat)
  | frameTick
  | patrolScrub (sector : Nat)
  | sramError (x : Sram) (unit : Nat) (off : Nat) (fatal : Bool)
  | cpLockstepMismatch (u : Nat)
  | cpRestartComplete (u : Nat)
  | pctlPreqWrite (die : Nat) (v : BitVec 3)
  | pctlC3okWrite (die : Nat) (v : Bool)
  | pctlShrinkWrite (die : Nat) (v : Bool)
  | pstateChange (die : Nat)
  | modpwrWrite (v : BitVec 64)
  | ltolWrite (fn : Nat) (v : BitVec 64)
  | cstateEntry (die : Nat)
  | dieWake (die : Nat)
  | checkpointSave
  | checkpointRestore
  | checkpointComplete
  | enWrite (i : Nat) (v : BitVec 64)
  | packageReset
  | registerWrite (off : Nat) (v : BitVec 64)
  | gangReservationRenew (tid : Nat)
  deriving DecidableEq, Repr, Inhabited

end Sys2Proof
end

