-- ==== Sys2Proof/WellFormed.lean ====
section
/-! DEFINITION. Which terms of `Instr` are words of the instruction set, and which of those the encoding admits: the
checks of R97 that the types of the fields do not already make. -/

namespace Sys2Proof

/-- The DEP rules of R74. -/
def Dep.wf (d : Dep) : Bool :=
  !(d.prod == 0#6 && d.c0 == 0#6 && d.c1 == 0#6 && d.c2 == 0#6)
    && (d.c0 != 0#6 || d.c1 == 0#6) && (d.c1 != 0#6 || d.c2 == 0#6)
    && (d.c0 == 0#6 || d.c0 != d.c1) && (d.c1 == 0#6 || d.c1 != d.c2)
    && (d.c0 == 0#6 || d.c0 != d.c2)

/-- A STAMP needs IDLE 0 (R68). -/
def Hdr.stampOk (h : Hdr) : Bool := h.stamp.isNone || h.idle == 0#10

/-- An S word: no DEP (R69). -/
def Hdr.wfS (h : Hdr) : Bool := h.dep.isNone && h.stampOk

/-- A V, M or C word that may carry DEP (R69). -/
def Hdr.wfE (h : Hdr) : Bool := h.stampOk && (match h.dep with | none => true | some d => d.wf)

/-- VWIN and VMODE carry no DEP (R69, R173). -/
def Hdr.wfX (h : Hdr) : Bool := h.dep.isNone && h.stampOk

/-- Source fields only for the sources a word has (R70). -/
def Mod.srcOk (m : Mod) (hasB hasC : Bool) : Bool :=
  (hasB || (!m.negb && !m.absb)) && (hasC || (!m.negc && !m.absc))

/-- No field beyond the source fields (R71: VCMP, VICMP). -/
def Mod.srcOnly (m : Mod) : Bool :=
  m.exp == 0#7 && m.rm.isNone && !m.rabs && !m.rneg && m.clamp == .none && !m.sat

/-- The MOD word of a float word (R71). -/
def modF (hasB hasC : Bool) : Option Mod → Bool
  | none => true
  | some m => m.srcOk hasB hasC

/-- The MOD word of a special function: no RM (R71). -/
def modS (hasB : Bool) : Option Mod → Bool
  | none => true
  | some m => m.srcOk hasB false && m.rm.isNone

/-- The MOD word of an integer word: EXP 0 and no RM (R71). -/
def modI (hasC : Bool) : Option Mod → Bool
  | none => true
  | some m => m.srcOk true hasC && m.exp == 0#7 && m.rm.isNone

/-- The MOD word of a comparison (R71). -/
def modC : Option Mod → Bool
  | none => true
  | some m => m.srcOk true false && m.srcOnly

/-- An operand that may name a pair: not `vlat`, not `vq0` (R52). -/
def VOp.pairOk : VOp → Bool
  | .vlat => false
  | .vq i => i != 0#3
  | _ => true

def VIx.pairOk : VIx → Bool
  | .vq i => i != 0#3
  | .row _ => true

/-- An operand of an integer word of type `t`: a pair operand in the .64 form (R52). -/
def VI.opOk (t : VI) (a : VOp) : Bool := t != .i64 || a.pairOk

def VW.opOk (w : VW) (a : VOp) : Bool := w != .w64 || a.pairOk

/-- Types of the integer words that have no .64 form (R94). -/
def VI.no64 (t : VI) : Bool := t != .i64

/-- A span of `n` rows, or pairs, from a row code stays in its window (R144). -/
def spanOk (w : VW) (row : BitVec 8) (n1 : BitVec 2) : Bool :=
  row.toNat % 128 + (if w == .w64 then 2 else 1) * (n1.toNat + 1) ≤ 128

/-- Integer targets of VCVT (R152). -/
def ETy.isInt : ETy → Bool
  | .int8 | .uint8 | .int16 | .int32 => true
  | _ => false

/-- The other type of FCVT differs from its own (R79). -/
def FT.differs : FT → CvtT → Bool
  | .f32, .f32 => false
  | .f64, .f64 => false
  | _, _ => true

/-- A bit field inside 64 bits (R79). -/
def fieldOk (lsb w1 : BitVec 6) : Bool := lsb.toNat + w1.toNat + 1 ≤ 64

/-- MERGE is EXCL unless the mode is OUT or INOUT; ROOT is no mode of ARG (R85). -/
def argOk (mode : AMode) (merge : Merge) : Bool :=
  mode != .root && (merge == .excl || mode == .out || mode == .inout)

/-- The encoding admits the term (R66-R92, R97). A step that is no word has no encoding to meet. -/
def Instr.wf : Instr → Bool
  | .add h _ | .sub h _ | .mul h _ | .mulhs h _ | .mulhu h _ | .divs h _ | .divu h _ | .rems h _ | .remu h _
  | .and h _ | .or h _ | .xor h _ | .andn h _ | .orn h _ | .shl h _ | .shr h _ | .sar h _ | .rol h _ | .ror h _
  | .mins h _ | .maxs h _ | .minu h _ | .maxu h _ => h.wfS
  | .clz h _ | .ctz h _ | .popc h _ | .brev h _ | .mov h _ | .sext h _ _ | .zext h _ _ | .lblget h _ => h.wfS
  | .bfx h _ l w | .bfi h _ l w => h.wfS && fieldOk l w
  | .sel h _ _ => h.wfS
  | .addImm h _ | .subImm h _ | .mulImm h _ | .andImm h _ | .orImm h _ | .xorImm h _ | .andnImm h _ | .ornImm h _
  | .shlImm h _ | .shrImm h _ | .sarImm h _ | .rolImm h _ | .rorImm h _ | .minsImm h _ | .maxsImm h _
  | .minuImm h _ | .maxuImm h _ => h.wfS
  | .movi h _ _ _ | .cmp h _ _ | .tst h _ _ | .pand h _ | .por h _ | .pxor h _ | .pandn h _ | .pget h _ _ _
  | .pset h _ _ _ | .fcmp h _ _ _ _ _ _ => h.wfS
  | .fadd h _ _ rm | .fsub h _ _ rm | .fmul h _ _ rm | .fdiv h _ _ rm | .fsqrt h _ _ rm | .ffma h _ _ _ rm =>
    h.wfS && rm != .rsr
  | .fmin h _ _ | .fmax h _ _ => h.wfS
  | .fcvt h t _ rm x _ => h.wfS && rm != .rsr && t.differs x
  | .br h _ _ | .callt h _ _ | .rett h _ | .loopb h _ _ | .lset h _ _ _ _ | .nop h _ | .dset h _ _ _ _
  | .boxsub h _ _ _ _ _ _ | .boxdim h _ _ _ _ | .dadv h _ _ _ _ | .lds h _ _ _ _ _ _ | .sts h _ _ _ _ _ _
  | .cadd h _ _ _ _ _ | .crd h _ _ _ _ _ | .fmtq h _ _ | .waitge h _ _ _ | .pcommit h | .pcancel h => h.wfS
  | .dget h _ _ w _ => h.wfS && w.toNat ≤ 4
  | .sync h => h == ⟨0#10, none, none⟩
  | .segend h _ _ => h.dep.isNone && h.stamp.isNone
  | .realign h f => h.wfS && f != 0#12
  | .arg h _ _ mode merge _ => h.wfS && argOk mode merge
  | .spawn h _ _ | .gspawn h _ _ _ | .cont h _ _ | .tend h _ | .tfail h _ _ | .lblraise h _ _ | .sysrd h _ _ _
  | .syswr h _ _ _ | .trap h _ _ | .bkpt h _ | .fence h _ _ => h.wfS
  | .vadd h _ _ md | .vsub h _ _ md | .vmul h _ _ md | .vmin h _ _ md | .vmax h _ _ md => h.wfE && modF true false md
  | .vfma h _ _ md => h.wfE && modF true true md
  | .vcmp h _ _ _ md => h.wfE && modC md
  | .vsel h w _ a b _ => h.wfE && w.opOk a && w.opOk b
  | .vrcp h _ _ md | .vrsq h _ _ md | .vsqrt h _ _ md | .vexp2 h _ _ md | .vlog2 h _ _ md | .vtanh h _ _ md
  | .vsigm h _ _ md => h.wfE && modS false md
  | .vdiv h _ _ md => h.wfE && modS true md
  | .vcvt h d s _ sc nosat md =>
    h.wfE && d != s && (!nosat || d == .e4m3) && modF sc.isSome false md
      && (match md with | none => true | some m => !d.isInt || m.rm != some .rsr)
  | .vredsum h _ _ _ _ md | .vredmax h _ _ _ _ md | .vredmin h _ _ _ _ md | .vredamax h _ _ _ _ md =>
    h.wfE && modF false false md
  | .vscan h _ _ md => h.wfE && modF false false md
  | .viadd h t f md | .visub h t f md => h.wfE && modI false md && t.opOk f.a && t.opOk f.b
  | .vimul h t _ md | .vimulh h t _ _ md => h.wfE && modI false md && t.no64
  | .vimad h t _ md => h.wfE && modI true md && t.no64
  | .vimin h t f _ md | .vimax h t f _ md => h.wfE && modI false md && t.opOk f.a && t.opOk f.b
  | .vand h t _ | .vor h t _ | .vxor h t _ | .vandn h t _ => h.wfE && t.no64
  | .vnot h t _ | .vpopc h t _ | .vclz h t _ => h.wfE && t.no64
  | .vshl h t f | .vshr h t f | .vsar h t f => h.wfE && t.opOk f.a && t.opOk f.b
  | .vicmp h t f _ md => h.wfE && modC md && t.opOk f.a && t.opOk f.b
  | .vmov h w f | .vbcast h w f _ | .vrotl h w f _ => h.wfE && w.opOk f.a
  | .viota h _ _ _ _ _ _ => h.wfE
  | .vperm h w f => h.wfE && w.opOk f.a && w.opOk f.b
  | .vzip h w dest a n1 _ _ | .vunzip h w dest a n1 _ _ =>
    h.wfE && n1 != 0#2 && spanOk w dest n1 && spanOk w a n1
  | .vmand h _ _ _ | .vmor h _ _ _ | .vmxor h _ _ _ | .vmnot h _ _ | .vmpop h _ _ => h.wfE
  | .vld h _ _ _ _ | .vst h _ _ _ => h.wfE
  | .vgth h w _ ix | .vsct h w _ ix => h.wfE && (w != .w64 || ix.pairOk)
  | .vwin h p s => h.wfX && (p.isSome || s.isSome)
  | .vmode h rm seed => h.wfX && (rm.isSome || seed.isSome)
  | .mloadb h _ _ _ | .mma h _ _ _ _ _ _ _ _ | .mzero h _ | .mchkv h _ _ _ _ _ | .mtype h _ _ | .accwake h _
  | .accgate h _ _ => h.wfE
  | .mcopy h d t => h.wfE && d != t
  | .accrel h n => h.wfE && n.toNat ≤ 16
  | .cin h _ | .cout h _ | .coutNa h _ | .cfill h _ _ _ | .cslice h _ _ | .rrot h _ _ _ _ _ | .ratom h _ _ _ _ _
  | .cfence h _ | .txload h _ _ | .txrun h _ _ | .xsend h _ _ _ _ | .xrecv h _ _ _ _ _ => h.wfE
  | .csig h _ _ amt => h.wfE && amt != 0#14
  | _ => true

end Sys2Proof
end

