-- ==== Sys2Proof/Decode.lean ====
section
/-! DEFINITION. The encoding tables of R66-R96 and R100 as one encoder, and the decoder as its inverse: a decoder reads the
fields of a word by its opcode, and accepts the word only if the instruction so read is well formed and its own encoding
is that very word, so that a non-zero reserved bit, an unused field, a wrong extension word or an invalid operand is
refused (R97). Total on any words and any bytes. -/

namespace Sys2Proof

/-! ### Fields -/

/-- One bit as a field. -/
def b1 (b : Bool) : BitVec 1 := if b then 1#1 else 0#1

/-- Bits [lo + n - 1 : lo] of `x` (R5). -/
def fld {m : Nat} (x : BitVec m) (lo n : Nat) : BitVec n := x.extractLsb' lo n

/-- Bit `i` of `x`. -/
def bit {m : Nat} (x : BitVec m) (i : Nat) : Bool := x.getLsbD i

def encSOp : SOp → BitVec 7
  | .lat => 0b00#2 ++ 0#5
  | .q i => 0b01#2 ++ 0#1 ++ i
  | .s i => 0b10#2 ++ i
  | .k i => 0b11#2 ++ i

def decSOp (x : BitVec 7) : SOp :=
  if fld x 5 2 == 0b00#2 then .lat
  else if fld x 5 2 == 0b01#2 then .q (fld x 0 4)
  else if fld x 5 2 == 0b10#2 then .s (fld x 0 5)
  else .k (fld x 0 5)

def encPOp (g : POp) : BitVec 7 := b1 g.neg ++ g.p

def decPOp (x : BitVec 7) : POp := ⟨bit x 6, fld x 0 6⟩

/-- NW and NIDX (R79). Whether NIDX non-zero with NW clear is a non-zero unused field is not stated: the word is accepted and NIDX
ignored (DESIGN CHOICE, log 89). -/
def encDst (d : Dst) : BitVec 6 := b1 d.nw ++ d.nidx

def decDst (x : BitVec 6) : Dst := ⟨bit x 5, fld x 0 5⟩

def encVOp : VOp → BitVec 10
  | .vlat => 0b00#2 ++ 0#8
  | .vq i => 0b01#2 ++ 0#5 ++ i
  | .row i => 0b10#2 ++ i
  | .s i => 0b11#2 ++ 0b000#3 ++ i
  | .k i => 0b11#2 ++ 0b001#3 ++ i

def decVOp (x : BitVec 10) : VOp :=
  if fld x 8 2 == 0b00#2 then .vlat
  else if fld x 8 2 == 0b01#2 then .vq (fld x 0 3)
  else if fld x 8 2 == 0b10#2 then .row (fld x 0 8)
  else if bit x 5 then .k (fld x 0 5)
  else .s (fld x 0 5)

def encBc : Bc → BitVec 10
  | .s i => 0b11#2 ++ 0b000#3 ++ i
  | .k i => 0b11#2 ++ 0b001#3 ++ i

def decBc (x : BitVec 10) : Bc := if bit x 5 then .k (fld x 0 5) else .s (fld x 0 5)

def encVIx : VIx → BitVec 10
  | .vq i => 0b01#2 ++ 0#5 ++ i
  | .row i => 0b10#2 ++ i

def decVIx (x : BitVec 10) : VIx := if fld x 8 2 == 0b01#2 then .vq (fld x 0 3) else .row (fld x 0 8)

/-- The b field and the IMM word of an operand b (R75). -/
def encSB : SB → BitVec 7
  | .op a => encSOp a
  | .imm _ => 0#7

def SB.ext : SB → Option (BitVec 60)
  | .op _ => none
  | .imm n => some n

def decSB (x : BitVec 7) (imm : Option Word) : SB :=
  match imm with
  | some n => .imm (fld n 0 60)
  | none => .op (decSOp x)

def encImm : Imm → BitVec 22
  | .short n => n
  | .long _ => 0#22

def Imm.ext : Imm → Option (BitVec 60)
  | .short _ => none
  | .long n => some n

def decImm (x : BitVec 22) (imm : Option Word) : Imm :=
  match imm with
  | some n => .long (fld n 0 60)
  | none => .short x

def encSC : SC → BitVec 7
  | .op a => encSOp a
  | .imm n => n

def SC.isImm : SC → Bool
  | .op _ => false
  | .imm _ => true

def decSC (x : BitVec 7) (ai : Bool) : SC := if ai then .imm x else .op (decSOp x)

def encTIdx : TIdx → BitVec 7
  | .op a => encSOp a
  | .imm n => n
  | .long _ => 0#7

/-- FN[6], AI, of SPAWN and GSPAWN (R85). With an IMM word R75 makes the A field zero and says nothing of AI: AI is zero too, else
ILLEGAL_WORD (DESIGN CHOICE, log 90). -/
def TIdx.ai : TIdx → Bool
  | .imm _ => true
  | _ => false

def TIdx.ext : TIdx → Option (BitVec 60)
  | .long n => some n
  | _ => none

def decTIdx (x : BitVec 7) (ai : Bool) (imm : Option Word) : TIdx :=
  match imm with
  | some n => .long (fld n 0 60)
  | none => if ai then .imm x else .op (decSOp x)

def encRMode : RMode → BitVec 3
  | .rne => 0#3
  | .rtz => 1#3
  | .rup => 2#3
  | .rdn => 3#3
  | .rsr => 4#3

def decRMode (x : BitVec 3) : RMode :=
  if x == 0#3 then .rne else
  if x == 1#3 then .rtz else
  if x == 2#3 then .rup else
  if x == 3#3 then .rdn else
  .rsr

def encICond : ICond → BitVec 4
  | .eq => 0#4
  | .ne => 1#4
  | .lts => 2#4
  | .les => 3#4
  | .gts => 4#4
  | .ges => 5#4
  | .ltu => 6#4
  | .leu => 7#4
  | .gtu => 8#4
  | .geu => 9#4

def decICond (x : BitVec 4) : ICond :=
  if x == 0#4 then .eq else
  if x == 1#4 then .ne else
  if x == 2#4 then .lts else
  if x == 3#4 then .les else
  if x == 4#4 then .gts else
  if x == 5#4 then .ges else
  if x == 6#4 then .ltu else
  if x == 7#4 then .leu else
  if x == 8#4 then .gtu else
  .geu

def encFCond : FCond → BitVec 4
  | .eq => 0#4
  | .ne => 1#4
  | .lt => 2#4
  | .le => 3#4
  | .gt => 4#4
  | .ge => 5#4
  | .uo => 10#4

def decFCond (x : BitVec 4) : FCond :=
  if x == 0#4 then .eq else
  if x == 1#4 then .ne else
  if x == 2#4 then .lt else
  if x == 3#4 then .le else
  if x == 4#4 then .gt else
  if x == 5#4 then .ge else
  .uo

def encExtW : ExtW → BitVec 2
  | .w8 => 0#2
  | .w16 => 1#2
  | .w32 => 2#2

def decExtW (x : BitVec 2) : ExtW :=
  if x == 0#2 then .w8 else
  if x == 1#2 then .w16 else
  .w32

def encCvtT : CvtT → BitVec 2
  | .f32 => 0#2
  | .f64 => 1#2
  | .s64 => 2#2
  | .u64 => 3#2

def decCvtT (x : BitVec 2) : CvtT :=
  if x == 0#2 then .f32 else
  if x == 1#2 then .f64 else
  if x == 2#2 then .s64 else
  .u64

def encAMode : AMode → BitVec 3
  | .in_ => 0#3
  | .out => 1#3
  | .inout => 2#3
  | .stream => 3#3
  | .loc => 4#3
  | .root => 5#3

def decAMode (x : BitVec 3) : AMode :=
  if x == 0#3 then .in_ else
  if x == 1#3 then .out else
  if x == 2#3 then .inout else
  if x == 3#3 then .stream else
  if x == 4#3 then .loc else
  .root

def encMerge : Merge → BitVec 3
  | .excl => 0#3
  | .sum => 1#3
  | .max => 2#3
  | .min => 3#3
  | .order => 4#3

def decMerge (x : BitVec 3) : Merge :=
  if x == 0#3 then .excl else
  if x == 1#3 then .sum else
  if x == 2#3 then .max else
  if x == 3#3 then .min else
  .order

def encScope : Scope → BitVec 3
  | .core => 0#3
  | .cluster => 1#3
  | .die => 2#3
  | .package => 3#3
  | .system => 4#3

def decScope (x : BitVec 3) : Scope :=
  if x == 0#3 then .core else
  if x == 1#3 then .cluster else
  if x == 2#3 then .die else
  if x == 3#3 then .package else
  .system

def encETy : ETy → BitVec 4
  | .f32 => 0#4
  | .bf16 => 1#4
  | .f16 => 2#4
  | .e4m3 => 3#4
  | .e5m2 => 4#4
  | .e3m2 => 5#4
  | .e2m3 => 6#4
  | .e2m1 => 7#4
  | .int8 => 8#4
  | .uint8 => 9#4
  | .int16 => 10#4
  | .int32 => 11#4

def decETy (x : BitVec 4) : ETy :=
  if x == 0#4 then .f32 else
  if x == 1#4 then .bf16 else
  if x == 2#4 then .f16 else
  if x == 3#4 then .e4m3 else
  if x == 4#4 then .e5m2 else
  if x == 5#4 then .e3m2 else
  if x == 6#4 then .e2m3 else
  if x == 7#4 then .e2m1 else
  if x == 8#4 then .int8 else
  if x == 9#4 then .uint8 else
  if x == 10#4 then .int16 else
  .int32

def encAOp : AOp → BitVec 4
  | .add => 0#4
  | .swap => 1#4
  | .cas => 2#4
  | .mins => 3#4
  | .maxs => 4#4
  | .and => 5#4
  | .or => 6#4
  | .xor => 7#4

def decAOp (x : BitVec 4) : AOp :=
  if x == 0#4 then .add else
  if x == 1#4 then .swap else
  if x == 2#4 then .cas else
  if x == 3#4 then .mins else
  if x == 4#4 then .maxs else
  if x == 5#4 then .and else
  if x == 6#4 then .or else
  .xor

def encVF : VF → BitVec 2
  | .f32 => 0#2
  | .bf16 => 1#2
  | .f16 => 2#2

def decVF (x : BitVec 2) : VF :=
  if x == 0#2 then .f32 else
  if x == 1#2 then .bf16 else
  .f16

def encVI : VI → BitVec 2
  | .i8 => 0#2
  | .i16 => 1#2
  | .i32 => 2#2
  | .i64 => 3#2

def decVI (x : BitVec 2) : VI :=
  if x == 0#2 then .i8 else
  if x == 1#2 then .i16 else
  if x == 2#2 then .i32 else
  .i64

def encVW : VW → BitVec 2
  | .w32 => 0#2
  | .w16 => 1#2
  | .w8 => 2#2
  | .w64 => 3#2

def decVW (x : BitVec 2) : VW :=
  if x == 0#2 then .w32 else
  if x == 1#2 then .w16 else
  if x == 2#2 then .w8 else
  .w64

def encDFld : DFld → BitVec 5
  | .slot => 0#5
  | .valid => 1#5
  | .step i => 2#5 + i.setWidth 5
  | .org i => 6#5 + i.setWidth 5
  | .ext i => 10#5 + i.setWidth 5

def decDFld (x : BitVec 5) : DFld :=
  if x == 0#5 then .slot
  else if x == 1#5 then .valid
  else if x.toNat < 6 then .step ((x - 2#5).setWidth 2)
  else if x.toNat < 10 then .org ((x - 6#5).setWidth 2)
  else .ext ((x - 10#5).setWidth 2)

/-! ### Extension words -/

/-- The MOD word of R70. -/
def encMod (m : Mod) : Word :=
  1#4 ++ b1 m.nega ++ b1 m.absa ++ b1 m.negb ++ b1 m.absb ++ b1 m.negc ++ b1 m.absc ++ m.exp
    ++ (match m.rm with | none => 0#3 | some r => encRMode r) ++ b1 m.rm.isSome ++ b1 m.rabs ++ b1 m.rneg
    ++ (match m.clamp with | .none => 0#3 | .unit => 1#3 | .sym => 2#3 | .pool _ => 3#3)
    ++ (match m.clamp with | .pool k => k | _ => 0#5) ++ b1 m.sat ++ 0#32

def decMod (x : Word) : Mod where
  nega := bit x 59
  absa := bit x 58
  negb := bit x 57
  absb := bit x 56
  negc := bit x 55
  absc := bit x 54
  exp := fld x 47 7
  rm := if bit x 43 then some (decRMode (fld x 44 3)) else none
  rabs := bit x 42
  rneg := bit x 41
  clamp :=
    if fld x 38 3 == 0#3 then .none
    else if fld x 38 3 == 1#3 then .unit
    else if fld x 38 3 == 2#3 then .sym
    else .pool (fld x 33 5)
  sat := bit x 32

/-- The DEP word of R74. -/
def encDep (d : Dep) : Word := 2#4 ++ d.prod ++ d.c0 ++ d.c1 ++ d.c2 ++ 0#36

def decDep (x : Word) : Dep := ⟨fld x 54 6, fld x 48 6, fld x 42 6, fld x 36 6⟩

/-- The IMM word of R75. -/
def encImmW (n : BitVec 60) : Word := 3#4 ++ n

/-- The STAMP word of R76. -/
def encStamp (n : BitVec 32) : Word := 4#4 ++ 0#28 ++ n

/-- The COORD word of R77. -/
def encCoord (c : Coord) : Word := 5#4 ++ c.c2 ++ c.c3

def decCoord (x : Word) : Coord := ⟨fld x 30 30, fld x 0 30⟩

/-- The extension words that follow a primary word, by kind (R69). -/
structure Ext where
  mod   : Option Word
  dep   : Option Word
  imm   : Option Word
  stamp : Option Word
  coord : Option Word
  deriving DecidableEq, Repr, Inhabited

/-- Sorts extension words by kind; a kind outside 1-5 is dropped, and the word then fails to encode back (R69). -/
def Ext.gather : List Word → Ext
  | [] => ⟨none, none, none, none, none⟩
  | x :: xs =>
    let e := Ext.gather xs
    if fld x 60 4 == 1#4 then { e with mod := some x }
    else if fld x 60 4 == 2#4 then { e with dep := some x }
    else if fld x 60 4 == 3#4 then { e with imm := some x }
    else if fld x 60 4 == 4#4 then { e with stamp := some x }
    else if fld x 60 4 == 5#4 then { e with coord := some x }
    else e

def optL {α β : Type} (f : α → β) : Option α → List β
  | none => []
  | some a => [f a]

/-! ### The encoder -/

/-- The primary word of R66. -/
def primary (idle : BitVec 10) (lane : BitVec 2) (op : BitVec 8) (xw : BitVec 2) (ops : BitVec 42) : Word :=
  idle ++ lane ++ op ++ xw ++ ops

/-- A word with its extension words in ascending kind (R67, R69). -/
def word (h : Hdr) (lane : BitVec 2) (op : BitVec 8) (ops : BitVec 42) (md : Option Mod) (imm : Option (BitVec 60))
    (co : Option Coord) : List Word :=
  let ext := optL encMod md ++ optL encDep h.dep ++ optL encImmW imm ++ optL encStamp h.stamp ++ optL encCoord co
  primary h.idle lane op (BitVec.ofNat 2 ext.length) ops :: ext

/-- SA and SX operands (R79, R86). -/
def opsSA (d : BitVec 6) (a b g : BitVec 7) (fn : BitVec 15) : BitVec 42 := d ++ a ++ b ++ g ++ fn

/-- SI operands (R80). -/
def opsSI (d : BitVec 6) (a g : BitVec 7) (imm : BitVec 22) : BitVec 42 := d ++ a ++ g ++ imm

/-- SP operands (R81). -/
def opsSP (pd : BitVec 6) (a b g : BitVec 7) (cc : BitVec 4) : BitVec 42 := pd ++ a ++ b ++ g ++ cc ++ 0#11

/-- SB operands (R82). -/
def opsSB (g : BitVec 7) (off : BitVec 24) : BitVec 42 := g ++ off ++ 0#11

/-- SD operands (R83). -/
def opsSD (dst : BitVec 6) (d e : BitVec 4) (a b g fn : BitVec 7) : BitVec 42 := dst ++ d ++ e ++ a ++ b ++ g ++ fn

/-- SM operands (R84). -/
def opsSM (dst : BitVec 6) (slot : BitVec 4) (a b c g : BitVec 7) (ai bi : Bool) : BitVec 42 :=
  dst ++ slot ++ a ++ b ++ c ++ g ++ b1 ai ++ b1 bi ++ 0#2

/-- ST operands (R85). -/
def opsST (x d : BitVec 4) (mode merge : BitVec 3) (a b g fn : BitVec 7) : BitVec 42 :=
  x ++ d ++ mode ++ merge ++ a ++ b ++ g ++ fn

/-- VA operands (R87). -/
def opsVA (dest : BitVec 8) (a b c : BitVec 10) (mask : BitVec 3) (z : Bool) : BitVec 42 :=
  dest ++ a ++ b ++ c ++ mask ++ b1 z

/-- VM operands (R89). -/
def opsVM (f : VM) (adv : Bool) (fn : BitVec 14) : BitVec 42 := f.reg ++ f.d ++ f.rowoff ++ f.mask ++ b1 adv ++ fn

/-- CA operands (R92). -/
def opsCA (dst src : BitVec 4) (cnt : Option (BitVec 4 × BitVec 8)) (kind : BitVec 4) (advd advs na : Bool)
    (val : BitVec 14) : BitVec 42 :=
  dst ++ src ++ (match cnt with | none => 0#4 | some c => c.1) ++ (match cnt with | none => 0#8 | some c => c.2)
    ++ kind ++ b1 cnt.isSome ++ b1 advd ++ b1 advs ++ b1 na ++ val

def lS : BitVec 2 := 0b00#2
def lV : BitVec 2 := 0b01#2
def lM : BitVec 2 := 0b10#2
def lC : BitVec 2 := 0b11#2

def wSA (h : Hdr) (op : BitVec 8) (f : SA) (fn : BitVec 15) : List Word :=
  word h lS op (opsSA (encDst f.d) (encSOp f.a) (encSB f.b) (encPOp f.g) fn) none f.b.ext none

def wSA1 (h : Hdr) (op : BitVec 8) (f : SA1) (fn : BitVec 15) : List Word :=
  word h lS op (opsSA (encDst f.d) (encSOp f.a) 0#7 (encPOp f.g) fn) none none none

def wSI (h : Hdr) (op : BitVec 8) (f : SI) : List Word :=
  word h lS op (opsSI (encDst f.d) (encSOp f.a) (encPOp f.g) (encImm f.imm)) none f.imm.ext none

def wPP (h : Hdr) (op : BitVec 8) (f : PP) : List Word :=
  word h lS op (opsSP f.pd (encPOp f.a) (encPOp f.b) (encPOp f.g) 0#4) none none none

/-- SX words (R86). -/
def wSX (h : Hdr) (op : BitVec 8) (d : BitVec 6) (a g : BitVec 7) (fn : BitVec 15) (imm : Option (BitVec 60)) :
    List Word :=
  word h lS op (opsSA d a 0#7 g fn) none imm none

/-- The V opcode of a base and a type slot (R94). -/
def vop (base : BitVec 6) (t : BitVec 2) : BitVec 8 := base ++ t

def wVA1 (h : Hdr) (base : BitVec 6) (t : BitVec 2) (f : VA1) (b c : BitVec 10) (md : Option Mod) : List Word :=
  word h lV (vop base t) (opsVA f.dest (encVOp f.a) b c f.mask f.z) md none none

def wVA2 (h : Hdr) (base : BitVec 6) (t : BitVec 2) (f : VA2) (c : BitVec 10) (md : Option Mod) : List Word :=
  word h lV (vop base t) (opsVA f.dest (encVOp f.a) (encVOp f.b) c f.mask f.z) md none none

def wVA3 (h : Hdr) (base : BitVec 6) (t : BitVec 2) (f : VA3) (md : Option Mod) : List Word :=
  word h lV (vop base t) (opsVA f.dest (encVOp f.a) (encVOp f.b) (encVOp f.c) f.mask f.z) md none none

def wVCm (h : Hdr) (base : BitVec 6) (t : BitVec 2) (f : VCm) (cc : BitVec 4) (md : Option Mod) : List Word :=
  word h lV (vop base t) (opsVA (0#5 ++ f.dm) (encVOp f.a) (encVOp f.b) (0#6 ++ cc) f.mask f.z) md none none

def wVM (h : Hdr) (base : BitVec 6) (t : BitVec 2) (f : VM) (adv : Bool) (fn : BitVec 14) : List Word :=
  word h lV (vop base t) (opsVM f adv fn) none none f.coord

def wM (h : Hdr) (op : BitVec 8) (ops : BitVec 42) : List Word := word h lM op ops none none none

def wCA (h : Hdr) (op : BitVec 8) (f : CA) (kind : BitVec 4) (na : Bool) (val : BitVec 14) : List Word :=
  word h lC op (opsCA f.dst f.src f.cnt kind f.advd f.advs na val) none none none

/-- The opcode of a scalar floating-point word: .F32 from 0x80, .F64 from 0x90 (R93). -/
def fop (t : FT) (i : BitVec 4) : BitVec 8 := (match t with | .f32 => 0x8#4 | .f64 => 0x9#4) ++ i

/-- The words of an instruction, from the encoding tables of R66-R100. A step that is no word has none. -/
def encode : Instr → List Word
  | .add h f => wSA h 0x00#8 f 0#15
  | .sub h f => wSA h 0x01#8 f 0#15
  | .mul h f => wSA h 0x02#8 f 0#15
  | .mulhs h f => wSA h 0x03#8 f 0#15
  | .mulhu h f => wSA h 0x04#8 f 0#15
  | .divs h f => wSA h 0x05#8 f 0#15
  | .divu h f => wSA h 0x06#8 f 0#15
  | .rems h f => wSA h 0x07#8 f 0#15
  | .remu h f => wSA h 0x08#8 f 0#15
  | .and h f => wSA h 0x09#8 f 0#15
  | .or h f => wSA h 0x0A#8 f 0#15
  | .xor h f => wSA h 0x0B#8 f 0#15
  | .andn h f => wSA h 0x0C#8 f 0#15
  | .orn h f => wSA h 0x0D#8 f 0#15
  | .shl h f => wSA h 0x0E#8 f 0#15
  | .shr h f => wSA h 0x0F#8 f 0#15
  | .sar h f => wSA h 0x10#8 f 0#15
  | .rol h f => wSA h 0x11#8 f 0#15
  | .ror h f => wSA h 0x12#8 f 0#15
  | .clz h f => wSA1 h 0x13#8 f 0#15
  | .ctz h f => wSA1 h 0x14#8 f 0#15
  | .popc h f => wSA1 h 0x15#8 f 0#15
  | .brev h f => wSA1 h 0x16#8 f 0#15
  | .mins h f => wSA h 0x17#8 f 0#15
  | .maxs h f => wSA h 0x18#8 f 0#15
  | .minu h f => wSA h 0x19#8 f 0#15
  | .maxu h f => wSA h 0x1A#8 f 0#15
  | .sext h f w => wSA1 h 0x1B#8 f (0#13 ++ encExtW w)
  | .zext h f w => wSA1 h 0x1C#8 f (0#13 ++ encExtW w)
  | .bfx h f l w1 => wSA1 h 0x1D#8 f (0#3 ++ l ++ w1)
  | .bfi h f l w1 => wSA h 0x1E#8 f (0#3 ++ l ++ w1)
  | .sel h f p => wSA h 0x1F#8 f (0#8 ++ encPOp p)
  | .mov h f => wSA1 h 0x20#8 f 0#15
  | .addImm h f => wSI h 0x40#8 f
  | .subImm h f => wSI h 0x41#8 f
  | .mulImm h f => wSI h 0x42#8 f
  | .andImm h f => wSI h 0x49#8 f
  | .orImm h f => wSI h 0x4A#8 f
  | .xorImm h f => wSI h 0x4B#8 f
  | .andnImm h f => wSI h 0x4C#8 f
  | .ornImm h f => wSI h 0x4D#8 f
  | .shlImm h f => wSI h 0x4E#8 f
  | .shrImm h f => wSI h 0x4F#8 f
  | .sarImm h f => wSI h 0x50#8 f
  | .rolImm h f => wSI h 0x51#8 f
  | .rorImm h f => wSI h 0x52#8 f
  | .minsImm h f => wSI h 0x57#8 f
  | .maxsImm h f => wSI h 0x58#8 f
  | .minuImm h f => wSI h 0x59#8 f
  | .maxuImm h f => wSI h 0x5A#8 f
  | .movi h d imm g => word h lS 0x60#8 (opsSI (encDst d) 0#7 (encPOp g) (encImm imm)) none imm.ext none
  | .fadd h t f rm => wSA h (fop t 0#4) f (0#12 ++ encRMode rm)
  | .fsub h t f rm => wSA h (fop t 1#4) f (0#12 ++ encRMode rm)
  | .fmul h t f rm => wSA h (fop t 2#4) f (0#12 ++ encRMode rm)
  | .ffma h t f c rm => wSA h (fop t 3#4) f (0#5 ++ encRMode rm ++ encSOp c)
  | .fdiv h t f rm => wSA h (fop t 4#4) f (0#12 ++ encRMode rm)
  | .fsqrt h t f rm => wSA1 h (fop t 5#4) f (0#12 ++ encRMode rm)
  | .fmin h t f => wSA h (fop t 6#4) f 0#15
  | .fmax h t f => wSA h (fop t 7#4) f 0#15
  | .fcmp h t pd a b g cc => word h lS (fop t 8#4) (opsSP pd (encSOp a) (encSOp b) (encPOp g) (encFCond cc)) none none none
  | .fcvt h t f rm x out => wSA1 h (fop t 9#4) f (0#8 ++ b1 out ++ encCvtT x ++ 0#1 ++ encRMode rm)
  | .cmp h f cc => word h lS 0xA0#8 (opsSP f.pd (encSOp f.a) (encSB f.b) (encPOp f.g) (encICond cc)) none f.b.ext none
  | .tst h f ne => word h lS 0xA1#8 (opsSP f.pd (encSOp f.a) (encSB f.b) (encPOp f.g) (0#3 ++ b1 ne)) none f.b.ext none
  | .pand h f => wPP h 0xA2#8 f
  | .por h f => wPP h 0xA3#8 f
  | .pxor h f => wPP h 0xA4#8 f
  | .pandn h f => wPP h 0xA5#8 f
  | .pget h d a g => word h lS 0xA6#8 (opsSA (encDst d) (encPOp a) 0#7 (encPOp g) 0#15) none none none
  | .pset h pd a g => word h lS 0xA7#8 (opsSP pd (encSOp a) 0#7 (encPOp g) 0#4) none none none
  | .br h g off => word h lS 0xB0#8 (opsSB (encPOp g) off) none none none
  | .callt h g off => word h lS 0xB1#8 (opsSB (encPOp g) off) none none none
  | .rett h g => word h lS 0xB2#8 (opsSB (encPOp g) 0#24) none none none
  | .loopb h g off => word h lS 0xB3#8 (opsSB (encPOp g) off) none none none
  | .lset h a dc lg g => word h lS 0xB4#8 (opsSI 0#6 (encSOp a) (encPOp g) (if lg then 0#22 else 0#6 ++ dc)) none (if lg then some (0#44 ++ dc) else none) none
  | .nop h g => wSX h 0xB5#8 0#6 0#7 (encPOp g) 0#15 none
  | .dset h d fl a g => word h lS 0xC0#8 (opsSD 0#6 d 0#4 (encSOp a) 0#7 (encPOp g) (encDFld fl ++ 0#2)) none none none
  | .dget h d e w g => word h lS 0xC1#8 (opsSD (encDst d) 0#4 e 0#7 0#7 (encPOp g) (0#4 ++ w)) none none none
  | .boxsub h d e a b co g => word h lS 0xC2#8 (opsSD 0#6 d e (encSOp a) (encSOp b) (encPOp g) 0#7) none none co
  | .boxdim h d e dim g => word h lS 0xC3#8 (opsSD (encDst d) 0#4 e 0#7 0#7 (encPOp g) (0#5 ++ dim)) none none none
  | .dadv h d a dim g => word h lS 0xC4#8 (opsSD 0#6 d 0#4 (encSOp a) 0#7 (encPOp g) (0#5 ++ dim)) none none none
  | .lds h d sl x y co g => word h lS 0xC8#8 (opsSM (encDst d) sl (encSC x) (encSC y) 0#7 (encPOp g) x.isImm y.isImm) none none co
  | .sts h sl x y c co g => word h lS 0xC9#8 (opsSM 0#6 sl (encSC x) (encSC y) (encSB c) (encPOp g) x.isImm y.isImm) none c.ext co
  | .cadd h sl x c co g => word h lS 0xCA#8 (opsSM 0#6 sl (encSC x) 0#7 (encSB c) (encPOp g) x.isImm false) none c.ext co
  | .crd h d sl x co g => word h lS 0xCB#8 (opsSM (encDst d) sl (encSC x) 0#7 0#7 (encPOp g) x.isImm false) none none co
  | .fmtq h a g => wSX h 0xCC#8 0#6 (encSB a) (encPOp g) 0#15 a.ext
  | .sync h => wSX h 0xD0#8 0#6 0#7 0#7 0#15 none
  | .segend h sg len => [primary h.idle lS 0xD1#8 2#2 0#42, sg, 0#32 ++ len]
  | .waitge h sl ix a => wSX h 0xD2#8 0#6 (encSB a) 0#7 (sl ++ ix ++ 0#3) a.ext
  | .pcommit h => wSX h 0xD3#8 0#6 0#7 0#7 0#15 none
  | .pcancel h => wSX h 0xD4#8 0#6 0#7 0#7 0#15 none
  | .realign h f => wSX h 0xD5#8 0#6 0#7 0#7 (0#3 ++ f) none
  | .arg h x d mode mg g => word h lS 0xD8#8 (opsST x d (encAMode mode) (encMerge mg) 0#7 0#7 (encPOp g) 0#7) none none none
  | .spawn h i g => word h lS 0xD9#8 (opsST 0#4 0#4 0#3 0#3 (encTIdx i) 0#7 (encPOp g) (b1 i.ai ++ 0#6)) none i.ext none
  | .gspawn h i n1 g => word h lS 0xDA#8 (opsST 0#4 0#4 0#3 0#3 (encTIdx i) 0#7 (encPOp g) (b1 i.ai ++ 0#3 ++ n1)) none i.ext none
  | .cont h off g => word h lS 0xDB#8 (0#4 ++ off ++ encPOp g ++ 0#7) none none none
  | .tend h g => word h lS 0xDC#8 (opsST 0#4 0#4 0#3 0#3 0#7 0#7 (encPOp g) 0#7) none none none
  | .tfail h a g => word h lS 0xDD#8 (opsST 0#4 0#4 0#3 0#3 (encSB a) 0#7 (encPOp g) 0#7) none a.ext none
  | .lblget h f => wSX h 0xE0#8 (encDst f.d) (encSOp f.a) (encPOp f.g) 0#15 none
  | .lblraise h mk g => wSX h 0xE1#8 0#6 0#7 (encPOp g) (0#7 ++ mk) none
  | .sysrd h d n g => wSX h 0xE2#8 (encDst d) 0#7 (encPOp g) (0#7 ++ n) none
  | .syswr h n a g => wSX h 0xE3#8 0#6 (encSB a) (encPOp g) (0#7 ++ n) a.ext
  | .trap h code g => wSX h 0xE4#8 0#6 0#7 (encPOp g) (0#7 ++ code) none
  | .bkpt h g => wSX h 0xE5#8 0#6 0#7 (encPOp g) 0#15 none
  | .fence h sc g => wSX h 0xE6#8 0#6 0#7 (encPOp g) (0#12 ++ encScope sc) none
  | .vadd h t f md => wVA2 h 0#6 (encVF t) f 0#10 md
  | .vsub h t f md => wVA2 h 1#6 (encVF t) f 0#10 md
  | .vmul h t f md => wVA2 h 2#6 (encVF t) f 0#10 md
  | .vfma h t f md => wVA3 h 3#6 (encVF t) f md
  | .vmin h t f md => wVA2 h 4#6 (encVF t) f 0#10 md
  | .vmax h t f md => wVA2 h 5#6 (encVF t) f 0#10 md
  | .vcmp h t f cc md => wVCm h 6#6 (encVF t) f (encFCond cc) md
  | .vrcp h t f md => wVA1 h 7#6 (encVF t) f 0#10 0#10 md
  | .vrsq h t f md => wVA1 h 8#6 (encVF t) f 0#10 0#10 md
  | .vsqrt h t f md => wVA1 h 9#6 (encVF t) f 0#10 0#10 md
  | .vdiv h t f md => wVA2 h 10#6 (encVF t) f 0#10 md
  | .vexp2 h t f md => wVA1 h 11#6 (encVF t) f 0#10 0#10 md
  | .vlog2 h t f md => wVA1 h 12#6 (encVF t) f 0#10 0#10 md
  | .vtanh h t f md => wVA1 h 13#6 (encVF t) f 0#10 0#10 md
  | .vsigm h t f md => wVA1 h 14#6 (encVF t) f 0#10 0#10 md
  | .vredsum h t dest a mk md => wVA1 h 15#6 (encVF t) ⟨dest, a, mk, false⟩ 0#10 0#10 md
  | .vredmax h t dest a mk md => wVA1 h 16#6 (encVF t) ⟨dest, a, mk, false⟩ 0#10 0#10 md
  | .vredmin h t dest a mk md => wVA1 h 17#6 (encVF t) ⟨dest, a, mk, false⟩ 0#10 0#10 md
  | .vredamax h t dest a mk md => wVA1 h 18#6 (encVF t) ⟨dest, a, mk, false⟩ 0#10 0#10 md
  | .vscan h t f md => wVA1 h 19#6 (encVF t) f 0#10 0#10 md
  | .viadd h t f md => wVA2 h 24#6 (encVI t) f 0#10 md
  | .visub h t f md => wVA2 h 25#6 (encVI t) f 0#10 md
  | .vimul h t f md => wVA2 h 26#6 (encVI t) f 0#10 md
  | .vimulh h t f u md => wVA2 h 27#6 (encVI t) f (0#9 ++ b1 u) md
  | .vimad h t f md => wVA3 h 28#6 (encVI t) f md
  | .vimin h t f u md => wVA2 h 29#6 (encVI t) f (0#9 ++ b1 u) md
  | .vimax h t f u md => wVA2 h 30#6 (encVI t) f (0#9 ++ b1 u) md
  | .vand h t f => wVA2 h 31#6 (encVI t) f 0#10 none
  | .vor h t f => wVA2 h 32#6 (encVI t) f 0#10 none
  | .vxor h t f => wVA2 h 33#6 (encVI t) f 0#10 none
  | .vandn h t f => wVA2 h 34#6 (encVI t) f 0#10 none
  | .vnot h t f => wVA1 h 35#6 (encVI t) f 0#10 0#10 none
  | .vshl h t f => wVA2 h 36#6 (encVI t) f 0#10 none
  | .vshr h t f => wVA2 h 37#6 (encVI t) f 0#10 none
  | .vsar h t f => wVA2 h 38#6 (encVI t) f 0#10 none
  | .vicmp h t f cc md => wVCm h 39#6 (encVI t) f (encICond cc) md
  | .vpopc h t f => wVA1 h 40#6 (encVI t) f 0#10 0#10 none
  | .vclz h t f => wVA1 h 41#6 (encVI t) f 0#10 0#10 none
  | .vsel h w dest a b mk => wVA2 h 42#6 (encVW w) ⟨dest, a, b, mk, false⟩ 0#10 none
  | .vmov h w f => wVA1 h 43#6 (encVW w) f 0#10 0#10 none
  | .vbcast h w f b => wVA1 h 44#6 (encVW w) f (encBc b) 0#10 none
  | .viota h w dest a b mk z => word h lV (vop 45#6 (encVW w)) (opsVA dest (encBc a) (encBc b) 0#10 mk z) none none none
  | .vperm h w f => wVA2 h 46#6 (encVW w) f 0#10 none
  | .vrotl h w f b => wVA1 h 47#6 (encVW w) f (encBc b) 0#10 none
  | .vzip h w dest a n1 mk z => wVA1 h 48#6 (encVW w) ⟨dest, .row a, mk, z⟩ 0#10 (0#8 ++ n1) none
  | .vunzip h w dest a n1 mk z => wVA1 h 49#6 (encVW w) ⟨dest, .row a, mk, z⟩ 0#10 (0#8 ++ n1) none
  | .vcvt h dt st f sc nosat md => wVA1 h 52#6 0#2 f (match sc with | none => 0#10 | some b => encVOp b) (encETy dt ++ encETy st ++ b1 nosat ++ b1 sc.isSome) md
  | .vmand h d a b => word h lV (vop 53#6 0#2) (opsVA (0#5 ++ d) (0#7 ++ a) (0#7 ++ b) 0#10 0#3 false) none none none
  | .vmor h d a b => word h lV (vop 54#6 0#2) (opsVA (0#5 ++ d) (0#7 ++ a) (0#7 ++ b) 0#10 0#3 false) none none none
  | .vmxor h d a b => word h lV (vop 55#6 0#2) (opsVA (0#5 ++ d) (0#7 ++ a) (0#7 ++ b) 0#10 0#3 false) none none none
  | .vmnot h d a => word h lV (vop 56#6 0#2) (opsVA (0#5 ++ d) (0#7 ++ a) 0#10 0#10 0#3 false) none none none
  | .vmpop h dest a => word h lV (vop 57#6 0#2) (opsVA dest (0#7 ++ a) 0#10 0#10 0#3 false) none none none
  | .vld h w f adv z => wVM h 58#6 (encVW w) f adv (0#13 ++ b1 z)
  | .vst h w f adv => wVM h 59#6 (encVW w) f adv 0#14
  | .vgth h w f ix => wVM h 60#6 (encVW w) f false (encVIx ix ++ 0#4)
  | .vsct h w f ix => wVM h 61#6 (encVW w) f false (encVIx ix ++ 0#4)
  | .vwin h p s => word h lV (vop 62#6 0#2) ((p.getD 0#4) ++ (s.getD 0#4) ++ b1 p.isSome ++ b1 s.isSome ++ 0#32) none none none
  | .vmode h rm sd => word h lV (vop 63#6 0#2) ((match rm with | none => 0#3 | some r => encRMode r) ++ b1 rm.isSome ++ b1 sd.isSome ++ 0#3 ++ (match sd with | none => 0#10 | some b => encBc b) ++ 0#24) none none none
  | .mloadb h sl b x => wM h 0x00#8 (0#4 ++ b1 sl ++ b ++ x ++ 0#29)
  | .mma h t sl a x r o c z => wM h 0x01#8 (t ++ b1 sl ++ a ++ x ++ r ++ b1 o ++ b1 c ++ b1 z ++ 0#19)
  | .mzero h t => wM h 0x02#8 (t ++ 0#38)
  | .mcopy h d t => wM h 0x03#8 (d ++ 0#1 ++ t ++ 0#33)
  | .mchkv h t ka kr rr cr => wM h 0x04#8 (t ++ ka ++ kr ++ rr ++ cr ++ 0#12)
  | .mtype h t i => wM h 0x05#8 (t ++ 0#37 ++ b1 i)
  | .accrel h n => wM h 0x06#8 (n ++ 0#37)
  | .accwake h t => wM h 0x07#8 (t ++ 0#38)
  | .accgate h t r => wM h 0x08#8 (t ++ 0#37 ++ b1 r)
  | .cin h f => wCA h 0x00#8 f 0#4 false 0#14
  | .cout h f => wCA h 0x01#8 f 0#4 false 0#14
  | .coutNa h f => wCA h 0x01#8 f 0#4 true 0#14
  | .cfill h src cnt advs => wCA h 0x02#8 ⟨0#4, src, cnt, false, advs⟩ 0#4 false 0#14
  | .cslice h f n1 => wCA h 0x03#8 f (0#1 ++ n1) false 0#14
  | .rrot h dst src advd advs prev => wCA h 0x04#8 ⟨dst, src, none, advd, advs⟩ (0#3 ++ b1 prev) false 0#14
  | .csig h sl ix amt => wCA h 0x05#8 ⟨0#4, 0#4, some (sl, ix), false, false⟩ 0#4 false amt
  | .ratom h op wd tgt src cnt => wCA h 0x06#8 ⟨tgt, src, cnt, false, false⟩ (encAOp op) false (0#13 ++ b1 wd)
  | .cfence h sc => wCA h 0x07#8 ⟨0#4, 0#4, none, false, false⟩ (0#1 ++ encScope sc) false 0#14
  | .txload h src id => wCA h 0x08#8 ⟨0#4, src, none, false, false⟩ 0#4 false (0#6 ++ id)
  | .txrun h f id => wCA h 0x09#8 f 0#4 false (0#6 ++ id)
  | .xsend h src die ch advs => wCA h 0x0A#8 ⟨0#4, src, none, false, advs⟩ (0#1 ++ die) false (0#8 ++ ch)
  | .xrecv h dst die ch at_ advd => word h lC 0x0B#8 (opsCA dst 0#4 none (0#1 ++ die) advd false false (0#8 ++ ch)) none (some (0#28 ++ at_)) none
  | _ => []

/-- A step of the table that is a word of the instruction set. -/
def Instr.isWord (i : Instr) : Bool := encode i != []

/-! ### The decoder -/

/-- Why words are no instruction; each is ILLEGAL_WORD (R97). -/
inductive DecodeError
  /-- no word at all, or the XW words extend past the end of the code -/
  | truncated
  /-- an unassigned OP in the LANE, or a required IMM word missing -/
  | unassigned
  /-- a reserved bit, an unused field, a reserved code, an invalid operand, or a wrong extension word -/
  | malformed
  deriving DecidableEq, Repr

/-- The entry of a table of opcodes. -/
def assoc {α : Type} (n : Nat) : List (Nat × α) → Option α
  | [] => none
  | (k, a) :: t => if k = n then some a else assoc n t

/-- What is common to the words read (R66, R76, R74). -/
def decHdr (w : Word) (e : Ext) : Hdr :=
  ⟨fld w 54 10, e.stamp.map (fun x => fld x 0 32), e.dep.map decDep⟩

def decSA (w : Word) (e : Ext) : SA :=
  ⟨decDst (fld w 36 6), decSOp (fld w 29 7), decSB (fld w 22 7) e.imm, decPOp (fld w 15 7)⟩

def decSA1 (w : Word) : SA1 := ⟨decDst (fld w 36 6), decSOp (fld w 29 7), decPOp (fld w 15 7)⟩

def decSI (w : Word) (e : Ext) : SI :=
  ⟨decDst (fld w 36 6), decSOp (fld w 29 7), decImm (fld w 0 22) e.imm, decPOp (fld w 22 7)⟩

def decSP (w : Word) (e : Ext) : SP := ⟨fld w 36 6, decSOp (fld w 29 7), decSB (fld w 22 7) e.imm, decPOp (fld w 15 7)⟩

def decPP (w : Word) : PP := ⟨fld w 36 6, decPOp (fld w 29 7), decPOp (fld w 22 7), decPOp (fld w 15 7)⟩

def decVA1 (w : Word) : VA1 := ⟨fld w 34 8, decVOp (fld w 24 10), fld w 1 3, bit w 0⟩

def decVA2 (w : Word) : VA2 := ⟨fld w 34 8, decVOp (fld w 24 10), decVOp (fld w 14 10), fld w 1 3, bit w 0⟩

def decVA3 (w : Word) : VA3 :=
  ⟨fld w 34 8, decVOp (fld w 24 10), decVOp (fld w 14 10), decVOp (fld w 4 10), fld w 1 3, bit w 0⟩

def decVCm (w : Word) : VCm := ⟨fld w 34 3, decVOp (fld w 24 10), decVOp (fld w 14 10), fld w 1 3, bit w 0⟩

def decVM (w : Word) (e : Ext) : VM := ⟨fld w 34 8, fld w 30 4, fld w 18 12, fld w 15 3, e.coord.map decCoord⟩

def decCnt (w : Word) : Option (BitVec 4 × BitVec 8) := if bit w 17 then some (fld w 30 4, fld w 22 8) else none

def decCA (w : Word) : CA := ⟨fld w 38 4, fld w 34 4, decCnt w, bit w 16, bit w 15⟩

/-- SA words with operands a and b and FN 0 (R93). -/
def saOps : List (Nat × (Hdr → SA → Instr)) :=
  [(0, .add), (1, .sub), (2, .mul), (3, .mulhs), (4, .mulhu), (5, .divs),
   (6, .divu), (7, .rems), (8, .remu), (9, .and), (10, .or), (11, .xor),
   (12, .andn), (13, .orn), (14, .shl), (15, .shr), (16, .sar), (17, .rol),
   (18, .ror), (23, .mins), (24, .maxs), (25, .minu), (26, .maxu)]

/-- SA words with one operand and FN 0 (R93). -/
def sa1Ops : List (Nat × (Hdr → SA1 → Instr)) :=
  [(19, .clz), (20, .ctz), (21, .popc), (22, .brev), (32, .mov)]

/-- SI words with a destination and an operand (R93). -/
def siOps : List (Nat × (Hdr → SI → Instr)) :=
  [(64, .addImm), (65, .subImm), (66, .mulImm), (73, .andImm), (74, .orImm), (75, .xorImm),
   (76, .andnImm), (77, .ornImm), (78, .shlImm), (79, .shrImm), (80, .sarImm), (81, .rolImm),
   (82, .rorImm), (87, .minsImm), (88, .maxsImm), (89, .minuImm), (90, .maxuImm)]

/-- SP words over two predicates (R93). -/
def ppOps : List (Nat × (Hdr → PP → Instr)) :=
  [(162, .pand), (163, .por), (164, .pxor), (165, .pandn)]

/-- Scalar floating-point words with two operands and a mode, by OP[3:0] (R93). -/
def fpOps : List (Nat × (Hdr → FT → SA → RMode → Instr)) :=
  [(0, .fadd), (1, .fsub), (2, .fmul), (4, .fdiv)]

/-- Float-class V words with two sources, by base (R94). -/
def vf2Ops : List (Nat × (Hdr → VF → VA2 → Option Mod → Instr)) :=
  [(0, .vadd), (1, .vsub), (2, .vmul), (4, .vmin), (5, .vmax), (10, .vdiv)]

/-- Float-class V words with one source, by base (R94). -/
def vf1Ops : List (Nat × (Hdr → VF → VA1 → Option Mod → Instr)) :=
  [(7, .vrcp), (8, .vrsq), (9, .vsqrt), (11, .vexp2), (12, .vlog2), (13, .vtanh),
   (14, .vsigm), (19, .vscan)]

/-- Reductions, by base (R94). -/
def vredOps : List (Nat × (Hdr → VF → BitVec 8 → VOp → BitVec 3 → Option Mod → Instr)) :=
  [(15, .vredsum), (16, .vredmax), (17, .vredmin), (18, .vredamax)]

/-- Integer-class V words with two sources that take MOD, by base (R94). -/
def vi2mOps : List (Nat × (Hdr → VI → VA2 → Option Mod → Instr)) :=
  [(24, .viadd), (25, .visub), (26, .vimul)]

/-- Integer-class V words with U, by base (R94). -/
def vi2uOps : List (Nat × (Hdr → VI → VA2 → Bool → Option Mod → Instr)) :=
  [(27, .vimulh), (29, .vimin), (30, .vimax)]

/-- Integer-class V words with two sources and no MOD, by base (R94). -/
def vi2Ops : List (Nat × (Hdr → VI → VA2 → Instr)) :=
  [(31, .vand), (32, .vor), (33, .vxor), (34, .vandn), (36, .vshl), (37, .vshr),
   (38, .vsar)]

/-- Integer-class V words with one source, by base (R94). -/
def vi1Ops : List (Nat × (Hdr → VI → VA1 → Instr)) :=
  [(35, .vnot), (40, .vpopc), (41, .vclz)]

/-- The S-lane word of opcode `op` (R93). -/
def buildS (op : Nat) (w : Word) (e : Ext) : Option Instr :=
  let h := decHdr w e
  let g15 := decPOp (fld w 15 7)
  let a29 := decSOp (fld w 29 7)
  match assoc op saOps with
  | some mk => some (mk h (decSA w e))
  | none =>
  match assoc op sa1Ops with
  | some mk => some (mk h (decSA1 w))
  | none =>
  match assoc op siOps with
  | some mk => some (mk h (decSI w e))
  | none =>
  match assoc op ppOps with
  | some mk => some (mk h (decPP w))
  | none =>
  if op = 0x1B then some (.sext h (decSA1 w) (decExtW (fld w 0 2)))
  else if op = 0x1C then some (.zext h (decSA1 w) (decExtW (fld w 0 2)))
  else if op = 0x1D then some (.bfx h (decSA1 w) (fld w 6 6) (fld w 0 6))
  else if op = 0x1E then some (.bfi h (decSA w e) (fld w 6 6) (fld w 0 6))
  else if op = 0x1F then some (.sel h (decSA w e) (decPOp (fld w 0 7)))
  else if op = 0x60 then some (.movi h (decDst (fld w 36 6)) (decImm (fld w 0 22) e.imm) (decPOp (fld w 22 7)))
  else if op / 16 = 8 || op / 16 = 9 then
    let t := if op / 16 = 8 then FT.f32 else FT.f64
    match assoc (op % 16) fpOps with
    | some mk => some (mk h t (decSA w e) (decRMode (fld w 0 3)))
    | none =>
    if op % 16 = 3 then some (.ffma h t (decSA w e) (decSOp (fld w 0 7)) (decRMode (fld w 7 3)))
    else if op % 16 = 5 then some (.fsqrt h t (decSA1 w) (decRMode (fld w 0 3)))
    else if op % 16 = 6 then some (.fmin h t (decSA w e))
    else if op % 16 = 7 then some (.fmax h t (decSA w e))
    else if op % 16 = 8 then
      some (.fcmp h t (fld w 36 6) a29 (decSOp (fld w 22 7)) g15 (decFCond (fld w 11 4)))
    else if op % 16 = 9 then
      some (.fcvt h t (decSA1 w) (decRMode (fld w 0 3)) (decCvtT (fld w 4 2)) (bit w 6))
    else none
  else if op = 0xA0 then some (.cmp h (decSP w e) (decICond (fld w 11 4)))
  else if op = 0xA1 then some (.tst h (decSP w e) (bit w 11))
  else if op = 0xA6 then some (.pget h (decDst (fld w 36 6)) (decPOp (fld w 29 7)) g15)
  else if op = 0xA7 then some (.pset h (fld w 36 6) a29 g15)
  else if op = 0xB0 then some (.br h (decPOp (fld w 35 7)) (fld w 11 24))
  else if op = 0xB1 then some (.callt h (decPOp (fld w 35 7)) (fld w 11 24))
  else if op = 0xB2 then some (.rett h (decPOp (fld w 35 7)))
  else if op = 0xB3 then some (.loopb h (decPOp (fld w 35 7)) (fld w 11 24))
  else if op = 0xB4 then
    some (.lset h a29 (match e.imm with | some n => fld n 0 16 | none => fld w 0 16) e.imm.isSome (decPOp (fld w 22 7)))
  else if op = 0xB5 then some (.nop h g15)
  else if op = 0xC0 then some (.dset h (fld w 32 4) (decDFld (fld w 2 5)) (decSOp (fld w 21 7)) (decPOp (fld w 7 7)))
  else if op = 0xC1 then some (.dget h (decDst (fld w 36 6)) (fld w 28 4) (fld w 0 3) (decPOp (fld w 7 7)))
  else if op = 0xC2 then
    some (.boxsub h (fld w 32 4) (fld w 28 4) (decSOp (fld w 21 7)) (decSOp (fld w 14 7)) (e.coord.map decCoord)
      (decPOp (fld w 7 7)))
  else if op = 0xC3 then some (.boxdim h (decDst (fld w 36 6)) (fld w 28 4) (fld w 0 2) (decPOp (fld w 7 7)))
  else if op = 0xC4 then some (.dadv h (fld w 32 4) (decSOp (fld w 21 7)) (fld w 0 2) (decPOp (fld w 7 7)))
  else if op = 0xC8 then
    some (.lds h (decDst (fld w 36 6)) (fld w 32 4) (decSC (fld w 25 7) (bit w 3)) (decSC (fld w 18 7) (bit w 2))
      (e.coord.map decCoord) (decPOp (fld w 4 7)))
  else if op = 0xC9 then
    some (.sts h (fld w 32 4) (decSC (fld w 25 7) (bit w 3)) (decSC (fld w 18 7) (bit w 2)) (decSB (fld w 11 7) e.imm)
      (e.coord.map decCoord) (decPOp (fld w 4 7)))
  else if op = 0xCA then
    some (.cadd h (fld w 32 4) (decSC (fld w 25 7) (bit w 3)) (decSB (fld w 11 7) e.imm) (e.coord.map decCoord)
      (decPOp (fld w 4 7)))
  else if op = 0xCB then
    some (.crd h (decDst (fld w 36 6)) (fld w 32 4) (decSC (fld w 25 7) (bit w 3)) (e.coord.map decCoord)
      (decPOp (fld w 4 7)))
  else if op = 0xCC then some (.fmtq h (decSB (fld w 29 7) e.imm) g15)
  else if op = 0xD0 then some (.sync h)
  else if op = 0xD2 then some (.waitge h (fld w 11 4) (fld w 3 8) (decSB (fld w 29 7) e.imm))
  else if op = 0xD3 then some (.pcommit h)
  else if op = 0xD4 then some (.pcancel h)
  else if op = 0xD5 then some (.realign h (fld w 0 12))
  else if op = 0xD8 then
    some (.arg h (fld w 38 4) (fld w 34 4) (decAMode (fld w 31 3)) (decMerge (fld w 28 3)) (decPOp (fld w 7 7)))
  else if op = 0xD9 then some (.spawn h (decTIdx (fld w 21 7) (bit w 6) e.imm) (decPOp (fld w 7 7)))
  else if op = 0xDA then some (.gspawn h (decTIdx (fld w 21 7) (bit w 6) e.imm) (fld w 0 3) (decPOp (fld w 7 7)))
  else if op = 0xDB then some (.cont h (fld w 14 24) (decPOp (fld w 7 7)))
  else if op = 0xDC then some (.tend h (decPOp (fld w 7 7)))
  else if op = 0xDD then some (.tfail h (decSB (fld w 21 7) e.imm) (decPOp (fld w 7 7)))
  else if op = 0xE0 then some (.lblget h (decSA1 w))
  else if op = 0xE1 then some (.lblraise h (fld w 0 8) g15)
  else if op = 0xE2 then some (.sysrd h (decDst (fld w 36 6)) (fld w 0 8) g15)
  else if op = 0xE3 then some (.syswr h (fld w 0 8) (decSB (fld w 29 7) e.imm) g15)
  else if op = 0xE4 then some (.trap h (fld w 0 8) g15)
  else if op = 0xE5 then some (.bkpt h g15)
  else if op = 0xE6 then some (.fence h (decScope (fld w 0 3)) g15)
  else none

/-- The V-lane word of base `base` and type slot `t` (R94). -/
def buildV (base : Nat) (t : BitVec 2) (w : Word) (e : Ext) : Option Instr :=
  let h := decHdr w e
  let md := e.mod.map decMod
  let vf := decVF t
  let vi := decVI t
  let vw := decVW t
  match assoc base vf2Ops with
  | some mk => some (mk h vf (decVA2 w) md)
  | none =>
  match assoc base vf1Ops with
  | some mk => some (mk h vf (decVA1 w) md)
  | none =>
  match assoc base vredOps with
  | some mk => some (mk h vf (fld w 34 8) (decVOp (fld w 24 10)) (fld w 1 3) md)
  | none =>
  match assoc base vi2mOps with
  | some mk => some (mk h vi (decVA2 w) md)
  | none =>
  match assoc base vi2uOps with
  | some mk => some (mk h vi (decVA2 w) (bit w 4) md)
  | none =>
  match assoc base vi2Ops with
  | some mk => some (mk h vi (decVA2 w))
  | none =>
  match assoc base vi1Ops with
  | some mk => some (mk h vi (decVA1 w))
  | none =>
  if base = 3 then some (.vfma h vf (decVA3 w) md)
  else if base = 6 then some (.vcmp h vf (decVCm w) (decFCond (fld w 4 4)) md)
  else if base = 28 then some (.vimad h vi (decVA3 w) md)
  else if base = 39 then some (.vicmp h vi (decVCm w) (decICond (fld w 4 4)) md)
  else if base = 42 then some (.vsel h vw (fld w 34 8) (decVOp (fld w 24 10)) (decVOp (fld w 14 10)) (fld w 1 3))
  else if base = 43 then some (.vmov h vw (decVA1 w))
  else if base = 44 then some (.vbcast h vw (decVA1 w) (decBc (fld w 14 10)))
  else if base = 45 then some (.viota h vw (fld w 34 8) (decBc (fld w 24 10)) (decBc (fld w 14 10)) (fld w 1 3) (bit w 0))
  else if base = 46 then some (.vperm h vw (decVA2 w))
  else if base = 47 then some (.vrotl h vw (decVA1 w) (decBc (fld w 14 10)))
  else if base = 48 then some (.vzip h vw (fld w 34 8) (fld w 24 8) (fld w 4 2) (fld w 1 3) (bit w 0))
  else if base = 49 then some (.vunzip h vw (fld w 34 8) (fld w 24 8) (fld w 4 2) (fld w 1 3) (bit w 0))
  else if base = 52 then
    some (.vcvt h (decETy (fld w 10 4)) (decETy (fld w 6 4)) (decVA1 w)
      (if bit w 4 then some (decVOp (fld w 14 10)) else none) (bit w 5) md)
  else if base = 53 then some (.vmand h (fld w 34 3) (fld w 24 3) (fld w 14 3))
  else if base = 54 then some (.vmor h (fld w 34 3) (fld w 24 3) (fld w 14 3))
  else if base = 55 then some (.vmxor h (fld w 34 3) (fld w 24 3) (fld w 14 3))
  else if base = 56 then some (.vmnot h (fld w 34 3) (fld w 24 3))
  else if base = 57 then some (.vmpop h (fld w 34 8) (fld w 24 3))
  else if base = 58 then some (.vld h vw (decVM w e) (bit w 14) (bit w 0))
  else if base = 59 then some (.vst h vw (decVM w e) (bit w 14))
  else if base = 60 then some (.vgth h vw (decVM w e) (decVIx (fld w 4 10)))
  else if base = 61 then some (.vsct h vw (decVM w e) (decVIx (fld w 4 10)))
  else if base = 62 then
    some (.vwin h (if bit w 33 then some (fld w 38 4) else none) (if bit w 32 then some (fld w 34 4) else none))
  else if base = 63 then
    some (.vmode h (if bit w 38 then some (decRMode (fld w 39 3)) else none)
      (if bit w 37 then some (decBc (fld w 24 10)) else none))
  else none

/-- The M-lane word of opcode `op` (R95). -/
def buildM (op : Nat) (w : Word) (e : Ext) : Option Instr :=
  let h := decHdr w e
  if op = 0 then some (.mloadb h (bit w 37) (fld w 33 4) (fld w 29 4))
  else if op = 1 then
    some (.mma h (fld w 38 4) (bit w 37) (fld w 33 4) (fld w 29 4) (fld w 22 7) (bit w 21) (bit w 20) (bit w 19))
  else if op = 2 then some (.mzero h (fld w 38 4))
  else if op = 3 then some (.mcopy h (fld w 38 4) (fld w 33 4))
  else if op = 4 then some (.mchkv h (fld w 38 4) (fld w 33 5) (fld w 28 5) (fld w 20 8) (fld w 12 8))
  else if op = 5 then some (.mtype h (fld w 38 4) (bit w 0))
  else if op = 6 then some (.accrel h (fld w 37 5))
  else if op = 7 then some (.accwake h (fld w 38 4))
  else if op = 8 then some (.accgate h (fld w 38 4) (bit w 0))
  else none

/-- The C-lane word of opcode `op` (R96). -/
def buildC (op : Nat) (w : Word) (e : Ext) : Option Instr :=
  let h := decHdr w e
  if op = 0 then some (.cin h (decCA w))
  else if op = 1 then some (if bit w 14 then .coutNa h (decCA w) else .cout h (decCA w))
  else if op = 2 then some (.cfill h (fld w 34 4) (decCnt w) (bit w 15))
  else if op = 3 then some (.cslice h (decCA w) (fld w 18 3))
  else if op = 4 then some (.rrot h (fld w 38 4) (fld w 34 4) (bit w 16) (bit w 15) (bit w 18))
  else if op = 5 then some (.csig h (fld w 30 4) (fld w 22 8) (fld w 0 14))
  else if op = 6 then some (.ratom h (decAOp (fld w 18 4)) (bit w 0) (fld w 38 4) (fld w 34 4) (decCnt w))
  else if op = 7 then some (.cfence h (decScope (fld w 18 3)))
  else if op = 8 then some (.txload h (fld w 34 4) (fld w 0 8))
  else if op = 9 then some (.txrun h (decCA w) (fld w 0 8))
  else if op = 10 then some (.xsend h (fld w 34 4) (fld w 18 3) (fld w 0 6) (bit w 15))
  else if op = 11 then
    match e.imm with
    | some n => some (.xrecv h (fld w 38 4) (fld w 18 3) (fld w 0 6) (fld n 0 32) (bit w 16))
    | none => none
  else none

/-- The instruction a primary word and its extension words spell, before the checks of R97. -/
def build (w : Word) (e : Ext) : Option Instr :=
  let op := (fld w 44 8).toNat
  if fld w 52 2 == lS then buildS op w e
  else if fld w 52 2 == lV then buildV (op / 4) (fld w 44 2) w e
  else if fld w 52 2 == lM then buildM op w e
  else buildC op w e

/-- SEGEND with its two literal words (R100, R103). -/
def buildSegend (w : Word) : List Word → Option Instr
  | [sg, len] => some (.segend ⟨fld w 54 10, none, none⟩ sg (fld len 0 32))
  | _ => none

/-- Is it the primary word of SEGEND? -/
def isSegend (w : Word) : Bool := fld w 52 2 == lS && fld w 44 8 == 0xD1#8

/-- The instruction at the head of `ws` and its length in words (R67, R97). -/
def decode (ws : List Word) : Except DecodeError (Instr × Nat) :=
  match ws with
  | [] => .error .truncated
  | w :: rest =>
    let xw := (fld w 42 2).toNat
    let ext := rest.take xw
    if ext.length < xw then .error .truncated
    else
      match (if isSegend w then buildSegend w ext else build w (Ext.gather ext)) with
      | none => .error .unassigned
      | some i => if i.wf && encode i == w :: ext then .ok (i, xw + 1) else .error .malformed

/-! ### Bytes -/

/-- The little-endian 64-bit word of eight bytes; missing bytes are 0 (R5). -/
def wordOfBytes (bs : List Byte) : Word :=
  (bs.take 8).foldr (fun b acc => (acc <<< 8) ||| b.setWidth 64) 0#64

/-- The words of a string of bytes; a last part shorter than a word is dropped. -/
def wordsOfBytes : Nat → List Byte → List Word
  | 0, _ => []
  | n + 1, bs => if bs.length < 8 then [] else wordOfBytes bs :: wordsOfBytes n (bs.drop 8)

/-- The decoder on bytes as they stand in the instruction store. -/
def decodeBytes (bs : List Byte) : Except DecodeError (Instr × Nat) := decode (wordsOfBytes 4 bs)

/-- The bytes of a table word of `nbits` bits, the first word lowest, and zeros above up to the longest
instruction of four words. -/
def tableBytes (nbits w : Nat) : List Byte :=
  (List.range 32).map (fun k => BitVec.ofNat 8 (w % 2 ^ nbits / 2 ^ (8 * k)))

/-- The instruction the decoder reads from a table word. -/
def decodeTableWord (nbits w : Nat) : Option Instr :=
  match decodeBytes (tableBytes nbits w) with
  | .ok (i, _) => some i
  | .error _ => none

end Sys2Proof
end

