-- ==== Sys2Proof/Machine/State.lean ====
section
/-! DEFINITION. The state of a P8 module as plain data: every register, store, queue and table the spec names, the
state after package reset, and the reasons a step can stop. Rule numbers are those of spec/. -/

namespace Sys2Proof.Machine

/-- A tile handle in a descriptor register (R48). -/
structure Desc where
  slot  : BitVec 4
  valid : Bool
  lab   : Label
  step  : Quad (BitVec 8)
  org   : Quad (BitVec 30)
  ext   : Quad (BitVec 30)
  deriving DecidableEq, Repr, Inhabited

/-- Power states of an allotted tile (R60). -/
inductive TPow | on | retain | gated
  deriving DecidableEq, Repr, Inhabited

/-- One accumulator tile: power state and wake cycle (R60), type (R193), rows with their labels (R51, R56), the
running checksums XR and XC and CS, held here as its complement `stale` (R188). -/
structure Tile where
  pow   : TPow
  wake  : Nat
  int   : Bool
  rows  : Tab (Lv 4096)
  xr    : Tab (BitVec 32)
  xc    : Tab (BitVec 32)
  stale : Bool
  deriving DecidableEq, Repr, Inhabited

/-- The register state of R62, which a phase commits and a restore brings back, with the RATOM tag counter (R224). -/
structure Regs where
  s       : Tab (Lv 64)
  p       : Tab Pred
  d       : Tab Desc
  m       : Tab (Lv 512)
  lcnt    : BitVec 32
  dcnt    : BitVec 16
  rbase   : BitVec 4
  pbase   : BitVec 4
  vmode   : BitVec 64
  seedLab : Label
  gens    : List (BitVec 32)
  vstat   : BitVec 5
  vstatL  : Label
  acc     : Nat
  tiles   : Tab Tile
  tag     : BitVec 16
  deriving DecidableEq, Repr, Inhabited

/-- The format word a format-queue entry holds, with its label (R139). -/
abbrev Fmt := Lv 64

/-- One A FIFO row (R185, R207): the CFILL and the row of it, its 128 elements as stored, their label, and whether the
row has arrived. -/
structure ARow where
  word  : Nat
  idx   : Nat
  data  : List Byte
  lab   : Label
  full  : Bool
  deriving DecidableEq, Repr, Inhabited

/-- One B slot (R183, R187): 128 lines of 128 elements, scale bits `sb` (VEC128) or `xb` (MX32, 4 × 128), format codes,
label, and the cycle from which it may be used. -/
structure BSlot where
  valid  : Bool
  lines  : List (List Nat)
  sb     : Nat
  xb     : List Nat
  bfmt   : Nat
  sch    : Nat
  lab    : Label
  ready  : Nat
  deriving DecidableEq, Repr, Inhabited

/-- The producer of a token (R245): its completion point for a timed word, with the key of a COUT or XSEND under way;
the key of an untimed one. -/
inductive Tok
  | none
  | timed (issue : Nat) (done : Nat) (x : Option Nat)
  | word (issue : Nat) (x : Nat)
  deriving DecidableEq, Repr, Inhabited

/-- An instruction as fetched (R239-R241): index and words, the first cycle at which it may issue (its deposit + 1),
its deposit cycle plus 1, its fetch label (R357), and the fault its decode found. -/
structure QWord where
  pc    : Nat
  words : List Word
  first : Nat
  lab   : Label
  bad   : Option Nat
  deriving DecidableEq, Repr, Inhabited

/-- The word now issuing: index, length, cycle, label of R111's LBLPC, whether it is timed, its deposit cycle + 1, its
DEP word. -/
structure Iss where
  pc    : Nat
  len   : Nat
  cyc   : Nat
  lab   : Label
  timed : Bool
  dep   : Nat
  toks  : Option Dep
  deriving DecidableEq, Repr, Inhabited

/-- A resolution hop of R271: slot of the parent, origin and step of the ARG. -/
structure Hop where
  slot : Nat
  org  : Quad Int
  step : Quad Int
  deriving DecidableEq, Repr, Inhabited

/-- Memory scopes (R261). -/
inductive BScope | scratch | clstore | diemem | devmem
  deriving DecidableEq, Repr, Inhabited

/-- A box-table entry (R261), with the path of R271 and the die or cluster its memory lies in. -/
structure Box where
  present : Bool
  layout  : Nat
  rank    : Nat
  mode    : AMode
  merge   : Merge
  lab     : Label
  staged  : Bool
  scope   : BScope
  cap     : Nat
  ext     : Quad Nat
  decl    : Quad Nat
  base    : Nat
  home    : Nat
  owner   : Nat
  root    : Option Nat
  local_  : Nat × Nat
  path    : List Hop
  view    : Option Hop
  deriving DecidableEq, Repr, Inhabited

/-- A handle read with its box: what a C word captures at its issue (R49, R198). -/
structure Hnd where
  desc : Desc
  box  : Box
  deriving DecidableEq, Repr, Inhabited

/-- BOXERR's hidden detail (R275): path kind, root or slot, resolved and leaf coordinates. -/
structure BoxDet where
  kind  : Nat
  root  : Nat
  rootc : Quad Int
  leafc : Quad Int
  deriving DecidableEq, Repr, Inhabited

/-- A fault as raised: code, subcode, lane, segment cycle, label, DETAIL, box slot and path (R401, R404). -/
structure Flt where
  code  : Nat
  sub   : Nat
  lane  : Nat
  cyc   : Nat
  lab   : Label
  det   : Nat
  slot  : Nat
  bd    : BoxDet
  deriving DecidableEq, Repr, Inhabited

/-- Where an element stands: byte address, bytes that hold it, first bit and width within them (R16, R264). -/
structure Loc where
  addr  : Nat
  bytes : Nat
  shift : Nat
  width : Nat
  deriving DecidableEq, Repr, Inhabited

/-- A timed effect still to come (R99, R136, R176): what it does when its cycle arrives. A row or mask write keeps the
old bits under `keep`, and the old label joins in unless it is `whole`. -/
inductive Eff
  | sres (issue : Nat) (v : Lv 64)
  | sname (phys : Nat) (v : Lv 64)
  | pred (phys : Nat) (v : Pred)
  | dset (i : Nat) (fld : DFld) (v : Nat) (l : Label)
  | dput (i : Nat) (d : Desc)
  | dorg (i dim : Nat) (v : BitVec 30)
  | sys (n : Nat) (v : Lv 64)
  | raise (l : Label)
  | lcnt (n : BitVec 32)
  | dcnt (n : BitVec 16)
  | base (rbase pbase : BitVec 4)
  | fpush (v : Fmt)
  | dfault (code sub lane : Nat) (l : Label) (cut : Bool)
  | sload (nw : Option Nat) (loc : Loc) (sext : Bool) (l : Label)
  | sbits (ws : List (Loc × Nat))
  | store (ws : List (Nat × Byte))
  | defer (a : Nat) (v : Nat)
  | cadd (a : Nat) (v : Nat)
  | vrow (issue : Nat) (tile row : Nat) (v : Lv 4096) (keep : Nat) (whole : Bool) (flags : BitVec 5)
  | vmask (i : Nat) (v : Lv 512) (keep : Nat) (whole : Bool)
  | vload (issue : Nat) (tile row : Nat) (two : Bool) (items : List (Nat × Loc)) (drop keep : Nat)
      (whole : Bool) (l : Label)
  | vzload (issue : Nat) (tile row : Nat) (a cap g w : Nat) (drop keep : Nat) (whole : Bool) (l : Label)
      (slot : Nat) (det : BoxDet)
  | vzstore (a cap g w : Nat) (elems : List Nat) (slot : Nat) (l : Label) (det : BoxDet)
  | vwin (p s : Option Nat)
  | vmode (rm : Option Nat) (seed : Option (Lv 64))
  | rsamp (x : Nat)
  | mscal (w : Nat)
  | msamp (w k : Nat)
  | mrow (w k : Nat)
  | mload (w t : Nat)
  | mslot (w : Nat)
  | mzero (tile : Nat) (l : Label)
  | mcopy (dst src k : Nat) (l : Label)
  | mcput (dst row : Nat) (v : Lv 4096)
  | mctype (dst src : Nat)
  | mcsum (dst src : Nat)
  | mcst (w : Nat)
  | mcs (w i : Nat)
  | mchk (w : Nat)
  | macc (n : Nat)
  | mwake (tile c : Nat)
  | mgate (tile : Nat) (ret : Bool)
  | mtype (tile : Nat) (int : Bool)
  | beat (x b : Nat)
  | rrot (x t : Nat)
  | rput (x t : Nat)
  | rmatch (x : Nat)
  | xrecv (x : Nat)
  | wake (tile : Nat)
  | boxrec (kind lane slot cyc elem : Nat) (l : Label) (det : BoxDet)
  deriving DecidableEq, Repr, Inhabited

/-- When an effect acts: its cycle, its place within the cycle, lane order, the issue cycle of its word. -/
structure Due where
  cyc   : Nat
  phase : Nat
  lane  : Nat
  iss   : Nat
  eff   : Eff
  deriving DecidableEq, Repr, Inhabited

/-- An M word in execution: MMA, MLOADB or MCHKV with what it read at its issue and what it has sampled (R183-R191). -/
structure MRun where
  issue : Nat
  tile  : Nat
  slot  : Nat
  fw    : Nat
  rows  : Nat
  ovw   : Bool
  lab   : Label
  src   : Hnd
  scl   : Hnd
  el    : Tab (List Nat × Label)
  sc    : List Nat
  xr    : Tab (BitVec 32)
  xc    : Tab (BitVec 32)
  stale : Bool
  int   : Bool
  rr    : Nat × Nat
  cr    : Nat × Nat
  ka    : Nat
  kr    : Nat
  deriving DecidableEq, Repr, Inhabited

/-- The results of an S lane and what R61 sets beside R62's registers (R39, R47, R54, R63). -/
structure Vol where
  lat     : Lv 64
  latIss  : Option Nat
  q       : List (Lv 64)
  vlat    : Lv 4096
  vlatIss : Option Nat
  vq      : List (Lv 4096)
  k       : Tab Word
  codeL   : Label
  lblpc   : Label
  boxerr  : BitVec 64
  boxerrL : Label
  boxdet  : BoxDet
  mstat   : BitVec 64
  mstatL  : Label
  chst    : Lv 64
  accinj  : Lv 64
  commits : Nat
  attempt : Nat
  rstack  : List Nat
  deriving DecidableEq, Repr, Inhabited

/-- The queues of a core (R139, R183, R185, R207, R245). -/
structure Que where
  fmtq  : List Fmt
  afifo : List ARow
  ares  : Nat
  arel  : Nat
  slots : Tab BSlot
  toks  : Tab Tok
  mruns : Tab MRun
  mnext : Nat
  mwC   : Nat
  mwR   : List (Nat × Nat × Label × Bool × Lv 4096)
  deriving DecidableEq, Repr, Inhabited

/-- What a unit is doing (R126, R219-R227, R237, R299). -/
inductive UMode
  | idle
  | code
  | seg
  | sync
  | wait (slot idx : Nat) (target : Nat) (l : Label)
  | tending (fail : Option Nat)
  | stall (page : Nat)
  | restoring
  | parking
  | held
  deriving DecidableEq, Repr, Inhabited

/-- The open segment of a core: fetch, buffers, lanes and checks (R68, R221, R222, R239-R242); `gl` is the guard label of a
control word not taken and its issue cycle (R357). -/
structure Seg where
  cyc     : Nat
  npc     : Nat
  fetchC  : Nat
  stopped : Bool
  ctl     : Option Nat
  got     : Nat
  held    : List QWord
  sb      : List QWord
  vb      : List QWord
  mb      : List QWord
  cb      : List QWord
  ps      : Nat
  pv      : Nat
  pm      : Nat
  pc      : Nat
  vfree   : Nat
  mfree   : Nat
  cfree   : Nat
  taken   : Nat
  accF    : Nat
  accC    : Nat
  crc     : BitVec 64
  ended   : Option (BitVec 64 × BitVec 32)
  last    : Nat
  tick    : Option Nat
  segno   : Nat
  gl      : Nat × Label
  deriving DecidableEq, Repr, Inhabited

/-- A core (0-383) or a steering sequencer (384 + 0-47). `since` is the frame of the tick at which a wait began;
`saving` says what follows a restore (R252): 0 the next attempt here, 1 a forced save, 2 the next attempt elsewhere,
3 a run from the last commit point after a BREAK;
`saveNext` that a gang is being saved (R255); `snapOrd` that a SYNC must follow the commit point (R108); `segs` counts the
segments it has opened; `owes` the function and scheduler to charge when the task leaves (R302). -/
structure Unit where
  mode  : UMode
  pc    : Nat
  iss   : Iss
  task  : Option Nat
  regs  : Regs
  vol   : Vol
  que   : Que
  seg   : Seg
  pend  : List Due
  code  : Mem
  codeN : Nat
  spad  : Mem
  defer : List (Nat × Nat)
  snap  : Option Regs
  snapM : List (Nat × List Byte)
  real  : Option Nat
  order : Bool
  ring  : Option (Nat × Nat × Nat × Nat)
  segs  : Nat
  quar  : Bool
  snapPc : Nat
  snapOrd : Bool
  unMark : Nat
  since  : Nat
  saving : Nat
  saveNext : Bool
  owes   : Option (Nat × Nat)
  deriving DecidableEq, Repr, Inhabited

/-- Task states (R299), `joining` being a task that ended by CONT and waits for its group (R232). -/
inductive TState | none | spawned | preparing | ready | running | returning | parked | joining | failing | done
  deriving DecidableEq, Repr, Inhabited

/-- How a child ended, for CHST (R298): success, TFAIL code, or fault code and subcode. -/
inductive TEndK | ok | tfail (code : Nat) | fault (code sub : Nat)
  deriving DecidableEq, Repr, Inhabited

/-- A pending argument (R229). -/
structure Arg where
  slot  : Nat
  desc  : Desc
  mode  : AMode
  merge : Merge
  lab   : Label
  deriving DecidableEq, Repr, Inhabited

/-- What a park or a forced save keeps (R306, R308): registers, what stands beside R62 (log 31), boxes in the
scratchpad, where to resume, whether a SYNC must come next (R108). -/
structure Saved where
  regs  : Regs
  vol   : Vol
  boxes : List (Nat × List Byte)
  pc    : Nat
  order : Bool
  deriving DecidableEq, Repr, Inhabited

/-- A task-table entry (R299, R261). The key of a task is its spawn sequence number (R301).
`start` is the frame at which it began to wait, while it is prepared the frames it has waited (R303), `inst` the cluster of its
instance (R291), `home` the unit it last ran on, `ready` whether its inputs are resident, `stages` where its staging areas lie
by slot (R230), `lbl0` LBLPC as it starts anew (R61, R253), `segno` the segments it had opened when it left its unit (R401),
`began` whether it has run (R421). -/
structure Task where
  st     : TState
  lid    : Nat
  die    : Nat
  taskid : BitVec 32
  index  : Nat
  level  : Nat
  seq    : Bool
  parent : Option Nat
  child  : Nat
  unit   : Option Nat
  start  : Nat
  cont   : Bool
  boxes  : Tab Box
  lbl    : Label
  prio   : Nat
  args   : List Arg
  group  : List Nat
  closed : Bool
  contPc : Nat
  anchor : Nat
  attempt : Nat
  commits : Nat
  saved  : Option Saved
  wait   : Option (Nat × Nat × Nat)
  timed  : Option (Nat × Nat × Nat)
  gang   : Option (Nat × Nat × Nat)
  how    : TEndK
  endL   : Label
  boxbad : Bool
  chst   : Lv 64
  segchk : Tab Nat
  inst   : Option Nat
  home   : Nat
  ready  : Bool
  stages : List (Nat × BScope × Nat × Nat)
  lbl0   : Label
  segno  : Nat
  began  : Bool
  deriving DecidableEq, Repr, Inhabited

/-- A level-table entry, a box declaration, a task entry and a root of a launch record (R286-R289). -/
structure LevelE where
  domain : Nat
  scope  : Nat
  timed  : Bool
  table  : List (Nat × Nat × Nat × Nat × Nat)
  deriving DecidableEq, Repr, Inhabited

structure DeclE where
  present : Bool
  layout  : Nat
  rank    : Nat
  mode    : Nat
  merge   : Nat
  staged  : Bool
  cap     : Nat
  decl    : Quad Nat
  deriving DecidableEq, Repr, Inhabited

structure TaskE where
  level  : Nat
  acc    : Nat
  prot   : Bool
  strict : Bool
  code   : List Word
  pool   : List Word
  decls  : List DeclE
  deriving DecidableEq, Repr, Inhabited

structure RootE where
  base   : Nat
  layout : Nat
  rank   : Nat
  lab    : Label
  scope  : Nat
  die    : Nat
  policy : Nat
  kind   : Nat
  cap    : Nat
  ext    : Quad Nat
  deriving DecidableEq, Repr, Inhabited

/-- A launch under way (R285, R310, R311). -/
structure Launch where
  live   : Bool
  fn     : Nat
  chain  : Nat
  entry  : Nat
  asid   : Nat
  dies   : BitVec 8
  tgroup : Nat
  prio   : Nat
  ceil   : Nat
  irq    : Bool
  status : Nat
  user   : Nat
  park   : Nat
  codeL  : Label
  levels : List LevelE
  tasks  : List TaskE
  roots  : List RootE
  bind   : List Nat
  first  : Nat
  top    : Nat
  result : Nat
  fcode  : Nat
  detail : Nat
  detL   : Label
  deriving DecidableEq, Repr, Inhabited

/-- The registers of one launch chain (R309) and which entries beyond CSEQ have completed (R311). -/
structure Chain where
  base  : Nat
  log2n : Nat
  en    : Bool
  tail  : BitVec 64
  head  : BitVec 64
  cseq  : BitVec 64
  fin   : List Nat
  deriving DecidableEq, Repr, Inhabited

/-- A ring's register block (R372). -/
structure Ring where
  base  : Nat
  log2n : Nat
  en    : Bool
  ovf   : Bool
  head  : BitVec 64
  tail  : BitVec 64
  deriving DecidableEq, Repr, Inhabited

/-- What one virtual or physical function holds: doorbell page, window, weight, virtual time, MSI-X (R302, R374-R376). -/
structure Fn where
  chains : Tab Chain
  ring   : Ring
  winSet : Bool
  winAs  : Nat
  winBase : Nat
  weight : Option Nat
  vt     : Tab Nat
  pba    : BitVec 16
  msix   : Tab Word
  ltol   : BitVec 32
  vftab  : BitVec 2
  flr    : Bool
  deriving DecidableEq, Repr, Inhabited

/-- An address space (R313, R378, R281) with the arena pages taken (R292), the ranges of its save
area in use by task (R306), its FST tables (R338) and the limit of its pre-emption in µs (R308). -/
structure As where
  live   : Bool
  fn     : Nat
  l0     : Nat
  map    : List Nat
  slots  : BitVec 8
  poltab : BitVec 64
  arena  : Nat
  arenaN : Nat
  save   : Nat
  saveN  : Nat
  stash  : List (Nat × Nat × Nat)
  debug  : Bool
  taken  : List (Nat × Nat)
  fst    : Tab (Option (List Word × Nat × Nat × Label))
  off    : Bool
  pre    : Option (Nat × Nat)
  limit  : Nat
  deriving DecidableEq, Repr, Inhabited

/-- A page-table leaf as the walker reads it (R315). -/
structure Pte where
  r      : Bool
  w      : Bool
  at_    : Bool
  kind   : Nat
  size   : Nat
  tx     : Bool
  layout : Nat
  pol    : Nat
  lab    : Label
  prog   : Nat
  tgt    : Nat
  port   : Nat
  addr   : Nat
  deriving DecidableEq, Repr, Inhabited

/-- Kinds of untimed words (R202). -/
inductive XKind
  | cin | cout (na : Bool) | cfill | cslice (n : Nat) | csig (amt : Nat)
  | ratom (op : AOp) (wide : Bool) (tag : BitVec 16) (v x : Nat) (tries : Nat)
  | cfence (sc : Scope) | txload (id : Nat) | txrun (id : Nat)
  | xsend (die ch seq : Nat) | xrecv (die ch seq at_ : Nat) | rrot (prev : Bool)
  deriving DecidableEq, Repr, Inhabited

/-- State of a counter addition (R225). -/
inductive CState | none | pending | released | dropped
  deriving DecidableEq, Repr, Inhabited

/-- A C word from its issue to its completion (R200-R203): among the rest the number of its segment on its unit (`segs`),
what a fence holds before it as words with the fence's scope (`after`, R215), the words whose writes its released addition
follows (`rel`, R331), restart points of a TXRUN as emitted bytes, input bit and state (`marks`, R350) and the table its
decode began with (`tab`) and its source as it stood then (`peek`, R348). A CSLICE's `read` is the rank of its member, its `sent` whether its slice has been written
(R210). -/
structure XWord where
  kind  : XKind
  unit  : Nat
  task  : Nat
  asid  : Nat
  issue : Nat
  segno : Nat
  phase : Nat
  lab   : Label
  src   : Hnd
  dst   : Hnd
  cnt   : Option (Hnd × Nat × Nat)
  cstat : CState
  data  : List Byte
  read  : Nat
  moved : List Nat
  sent  : Nat
  wait  : List Nat
  held  : Option Flt
  found : Nat
  cancel : Nat
  mark  : Nat
  done  : Bool
  dead  : Bool
  void  : Bool
  ring  : List Nat
  err   : Nat
  tick  : Nat
  segs  : Nat
  after : List (Nat × Nat)
  rel   : List Nat
  marks : List (Nat × Nat × Nat)
  tab   : Option (List Word × Nat × Nat × Label)
  peek  : Option (List Byte)
  deriving DecidableEq, Repr, Inhabited

/-- Data of an XSEND in the receive buffer of its pair of dies, or on its way there (R217, R218, R380): sender and receiver,
channel, its place in order, tick and word, issue cycle, beats, size and label, the bytes read so far, whether all have come to
the buffer, whether an XRECV has taken them from it, and its function (R386). -/
structure XMsg where
  src   : Nat
  dst   : Nat
  ch    : Nat
  seq   : Nat
  tick  : Nat
  word  : Nat
  issue : Nat
  beats : Nat
  size  : Nat
  lab   : Label
  data  : List Byte
  full  : Bool
  taken : Bool
  fn    : Nat
  deriving DecidableEq, Repr, Inhabited

/-- Who asked for an access (R321, R400). -/
inductive Agent | clane (u : Nat) | fst (n : Nat) | seq (u : Nat) | cp (die : Nat) | sched (die : Nat)
  | hostp (p : Nat) | peerp (p : Nat) | scrub | lane (u : Nat)
  deriving DecidableEq, Repr, Inhabited

/-- A stream stalled on a page, or the page of a sequencer's access (R320), with the address that met it (R321). -/
structure Stall where
  die    : Nat
  asid   : Nat
  page   : Nat
  va     : Nat
  acc    : Nat
  agent  : Agent
  task   : Nat
  tag    : Nat
  word   : Nat
  posted : Bool
  walked : Bool
  deriving DecidableEq, Repr, Inhabited

/-- A registered destination (R360) and an installed policy (R362, R363). -/
structure Dest where
  kind   : Nat
  port   : Nat
  fn     : Nat
  tenant : Nat
  base   : Nat
  len    : Nat
  deriving DecidableEq, Repr, Inhabited

structure Policy where
  live    : Bool
  left    : Nat
  expiry  : Nat
  nonce   : Nat
  layouts : Nat
  tenants : List Nat
  dests   : List Dest
  deriving DecidableEq, Repr, Inhabited

/-- Masters that can be frozen (R406). -/
inductive Master
  | core (core asid : Nat)
  | fn (fn port : Nat)
  | debug
  | peer (port : Nat)
  | seq (sq asid : Nat)
  deriving DecidableEq, Repr, Inhabited

/-- Bytes to write at an address; with a mask, only its bits of them (R134, R198): an empty mask stands for all bits. -/
structure WRun where
  a    : Nat
  bs   : List Byte
  mask : List Byte
  deriving DecidableEq, Repr, Inhabited

/-- What a transaction of the Col does once it has passed (R359): bytes written, a counter addition, an atomic, an
answer to a reader outside the package, or the old value that an atomic of a peer answers. -/
inductive TxAct
  | wr (ws : List WRun)
  | add (v : Nat)
  | atom
  | ans (d : List Byte)
  | old (d : List Byte)
  deriving DecidableEq, Repr, Inhabited

/-- A transaction waiting at the Col (R359, R361): destination kind of R360, port, function, address space and label,
layout, target address and size, the untimed word it belongs to, its master, whether it is a COUT.NA, whether its page is
SO. -/
structure Txn where
  kind   : Nat
  port   : Nat
  fn     : Nat
  asid   : Nat
  lab    : Label
  layout : Nat
  addr   : Nat
  size   : Nat
  word   : Option Nat
  master : Option Master
  na     : Bool
  so     : Bool
  act    : TxAct
  deriving DecidableEq, Repr, Inhabited

/-- TYPE of a flit (R383). -/
inductive FType | wr | wrna | atom | atomrsp | rd | rdrsp | ack
  deriving DecidableEq, Repr, Inhabited

/-- A flit in a peer port's retry buffer (R383, R384): TYPE, sequence number, acknowledged number, and of the header's
tenant tag the function; its word, the address and at most 240 bytes of what it carries. -/
structure Flit where
  ty   : FType
  sq   : BitVec 12
  ack  : BitVec 12
  word : Option Nat
  na   : Bool
  so   : Bool
  fn   : Nat
  addr : Nat
  act  : TxAct
  deriving DecidableEq, Repr, Inhabited

/-- A record on its way to a ring (R368, R372): the ring and its bytes. -/
structure Rec where
  ring : RingId
  data : List Byte
  deriving DecidableEq, Repr, Inhabited

/-- How cells of a sector fail (R391, R397): an upset stands until the sector is written anew; a transient fails the next
`n` reads; damaged cells hold `v` for good. -/
inductive CellK | upset | reads (n : Nat) | stuck (v : Bool)
  deriving DecidableEq, Repr, Inhabited

/-- Failing cells of a sector (R388, R391): sector address and bit positions, 0 to 511 its data, from 512 its check bits
as R388 packs them. -/
structure Cell where
  sector : Nat
  bits   : List Nat
  kind   : CellK
  deriving DecidableEq, Repr, Inhabited

/-- Who makes an access and for whom (R318, R400): agent, die whose TLB it uses (8: Steppe), address space,
TASKID, mark of its last fence (R327), whether it reads the target of an atomic (R333), the untimed word it is made for,
which translates each page once (R318), whether what it reads is control (R393). -/
structure Ctx where
  agent  : Agent
  die    : Nat
  asid   : Nat
  taskid : Nat
  mark   : Nat
  atom   : Bool
  word   : Option Nat
  ctl    : Bool
  deriving DecidableEq, Repr, Inhabited

/-- Per-die state: P-state, C-state, clocks, timing group (R256, R414-R419); `ticks` are the ticks at which a segment of it
has opened (R258). -/
structure Die where
  preq   : Nat
  c3ok   : Bool
  shrink : Bool
  pcur   : Nat
  ccur   : Nat
  swal   : Nat
  drain  : Bool
  group  : Option Nat
  live   : Bool
  ticks  : List Nat
  deriving DecidableEq, Repr, Inhabited

/-- A command-processor pair (R409, R410). -/
structure Cp where
  restarts : Nat
  frozen   : Bool
  dead     : Bool
  bad      : Bool
  deriving DecidableEq, Repr, Inhabited

/-- A peer port (R371, R383-R385, R411): `nak` while it drops what follows a bad flit, `naked` while its own buffer holds
a NAKed flit, `steps` the frame of its last step and whether it was a step down. -/
structure Peer where
  up     : Bool
  rate   : Nat
  retry  : Nat
  lost   : Nat
  asid   : Option Nat
  txseq  : BitVec 12
  rxseq  : BitVec 12
  buf    : List Flit
  reqs   : List PeerReq
  nak    : Bool
  naked  : Bool
  steps  : Option (Nat × Bool)
  deriving DecidableEq, Repr, Inhabited

/-- A gang's reservation of its cores (R305): held, or lapsed and waiting out its 1 ms. -/
inductive GRes | none | held (since : Nat) | lapsed (since : Nat)
  deriving DecidableEq, Repr, Inhabited

/-- The mailbox (R377). -/
structure Mbox where
  addr   : BitVec 64
  len    : BitVec 64
  cmd    : BitVec 8
  busy   : Bool
  result : BitVec 8
  handle : BitVec 16
  deriving DecidableEq, Repr, Inhabited

/-- Power block and bring-up (R414-R424). -/
structure Pwr where
  modpwr  : BitVec 16
  ckBusy  : Bool
  ckDone  : Bool
  ckFail  : Bool
  ckBase0 : BitVec 64
  ckBase1 : BitVec 64
  serial  : BitVec 32
  ckKind  : Nat
  ckNext  : Nat
  stage   : Nat
  ready   : Bool
  fail    : Bool
  error   : Nat
  fwOk    : Bool
  fuseOk  : Bool
  liveF   : BitVec 8
  en0     : BitVec 64
  en1     : BitVec 64
  en2     : BitVec 64
  en3     : BitVec 64
  deriving DecidableEq, Repr, Inhabited

/-- What moves next: a unit's next word or due effect, a pending effect of an ended segment, one row of the table that
is no word, one of the small moves no row names, or what comes next from outside (log 4). Those from `renew`
on are rows of the table too, under names of their own. -/
inductive Turn
  | unit (u : Nat)
  | drain (u : Nat)
  | event (i : Instr)
  | piece (x j : Nat)
  | emit (x : Nat)
  | accept (port : Nat)
  | evict (die asid page : Nat)
  | uncached (die line : Nat)
  | upset
  | input
  | renew (task : Nat)
  | request (port : Nat)
  | rate (up : Bool) (port : Nat)
  | scrub (sector : Nat)
  | restart (u : Nat)
  | pstate (die : Nat)
  | cstate (die : Nat)
  | wake (die : Nat)
  | micro
  | boot
  deriving DecidableEq, Repr, Inhabited

/-- The whole module. `answer` is the last answer to a reader beside the tasks: who asked (1 a host, 3 debug, 4 a peer,
5 a view's chunk) and the bytes, none for a completer abort. `retune` holds the circuits that CONNECT changes with their new
widths, `tuned` whether they have been retuned and wait for the tick (R381). -/
structure State where
  active  : Nat
  turn    : Option Turn
  inputs  : List Instr
  choices : Nat
  frees   : Nat
  units   : Tab Unit
  tasks   : Tab Task
  spawns  : Nat
  launches : Tab Launch
  lnext   : Nat
  gangs   : Tab (List Nat)
  gres    : Tab GRes
  fns     : Tab Fn
  asids   : Tab As
  clstore : Tab Mem
  clused  : Tab (List (Nat × Nat))
  dev     : Mem
  hostMem : Mem
  peerMem : Tab Mem
  xwords  : Tab XWord
  xnext   : Nat
  xin     : List XMsg
  ratoms  : List (Nat × Nat × BitVec 16 × Nat)
  tlb     : List (Nat × Nat × Nat × Pte)
  utlb    : List (Nat × Nat × Nat × Pte)
  wpages  : Tab (List (Nat × Pte))
  stalls  : List Stall
  tagNext : Nat
  uncache : List (Nat × Nat × List Byte × Nat)
  unNext  : Nat
  founds  : Nat
  lostsev : Tab Nat
  cells   : List Cell
  upsets  : List Cell
  colQ    : List Txn
  answer  : Option (Nat × Option (List Byte))
  keys    : Tab (List Byte)
  dests   : Tab (Option Dest)
  policies : Tab Policy
  frozen  : List Master
  rings   : Tab Ring
  recQ    : List Rec
  irqs    : List (Nat × Nat)
  mbox    : Mbox
  dies    : Tab Die
  cps     : Tab Cp
  conn    : Tab Nat
  retune  : Option (List (Nat × Nat))
  tuned   : Bool
  tgroups : Tab (BitVec 8)
  peers   : Tab Peer
  devtime : BitVec 64
  frame   : BitVec 64
  reals   : Tab Nat
  pwr     : Pwr
  deriving DecidableEq, Repr, Inhabited

/-- Why a step stops. -/
inductive Fault
  /-- `step`: no agent of the module can move and nothing is left to come from outside. The module waits for ever; the
  hardware does the same. Safe. -/
  | idle
  deriving DecidableEq, Repr, Inhabited

/-- Why an instruction has no meaning where it stands. -/
inductive Refusal
  /-- An arm of `exec` whose instruction has no meaning yet. Safe. -/
  | notModelled (mnemonic : String)
  deriving DecidableEq, Repr, Inhabited

/-- The generators a seed gives (R23). -/
def seedGens (seed : BitVec 32) : List (BitVec 32) :=
  (List.range 128).map fun i =>
    let g := seed ^^^ BitVec.ofNat 32 (0x9E3779B9 * (i + 1))
    if g = 0#32 then 1#32 else g

/-- Registers at task start (R61, R64) with `acc` tiles allotted. -/
def Regs.start (acc : Nat) : Regs :=
  { (default : Regs) with vmode := 0x100#64, gens := seedGens 0#32, acc := acc }

/-- A unit before any task: the values of R61 (DESIGN CHOICE, log 3), stores as log 2 says, nothing pending. -/
def Unit.reset : Unit := { (default : Unit) with regs := Regs.start 0 }

/-- Units that package reset leaves: 384 cores and 48 sequencers (R3). -/
def unitsReset : Tab Unit := (List.range 432).map fun u => (u, Unit.reset)

/-- A die after reset: P0, C0, no group (R424); live once bring-up has found it so. -/
def Die.reset : Die := default

/-- The connection table at reset (R379). -/
def connReset : Tab Nat :=
  ((List.range 64).filter fun i => decide (i / 8 ≠ i % 8)).map fun i => (i, 32)

/-- A peer port after reset: up at 200 Gb/s (DESIGN CHOICE, log 1). -/
def Peer.reset : Peer := { (default : Peer) with up := true, rate := 200 }

/-- The power block and bring-up state after package reset (R416, R423, R424): stage 1 in progress. -/
def Pwr.reset : Pwr :=
  { (default : Pwr) with
    modpwr := 460#16, stage := 1, fwOk := true, fuseOk := true, liveF := 0xFF#8,
    en0 := 0x3FF#64, en1 := 0xFF#64 }

/-- The machine right after package reset (R424): no address space, key, policy or destination, every register at the
value its rule gives, and otherwise at the value the assumption log names. -/
def State.reset : State :=
  { (default : State) with
    turn := none
    units := unitsReset
    conn := connReset
    peers := (List.range 32).map fun p => (p, Peer.reset)
    pwr := Pwr.reset }

end Sys2Proof.Machine
end

