-- ==== Sys2Proof/Machine/Ops.lean ====
section
/-! DEFINITION. The named operations over units, tasks and launches, and the one shared operation that takes a fault
(R113, R401-R408): abort, cancel or fail or freeze or note, and the record. The return from a cancel (R252) stands
beside it. -/

namespace Sys2Proof.Machine

/-! ## Units -/

/-- Unit `u`: core `u` below 384, sequencer `u - 384` from there (R3). -/
def State.unit (s : State) (u : Nat) : Unit := s.units.get u

/-- The unit whose word is being executed. -/
def State.me (s : State) : Unit := s.units.get s.active

def State.setUnit (s : State) (u : Nat) (x : Unit) : State := { s with units := s.units.put u x }

def State.modUnit (s : State) (u : Nat) (f : Unit → Unit) : State := s.setUnit u (f (s.unit u))

/-- The active unit changed. -/
def State.modMe (s : State) (f : Unit → Unit) : State := s.modUnit s.active f

def isSeq (u : Nat) : Bool := decide (384 ≤ u)

/-- Die of a unit (R3, R63). -/
def dieOf (u : Nat) : Nat := if u < 384 then u / 48 else (u - 384) / 6

/-- Cluster of a unit, counted over the package. -/
def clusterOf (u : Nat) : Nat := if u < 384 then u / 8 else u - 384

/-- COREID (R63). -/
def coreId (u : Nat) : Nat := if u < 384 then u else 0x8000 + (u - 384)

/-! ## Tasks and launches -/

def State.task (s : State) (t : Nat) : Task := s.tasks.get t

def State.modTask (s : State) (t : Nat) (f : Task → Task) : State := { s with tasks := s.tasks.upd t f }

/-- The task on a unit; without one, the default entry. -/
def State.taskOf (s : State) (u : Nat) : Task :=
  match (s.unit u).task with
  | some t => s.task t
  | none => default

def State.launch (s : State) (l : Nat) : Launch := s.launches.get l

def State.launchOf (s : State) (u : Nat) : Launch := s.launch (s.taskOf u).lid

/-- The address space a unit's task runs in (R313). -/
def State.asidOf (s : State) (u : Nat) : Nat := (s.launchOf u).asid

/-- The task entry of the launch record (R288). -/
def Launch.entryOf (l : Launch) (i : Nat) : TaskE := l.tasks.getD i default

def State.entryOf (s : State) (u : Nat) : TaskE := (s.launchOf u).entryOf (s.taskOf u).index

/-- The level entry of a launch (R286). -/
def Launch.levelOf (l : Launch) (i : Nat) : LevelE := l.levels.getD i default

/-- The level entry of a task (R286). -/
def State.levelE (s : State) (k : Nat) : LevelE := (s.launch (s.task k).lid).levelOf (s.task k).level

/-- A level whose tasks the package arbiter places (R291). -/
def LevelE.byArbiter (lv : LevelE) : Bool := decide (lv.domain ≤ 1)

/-- `prot=phase` (R250). -/
def State.prot (s : State) (u : Nat) : Bool := (s.entryOf u).prot

/-- `strict=on` (R276). -/
def State.strict (s : State) (u : Nat) : Bool := (s.entryOf u).strict

/-- The box in a slot of the unit's task (R261). -/
def State.box (s : State) (u : Nat) (slot : Nat) : Box := (s.taskOf u).boxes.get slot

/-- Whether a die is live (R1, R424). -/
def State.dieLive (s : State) (d : Nat) : Bool := (s.dies.get d).live

/-- The mask of live dies (R423, R424). -/
def State.liveMask (s : State) : BitVec 8 :=
  BitVec.ofNat 8 ((List.range 8).foldl (fun n d => if s.dieLive d then n + 2 ^ d else n) 0)

/-- The members of a unit's gang (R254), itself included; the unit alone outside a gang. -/
def State.gangOf (s : State) (u : Nat) : List Nat :=
  match (s.taskOf u).gang with
  | some (g, _, _) => (s.gangs.get g).filterMap fun t => match (s.task t).unit with
    | some v => if (s.unit v).task = some t then some v else none
    | none => none
  | none => [u]

/-- The members of a unit's gang that have not come to their TEND (R254). -/
def State.gangLive (s : State) (u : Nat) : List Nat :=
  (s.gangOf u).filter fun v => match (s.unit v).mode with | .tending _ => false | _ => true

/-! ## Virtual time (R302) -/

/-- The scheduler a task is a candidate of: its die's, or the arbiter (8). -/
def State.schedOf (s : State) (k : Nat) : Nat := if (s.levelE k).byArbiter then 8 else (s.task k).die

/-- Weight of a function. -/
def State.weight (s : State) (fn : Nat) : Nat := (s.fns.get fn).weight.getD 1024

/-- Tasks that wait to be picked, to prepare or to run (R301). -/
def State.waiting (s : State) (sc : Nat) : List Nat :=
  (s.tasks.filter fun e => (e.2.st = .spawned || e.2.st = .ready) && e.2.timed.isNone && decide (s.schedOf e.1 = sc)).map (·.1)

/-- A task that is no candidate yet becomes one: its function, if it has no other, takes at least the least virtual time of those
that have one. -/
def State.gain (s : State) (k : Nat) : State :=
  let fnOf (j : Nat) : Nat := (s.launch (s.task j).lid).fn
  let sc := s.schedOf k
  let others := (s.waiting sc).filter (· ≠ k)
  if (s.task k).timed.isSome || others.any fun j => fnOf j = fnOf k then s
  else
    let least := others.foldl (fun (m : Option Nat) j =>
      let v := (s.fns.get (fnOf j)).vt.get sc
      match m with | some x => some (min x v) | none => some v) none
    { s with fns := s.fns.upd (fnOf k) fun f => { f with vt := f.vt.put sc (max (f.vt.get sc) (least.getD 0)) } }

/-- A task leaves a unit: its function is charged for the cycles held, a free value; with weight 0 it is not. -/
def State.charge (s : State) (u : Nat) : State :=
  match (s.unit u).owes with
  | none => s
  | some (fn, sc) =>
    let w := s.weight fn
    let held := Config.choice s.frees
    let s := { s.modUnit u (fun x => { x with owes := none }) with frees := s.frees + 1 }
    if w = 0 then s
    else { s with fns := s.fns.upd fn fun f => { f with vt := f.vt.put sc (f.vt.get sc + (held * 65536 + w - 1) / w) } }

/-- An event row whose occasion is not there: nothing happens (DESIGN CHOICE, log 80). The step takes no such row by itself. -/
def noEvent (s : State) (_why : String) : Host.Outcome State Fault Refusal := .next s

/-! ## Timed effects -/

/-- Order of two effects: cycle, place in the cycle, lane, issue (R39, R136, R176). -/
def Due.before (a b : Due) : Bool :=
  decide (a.cyc < b.cyc) || (decide (a.cyc = b.cyc) &&
    (decide (a.phase < b.phase) || (decide (a.phase = b.phase) &&
      (decide (a.lane < b.lane) || (decide (a.lane = b.lane) && decide (a.iss ≤ b.iss))))))

/-- An effect put in its place in the list of effects to come. -/
def insertDue (d : Due) (l : List Due) : List Due :=
  match l with
  | [] => [d]
  | e :: r => if e.before d then e :: insertDue d r else d :: e :: r

def Unit.due (x : Unit) (cyc phase lane : Nat) (e : Eff) : Unit :=
  { x with pend := insertDue ⟨cyc, phase, lane, x.iss.cyc, e⟩ x.pend }

/-- Places within a cycle: samples, writes, things an issue does at once, deposits after pops, fetch, the
ACCINJ flip, the checks of a segment's end. -/
def phSample : Nat := 0
def phWrite : Nat := 1
def phIssue : Nat := 3
def phNow : Nat := 4
def phPush : Nat := 5
def phFetch : Nat := 6
def phFlip : Nat := 7
def phEnd : Nat := 8

/-- Lane places in a cycle's writes: S, then M before V (an M write stays over a V write, R55), then C. -/
def lnS : Nat := 0
def lnM : Nat := 1
def lnV : Nat := 2
def lnC : Nat := 3

/-! ## Labels -/

/-- LBLPC raised at an issue: for words fetched from the next cycle in a segment, at once elsewhere (R356, R357). -/
def Unit.raiseLbl (x : Unit) (l : Label) : Unit :=
  if l = 0#8 then x
  else if x.iss.timed then x.due (x.iss.cyc + 1) phWrite lnS (.raise l)
  else { x with vol := { x.vol with lblpc := x.vol.lblpc ||| l } }

/-! ## Records -/

/-- The function whose chain started a unit's launch (R402). -/
def State.fnOf (s : State) (u : Nat) : Nat := (s.launchOf u).fn

/-- A signed coordinate saturated to 32 bits (R272). -/
def sat32 (z : Int) : Nat := unsigned 32 (max (-(2 ^ 31 : Int)) (min (2 ^ 31 - 1 : Int) z))

/-- The SEGCYC a record carries (R401, R275). -/
def Iss.segcyc (i : Iss) : Nat := if i.timed then i.cyc else 0xFFFFFFFF

/-- The fault record of R401 for a task. -/
def State.faultRec (s : State) (t : Task) (attempt segno : Nat) (f : Flt) (sev : Nat) : List Byte :=
  let die := match t.unit with | some u => dieOf u | none => t.die
  let q (c : Quad Int) : List Byte :=
    leBytes 4 (sat32 c.x0) ++ leBytes 4 (sat32 c.x1) ++ leBytes 4 (sat32 c.x2) ++ leBytes 4 (sat32 c.x3)
  let zero : Quad Int := ⟨0, 0, 0, 0⟩
  leBytes 1 f.code ++ leBytes 1 sev ++ leBytes 2 f.sub
  ++ leBytes 1 (f.lane + 4 * attempt + 16 * f.bd.kind + 64 * b2n t.seq)
  ++ leBytes 1 f.lab.toNat
  ++ leBytes 2 ((s.launch t.lid).asid + 1024 * die)
  ++ leBytes 4 f.cyc ++ leBytes 4 t.taskid.toNat
  ++ leBytes 8 s.devtime.toNat
  ++ leBytes 4 f.det
  ++ leBytes 2 (if t.seq then 0 else min segno 0xFFFF)
  ++ leBytes 1 ((if f.bd.kind = 0 then 0 else f.bd.root) + 16 * (if f.bd.kind = 0 then 0 else f.slot)) ++ leBytes 1 0
  ++ q (if f.bd.kind = 1 then f.bd.rootc else zero) ++ q (if f.bd.kind = 0 then zero else f.bd.leafc)

/-- The record of a fault on a unit. -/
def faultRecord (s : State) (u : Nat) (f : Flt) (sev : Nat) : List Byte :=
  s.faultRec { s.taskOf u with unit := some u, seq := isSeq u } (s.unit u).vol.attempt (s.unit u).seg.segno f sev

/-- The attempt and segment number that a record of a task carries (R401): those of its unit while it runs there, else as they were
when it left. -/
def State.standsIn (s : State) (k : Nat) : Nat × Nat :=
  let t := s.task k
  match t.unit with
  | some u => if (s.unit u).task = some k then ((s.unit u).vol.attempt, (s.unit u).seg.segno) else (t.attempt, t.segno)
  | none => (t.attempt, t.segno)

/-- The record of a fault of a task, wherever the task is. -/
def State.taskRec (s : State) (k : Nat) (f : Flt) (sev : Nat) : List Byte :=
  s.faultRec (s.task k) (s.standsIn k).1 (s.standsIn k).2 f sev

/-- A record handed to a ring; it reaches host memory by RING_RECORD_WRITE (R372). -/
def State.post (s : State) (r : RingId) (d : List Byte) : State := { s with recQ := s.recQ ++ [⟨r, d⟩] }

/-- An event record (R373). -/
def State.event (s : State) (code port fn asid detail : Nat) : State :=
  s.post .ev (leBytes 8 s.devtime.toNat ++ leBytes 1 code ++ leBytes 1 port ++ leBytes 2 fn ++ leBytes 2 asid
    ++ leBytes 2 0 ++ leBytes 8 detail ++ leBytes 8 0)

/-! ## Fault codes (R404) -/

def fIllegalWord : Nat := 0x01
def fIllegalOperand : Nat := 0x02
def fScheduleMiss : Nat := 0x03
def fFormatUnderflow : Nat := 0x04
def fFormatOverflow : Nat := 0x05
def fFormatInvalid : Nat := 0x06
def fSegmentCheck : Nat := 0x07
def fBoxRange : Nat := 0x08
def fLabelFlow : Nat := 0x09
def fSpawnOverlap : Nat := 0x0A
def fSpawnRange : Nat := 0x0B
def fTranslation : Nat := 0x0C
def fPermission : Nat := 0x0D
def fMemory : Nat := 0x0E
def fRemote : Nat := 0x0F
def fTrap : Nat := 0x10
def fBreak : Nat := 0x11
def fTaskLate : Nat := 0x12
def fWaitOrder : Nat := 0x13
def fGate : Nat := 0x14
def fTxstream : Nat := 0x15
def fForcedSave : Nat := 0x16
def fQuarantine : Nat := 0x17
/-- A CANCEL memory error (R283, R284), its severity as subcode: a cancel cause that writes no record. No code of R404;
after the third attempt it is raised as MEMORY_SEVERITY (R225, R404). -/
def fCancel : Nat := 0x100

/-- A fault of the word now issuing on a unit. -/
def Unit.flt (x : Unit) (lane code sub : Nat) (l : Label) : Flt :=
  { (default : Flt) with code := code, sub := sub, lane := lane, cyc := x.iss.segcyc, lab := l }

/-- Outcomes of R403. -/
inductive FOut | cancel | fail | freeze | note
  deriving DecidableEq, Repr

def faultOut (code : Nat) : FOut :=
  if code = fScheduleMiss || code = fSegmentCheck || code = fCancel then .cancel
  else if code = fPermission || code = fGate then .freeze
  else if code = fBreak || code = fForcedSave || code = fQuarantine then .note
  else .fail

/-! ## Taking a fault -/

/-- The segment aborted at cycle `c` (R113): nothing issues from then on, queued words are discarded, and what words of
cycle `c` had set going is taken back when the fault is an issue fault (`cut`). -/
def Unit.abort (x : Unit) (c : Nat) (cut : Bool) : Unit :=
  { x with
    pend := if cut && x.iss.timed then x.pend.filter (fun d => decide (d.iss ≠ c) || decide (d.cyc < c)) else x.pend
    seg := { x.seg with stopped := true, ctl := none, held := [], sb := [], vb := [], mb := [], cb := [],
                        ended := none, tick := none } }

/-- The master of a unit's accesses: its core context or sequencer context (R406). -/
def masterOf (u asid : Nat) : Master := if u < 384 then .core u asid else .seq (u - 384) asid

/-- Pending counter additions of a task's words discarded (R225, R403); with `ph`, those of that phase alone. -/
def State.dropPending (s : State) (t : Nat) (ph : Option Nat) : State :=
  { s with xwords := s.xwords.map fun e =>
      if e.2.task = t && e.2.cstat = .pending && (match ph with | some p => decide (e.2.phase = p) | none => true)
      then (e.1, { e.2 with cstat := .dropped }) else e }

/-- A held fault a cancel does not discard (R252): its master stays frozen. -/
def Flt.stays (f : Flt) : Bool := decide (f.code = fPermission) || decide (f.code = fGate)

/-- Held faults and CANCEL errors of a phase's words discarded, those found later among them (R252): the word is
marked. -/
def State.dropHeld (s : State) (t ph : Nat) : State :=
  { s with xwords := s.xwords.map fun e =>
      if e.2.task = t && decide (e.2.phase = ph)
      then (e.1, { e.2 with held := e.2.held.filter Flt.stays, cancel := 0, void := true }) else e }

/-- C words a unit issued in the cycle an issue fault cuts off (R113, R211): they have not issued. -/
def State.dropIssued (s : State) (u c : Nat) (cut : Bool) : State :=
  let x := s.unit u
  if cut && x.iss.timed then
    let gone (e : Nat × XWord) : Bool :=
      decide (e.2.unit = u) && decide (e.2.issue = c) && decide (e.2.segs = x.segs) && some e.2.task = x.task
    { s with xwords := s.xwords.filter fun e => !gone e
             xin := s.xin.filter fun m => !(s.xwords.any fun e => decide (e.1 = m.word) && gone e) }
  else s

/-- A member of a gang that a quarantine places anew as a whole (R408), where it stands at a commit point: it is saved as it
stands. One held after a BREAK leaves at the end of its hold (R237). -/
def Unit.placedAnew (x : Unit) : Unit :=
  match x.mode with
  | .wait .. => if x.saving = 2 then { x with saving := 0, saveNext := true } else x
  | .parking => { x with saving := 0 }
  | _ => x

/-- A cancel begins on one unit (R252 steps 1-3): the restore completes by PHASE_RESTORE_COMPLETE. A gang member at its
commit point, or held after a BREAK (R237), stays where it is: it has no phase in progress to restore, and its attempt
counts. -/
def State.cancelOne (s : State) (u c : Nat) (cut : Bool) : State :=
  let x := s.unit u
  let stay : Bool := match x.mode with | .wait .. => s.prot u | .parking | .held => true | _ => false
  let s := (s.dropIssued u c cut).setUnit u (if stay then { x.placedAnew with vol := { x.vol with attempt := x.vol.attempt + 1 } }
    else { x.abort c cut with mode := .restoring })
  match x.task with
  | some t => (s.dropPending t (some x.vol.commits)).dropHeld t x.vol.commits
  | none => s

/-- The attempt number of a unit's gang, which is common to it (R255). Where some members have committed and others have
not, it is the greatest of the numbers of those that have not ended, taken at the cancel (DESIGN CHOICE, log 103). -/
def State.gangAttempt (s : State) (u : Nat) : Nat :=
  (s.gangLive u).foldl (fun m v => max m (s.unit v).vol.attempt) (s.unit u).vol.attempt

/-- The phase of every member of a unit's gang cancelled (R255). -/
def State.cancelGang (s : State) (u c : Nat) (cut : Bool) : State :=
  let a := s.gangAttempt u
  (s.gangLive u).foldl (fun s v => (s.modUnit v fun x => { x with vol := { x.vol with attempt := a } }).cancelOne v c cut) s

/-- Space of a cluster store or an arena given back (R268, R292). -/
def State.giveBack (s : State) (asid : Nat) (sc : BScope) (home base : Nat) : State :=
  match sc with
  | .scratch => s
  | .clstore => { s with clused := s.clused.upd home fun l => l.filter fun r => r.1 ≠ base }
  | _ => { s with asids := s.asids.upd asid fun a => { a with taken := a.taken.filter fun r => r.1 ≠ base } }

/-- The cluster-store and arena space of a task's own boxes given back (R268, R292); views and streams have none. -/
def State.freeBoxes (s : State) (k : Nat) : State :=
  let t := s.task k
  let asid := (s.launch t.lid).asid
  let s := t.boxes.foldl (fun (s : State) e =>
    let b := e.2
    if !b.present || b.view.isSome || b.mode = .root || b.mode = .stream || b.owner ≠ k then s
    else s.giveBack asid b.scope b.home b.base) s
  s.modTask k fun t => { t with boxes := t.boxes.map fun e =>
    if e.2.mode = .root || e.2.mode = .stream || e.2.owner ≠ k then e else (e.1, { e.2 with scope := .scratch, base := 0 }) }

/-- The members of a task's gang that have not ended; the task alone outside a gang. -/
def State.gangTasks (s : State) (k : Nat) : List Nat :=
  match (s.task k).gang with
  | some (g, _, _) => (s.gangs.get g).filter fun j => (s.task j).st ≠ .done && (s.task j).st ≠ .returning
  | none => [k]

/-- The staging areas of a task given back (R230). -/
def State.freeStages (s : State) (k : Nat) : State :=
  let t := s.task k
  let asid := (s.launch t.lid).asid
  (t.stages.foldl (fun (s : State) r => s.giveBack asid r.2.1 r.2.2.1 r.2.2.2) s).modTask k fun t => { t with stages := [] }

/-- PREPARING and READY tasks back to SPAWNED (R308, R408): their place in a scratchpad is free again, and so is the cluster
of a task that the preparation chose. -/
def State.unprepare (s : State) (ks : List Nat) : State :=
  ks.foldl (fun s k =>
    if (s.task k).st = .preparing || (s.task k).st = .ready then
      (if (s.task k).st = .preparing then s.gain k else s).modTask k fun t => { t with
        st := .spawned, unit := none, ready := false
        start := if t.st = .preparing then s.frame.toNat - t.start else t.start
        inst := if t.cont || t.saved.isSome then t.inst else match t.parent with | some p => (s.task p).inst | none => none }
    else s) s

/-- Accesses of a sequencer context under way are dropped (R406): nothing waits for their pages any more, and a word that did ends
without its access, its destination as it was (DESIGN CHOICE, log 106). -/
def State.dropSeq (s : State) (u asid : Nat) : State :=
  let s := { s with stalls := s.stalls.filter fun e => decide (e.agent ≠ .seq u) || decide (e.asid ≠ asid) }
  if s.asidOf u = asid then
    s.modUnit u fun x => match x.mode with | .stall _ => { x with mode := .code, pc := x.iss.pc + x.iss.len } | _ => x
  else s

/-- A master frozen (R406): tasks queued for it go back to be placed elsewhere. -/
def State.freeze (s : State) (m : Master) : State :=
  if s.frozen.contains m then s
  else
    let s := { s with frozen := s.frozen ++ [m] }
    let queued (u asid : Nat) : List Nat := (s.tasks.filter fun e =>
      decide (e.2.unit = some u) && (e.2.st = .preparing || e.2.st = .ready) && decide ((s.launch e.2.lid).asid = asid)).map (·.1)
    match m with
    | .core c a => s.unprepare ((queued c a).flatMap s.gangTasks)
    | .seq q a => (s.unprepare (queued (384 + q) a)).dropSeq (384 + q) a
    | _ => s

/-- A task's range of its context's save area given back (R306). -/
def State.freeSave (s : State) (k : Nat) : State :=
  let asid := (s.launch (s.task k).lid).asid
  { s with asids := s.asids.upd asid fun a => { a with stash := a.stash.filter fun r => r.1 ≠ k } }

/-- Held freezes of a task that ends by something else: each has its record (R402), and is spent. -/
def State.heldRecords (s : State) (k : Nat) : State :=
  let t := s.task k
  let mine (e : Nat × XWord) : Bool := decide (e.2.task = k) && (match e.2.held with | some f => f.stays | none => false)
  let s := (s.xwords.filter mine).foldl (fun s e => match e.2.held with
    | some f => s.post (.fault (s.launch t.lid).fn) (s.taskRec k f 2)
    | none => s) s
  { s with xwords := s.xwords.map fun e => if mine e then (e.1, { e.2 with held := none }) else e }

/-- A task ended as failed on one unit (R403 F, R233, R234): outward copies suppressed, deferred effects discarded, the
unit freed; a directing task with an open group waits for its children first (R403). LBLPC counts with the rises still to
come (R366). -/
def State.failOne (s : State) (u c : Nat) (cut : Bool) (how : TEndK) (l : Label) : State :=
  let x := s.unit u
  let y := x.abort c cut
  let rise := y.pend.foldl (fun (l : Label) d => match d.eff with | .raise m => l ||| m | _ => l) x.vol.lblpc
  let s := s.dropIssued u c cut
  let s := match x.task with | some t => s.heldRecords t | none => s
  let s := (s.setUnit u { y with mode := .idle, task := none, real := none }).charge u
  match x.task with
  | none => s
  | some t =>
    let s := s.dropPending t none
    let s := if (s.task t).group.isEmpty then s.freeBoxes t else s
    s.modTask t fun k =>
      { k with st := if k.group.isEmpty then .done else .joining, closed := true, unit := none, how := how,
               endL := l ||| rise, boxbad := false, args := [], contPc := 0, attempt := x.vol.attempt, segno := x.seg.segno }

/-- A task ended as failed that is on no unit, or not running there. One that waits for its group, or whose group has
ended, is DONE; else it waits for its children (R403). -/
def State.endOff (s : State) (k : Nat) (how : TEndK) (l : Label) : State :=
  let t := s.task k
  let now := t.group.isEmpty || t.st = .joining
  let s := ((s.heldRecords k).dropPending k none).freeSave k
  let s := if now then s.freeBoxes k else s
  s.modTask k fun t =>
    { t with st := if now then .done else .joining, closed := true, unit := none, ready := false, how := how,
             endL := l ||| t.lbl, boxbad := false, args := [], contPc := 0 }

/-- A task ended as failed, wherever it is. -/
def State.endTask (s : State) (k c : Nat) (cut : Bool) (how : TEndK) (l : Label) : State :=
  match (s.task k).unit with
  | some u => if (s.unit u).task = some k then s.failOne u c cut how l else s.endOff k how l
  | none => s.endOff k how l

/-- A task and every other member of its gang end with one fault (R255, R403). -/
def State.endGang (s : State) (k c : Nat) (cut : Bool) (how : TEndK) (l : Label) : State :=
  (k :: (s.gangTasks k).filter fun j => j ≠ k).foldl (fun s j => s.endTask j c cut how l) s

/-- A task that is on no unit, or not running there, ends failed with one record (R402, R403), and its gang with it. -/
def State.failTask (s : State) (k : Nat) (f : Flt) (sev : Nat) : State :=
  let t := s.task k
  let s := s.post (.fault (s.launch t.lid).fn) (s.taskRec k f sev)
  s.endGang k 0 false (.fault f.code f.sub) f.lab

/-- A fault outside any segment, on no word of a unit. -/
def fltOf (code sub : Nat) (l : Label) : Flt :=
  { (default : Flt) with code := code, sub := sub, cyc := 0xFFFFFFFF, lab := l }

/-- A second SEGMENT_CHECK of a task on a core quarantines the core (R408): its queue empties, its gang is placed again
as a whole, timetabled tasks that name it end. -/
def State.quarantine (s : State) (u : Nat) : State :=
  let f : Flt := { (default : Flt) with code := fQuarantine, cyc := 0xFFFFFFFF, det := u }
  let s := s.post (.fault 0) (faultRecord s u f 0)
  let s := s.modUnit u fun x => { x with quar := true }
  let s := (s.gangOf u).foldl (fun s v => s.modUnit v fun x => { x with saving := 2 }) s
  let queued := (s.tasks.filter fun e => e.2.unit = some u && (e.2.st = .preparing || e.2.st = .ready)).map (·.1)
  let s := s.unprepare (queued.flatMap s.gangTasks)
  let late := (s.tasks.filter fun e => e.2.st = .spawned &&
    (match e.2.timed with | some (core, _, _) => decide (core = u) | none => false)).map (·.1)
  late.foldl (fun s k => s.failTask k (fltOf fTaskLate 4 (s.task k).lbl) 1) s

/-- SEGMENT_CHECK counted against the task and core (R408). -/
def State.countCheck (s : State) (u : Nat) : State :=
  match (s.unit u).task with
  | none => s
  | some t =>
    let n := (s.task t).segchk.get u + 1
    let s := s.modTask t fun k => { k with segchk := k.segchk.put u n }
    if n = 2 then s.quarantine u else s

/-- THE ONE OPERATION THAT TAKES A FAULT (R113, R252, R255, R401-R408). Cancel: the phase of every gang member is
cancelled, or after the third attempt the cause is raised as a task fault. Fail: one record, every gang member ends
failed. Freeze: as fail, and the master is frozen. Note: one record; a BREAK holds the task. `cut` marks a fault of an
issuing word, which takes the other issues of its cycle back. -/
def State.raise (s : State) (u : Nat) (f : Flt) (cut : Bool) : State :=
  let x := s.unit u
  let s := if f.code = fSegmentCheck then s.countCheck u else s
  let c := x.iss.cyc
  let fails (s : State) (sev : Nat) (f : Flt) : State :=
    let s := s.post (.fault (s.fnOf u)) (faultRecord s u f sev)
    let s := if sev = 2 then s.freeze (masterOf u (s.asidOf u)) else s
    match x.task with
    | some k => s.endGang k c cut (.fault f.code f.sub) f.lab
    | none => s
  match faultOut f.code with
  | .cancel =>
    if s.gangAttempt u < 2 then s.cancelGang u c cut
    else fails s 1 (if f.code = fCancel then { f with code := fMemory } else f)
  | .fail => fails s 1 f
  | .freeze => fails s 2 f
  | .note =>
    let s := s.post (.fault (s.fnOf u)) (faultRecord s u f 0)
    if f.code = fBreak then s.modUnit u fun x => { x.abort c cut with mode := .held } else s

/-- A fault of the active unit's issuing word. -/
def State.fail (s : State) (lane code sub : Nat) (l : Label) : State :=
  s.raise s.active (s.me.flt lane code sub l) true

/-- A fault of the active unit's issuing word that names a box access (R401). -/
def State.failBox (s : State) (lane code sub : Nat) (l : Label) (slot : Nat) (bd : BoxDet) : State :=
  s.raise s.active { s.me.flt lane code sub l with slot := slot, bd := bd } true

/-! ## Commit and restore -/

/-- The bytes of the staged boxes in the scratchpad (R250): start and content. -/
def State.stagedCopies (s : State) (u : Nat) (size : Box → Nat) : List (Nat × List Byte) :=
  ((s.taskOf u).boxes.filter fun e => e.2.staged && e.2.scope = .scratch && e.2.present).map fun e =>
    (e.2.base, Mem.bytes (s.unit u).spad e.2.base (size e.2))

/-- Pending additions of a task released at a commit (R225). -/
def State.release (s : State) (t : Nat) : State :=
  { s with xwords := s.xwords.map fun e =>
      if e.2.task = t && e.2.cstat = .pending then (e.1, { e.2 with cstat := .released }) else e }

/-- The state a restore gives a unit (R62, R252 step 4, R123): committed registers, empty latches and queues, staged
boxes from their committed copies, LBLPC kept. -/
def Unit.restore (x : Unit) (r : Regs) (boxes : List (Nat × List Byte)) (pc : Nat) : Unit :=
  { x with
    mode := .code, pc := pc, regs := r, order := x.snapOrd, real := none, ring := none, pend := []
    vol := { x.vol with lat := default, latIss := none, q := [], vlat := default, vlatIss := none, vq := [],
                        rstack := [] }
    que := default
    spad := boxes.foldl (fun m b => Mem.write m b.1 b.2) x.spad
    seg := { (default : Seg) with segno := 0 } }

end Sys2Proof.Machine
end

