-- ==== Sys2Proof/Machine/Boxes.lean ====
section
/-! DEFINITION. Boxes: layouts, lines and addresses, paths, the box boundary and the sticky record (spec 10,
R261-R276). -/

namespace Sys2Proof.Machine

/-- Element width in bits of a layout (R262); a ZMASK layout answers the width of its elements. -/
def layWidth (l : Nat) : Nat :=
  match l with
  | 0x00 | 0x01 => 8
  | 0x02 => 16
  | 0x03 => 32
  | 0x04 => 64
  | 0x08 => 32
  | 0x09 | 0x0A => 16
  | 0x10 | 0x11 | 0x18 | 0x19 => 8
  | 0x12 | 0x13 | 0x1A => 6
  | 0x14 | 0x1B => 4
  | 0x20 => 16
  | 0x21 => 8
  | 0x30 => 64
  | _ => 8

/-- The layout codes a box may have (R262). -/
def layKnown (l : Nat) : Bool :=
  [0x00, 0x01, 0x02, 0x03, 0x04, 0x08, 0x09, 0x0A, 0x10, 0x11, 0x12, 0x13, 0x14, 0x18, 0x19, 0x1A, 0x1B, 0x20, 0x21,
    0x30].contains l

def layFp6 (l : Nat) : Bool := decide (l = 0x12) || decide (l = 0x13) || decide (l = 0x1A)
def layFp4 (l : Nat) : Bool := decide (l = 0x14) || decide (l = 0x1B)
def layZmask (l : Nat) : Bool := decide (l = 0x20) || decide (l = 0x21)
def layScaled (l : Nat) : Bool := decide (0x18 ≤ l) && decide (l ≤ 0x1B)

/-- Elements of one ZMASK group (R169). -/
def layGroup (l : Nat) : Nat := if l = 0x20 then 256 else 512

/-- Elements one scale covers along a line (R265). -/
def layBlock (l : Nat) : Nat := if l = 0x18 then 128 else 32

/-- Line bytes LB for a declared extent (R264). -/
def lineBytes (l cap d0 : Nat) : Nat :=
  if layFp6 l then 3 * ((d0 + 3) / 4)
  else if layFp4 l then (d0 + 1) / 2
  else if layZmask l then d0 / layGroup l * cap
  else d0 * (layWidth l / 8)

/-- The smallest power of two that is at least `n`, found among 64, 128, …, 65,536. A larger one gets 65,536 (R264 does
not say; DESIGN CHOICE, log 105). -/
def pow2From (n : Nat) : Nat := ((List.range 11).map (fun i => 64 * 2 ^ i)).find? (fun p => decide (n ≤ p)) |>.getD 65536

/-- Line pitch LP (R264). -/
def pitch (l cap d0 : Nat) (dm : Bool) : Nat :=
  let lb := lineBytes l cap d0
  if layZmask l then (if cap = 0 then 0 else upTo lb cap)
  else if layFp6 l && dm then pow2From (max lb 64)
  else upTo lb 64

def BScope.inDev : BScope → Bool
  | .diemem | .devmem => true
  | _ => false

def Box.pitch (b : Box) : Nat := Machine.pitch b.layout b.cap b.decl.x0 b.scope.inDev

/-- Bytes of the data part (R267). -/
def Box.dataBytes (b : Box) : Nat := b.pitch * b.decl.x1 * b.decl.x2 * b.decl.x3

/-- Extents of the scale part of a layout (R265). -/
def scaleExt (l : Nat) (e : Quad Nat) : Quad Nat :=
  if l = 0x18 then ⟨e.x1, (e.x0 + 127) / 128, e.x2, e.x3⟩ else ⟨(e.x0 + 31) / 32, e.x1, e.x2, e.x3⟩

/-- Where the scale part starts (R265). -/
def Box.scaleBase (b : Box) : Nat :=
  let last := b.dataBytes
  b.base + upTo last (if b.scope.inDev then 65536 else 512)

/-- The scale part laid out as a box of its own (R265). -/
def Box.scaleBox (b : Box) : Box :=
  { b with
    layout := if b.layout = 0x18 then 0x08 else 0x00
    ext := scaleExt b.layout b.ext, decl := scaleExt b.layout b.decl, base := b.scaleBase
    rank := 4, cap := 0, view := none }

/-- Scale-part coordinates of a data element (R265). -/
def scaleCoord (l : Nat) (c : Quad Int) : Quad Int :=
  if l = 0x18 then ⟨c.x1, c.x0 / 128, c.x2, c.x3⟩ else ⟨c.x0 / 32, c.x1, c.x2, c.x3⟩

/-- All bytes of an allocation, scale part included (R267). -/
def Box.allocBytes (b : Box) : Nat :=
  if layScaled b.layout then b.scaleBase - b.base + b.scaleBox.dataBytes else b.dataBytes

/-- Coordinates in the box whose lines hold the bytes: a view maps to the parent's (R270, R293). -/
def Box.mapped (b : Box) (c : Quad Int) : Quad Int :=
  match b.view with
  | some h => Quad.ofFn fun i => h.org.get i + c.get i * h.step.get i
  | none => c

/-- Addr(box, c) (R264). -/
def Box.lineAddr (b : Box) (c : Quad Int) : Nat :=
  b.base + ((c.x3.toNat * b.decl.x2 + c.x2.toNat) * b.decl.x1 + c.x1.toNat) * b.pitch

def Box.off (b : Box) (c0 : Nat) : Nat :=
  if layFp6 b.layout then 3 * (c0 / 4)
  else if layFp4 b.layout then c0 / 2
  else if layZmask b.layout then c0 / layGroup b.layout * b.cap
  else c0 * (layWidth b.layout / 8)

def Box.addr (b : Box) (c : Quad Int) : Nat :=
  let c := b.mapped c
  b.lineAddr c + b.off c.x0.toNat

/-- Where the element at coordinates `c` stands (R16, R264). -/
def Box.loc (b : Box) (c : Quad Int) : Loc :=
  let c0 := (b.mapped c).x0.toNat
  if layFp6 b.layout then ⟨b.addr c, 3, 6 * (c0 % 4), 6⟩
  else if layFp4 b.layout then ⟨b.addr c, 1, 4 * (c0 % 2), 4⟩
  else ⟨b.addr c, layWidth b.layout / 8, 0, layWidth b.layout⟩

/-- InBox (R273). -/
def Box.has (b : Box) (c : Quad Int) : Bool :=
  (List.range 4).all fun i =>
    if i < b.rank then decide (0 ≤ c.get i) && decide (c.get i < (b.ext.get i : Int)) else decide (c.get i = 0)

/-- The element a location holds, and the bytes with it replaced. -/
def Loc.of (l : Loc) (bs : List Byte) : Nat := leNat bs / 2 ^ l.shift % 2 ^ l.width

def Loc.into (l : Loc) (bs : List Byte) (v : Nat) : List Byte :=
  let n := leNat bs
  let lo := n % 2 ^ l.shift
  let hi := n / 2 ^ (l.shift + l.width)
  leBytes l.bytes (lo + 2 ^ l.shift * (v % 2 ^ l.width) + 2 ^ (l.shift + l.width) * hi)

/-! ## Handles -/

/-- Signed origin and step of a handle (R48, R269). -/
def Desc.orgZ (d : Desc) (i : Nat) : Int := (d.org.get i).toInt
def Desc.stepZ (d : Desc) (i : Nat) : Int := ((d.step.get i).toNat : Int)
def Desc.extN (d : Desc) (i : Nat) : Nat := (d.ext.get i).toNat

/-- Box coordinates of region element `i` (R269). -/
def Desc.at (d : Desc) (i : Quad Int) : Quad Int := Quad.ofFn fun k => d.orgZ k + i.get k * d.stepZ k

/-- A handle a V, M or C word may name: valid, with a non-zero step below the rank (R49). -/
def Desc.usable (d : Desc) (rank : Nat) : Bool :=
  d.valid && (List.range 4).all fun i => decide (rank ≤ i) || decide (d.step.get i ≠ 0#8)

/-- The whole box of a slot as a handle (R128). -/
def Desc.whole (slot : Nat) (b : Box) (l : Label) : Desc :=
  { slot := BitVec.ofNat 4 slot, valid := true, lab := l, step := ⟨1, 1, 1, 1⟩, org := ⟨0, 0, 0, 0⟩
    ext := Quad.ofFn fun i => BitVec.ofNat 30 (if i < b.rank then b.ext.get i else 1) }

/-- The region's element indices in region order (R198). -/
def regionIx (e : Quad Nat) : List (Quad Int) :=
  (List.range e.x3).flatMap fun (i3 : Nat) => (List.range e.x2).flatMap fun (i2 : Nat) =>
    (List.range e.x1).flatMap fun (i1 : Nat) => (List.range e.x0).map fun (i0 : Nat) => ⟨(i0 : Int), (i1 : Int), (i2 : Int), (i3 : Int)⟩

def Desc.extQ (d : Desc) : Quad Nat := Quad.ofFn d.extN

/-- W0-W4 of a handle (R48). -/
def Desc.word (d : Desc) (w : Nat) : BitVec 64 :=
  let two (a b : BitVec 30) : Nat := a.toNat + 2 ^ 32 * b.toNat
  BitVec.ofNat 64 (match w with
    | 0 => d.slot.toNat + 16 * b2n d.valid + 256 * d.lab.toNat + 2 ^ 16 * d.step.x0.toNat + 2 ^ 24 * d.step.x1.toNat
            + 2 ^ 32 * d.step.x2.toNat + 2 ^ 40 * d.step.x3.toNat
    | 1 => two d.org.x0 d.org.x1
    | 2 => two d.org.x2 d.org.x3
    | 3 => two d.ext.x0 d.ext.x1
    | _ => two d.ext.x2 d.ext.x3)

/-! ## Paths and the sticky record -/

/-- Resolve (R271): through the hops to the root box, or the LOCAL box itself. -/
def resolvePath (p : List Hop) (c : Quad Int) : Quad Int :=
  match p with
  | [] => c
  | h :: r => resolvePath r (Quad.ofFn fun i => h.org.get i + c.get i * h.step.get i)

/-- The detail a record keeps (R272, R275). -/
def Box.detail (b : Box) (c : Quad Int) : BoxDet :=
  match b.root with
  | some r => ⟨1, r, resolvePath b.path c, c⟩
  | none => ⟨2, b.local_.2, ⟨0, 0, 0, 0⟩, c⟩

def kRead : Nat := 0
def kWrite : Nat := 1
def kPack : Nat := 2

/-- The BOXERR word of a record (R275). -/
def boxerrWord (kind lane slot cyc elem : Nat) : BitVec 64 :=
  BitVec.ofNat 64 (1 + 2 * kind + 8 * lane + 32 * slot + 2 ^ 9 * cyc + 2 ^ 41 * elem)

/-- Sticky (R7, R275): the first record stays. -/
def Unit.sticky (x : Unit) (kind lane slot cyc elem : Nat) (l : Label) (det : BoxDet) : Unit :=
  if x.vol.boxerr.getLsbD 0 then x
  else { x with vol := { x.vol with
      boxerr := boxerrWord kind lane slot cyc elem, boxerrL := x.vol.boxerrL ||| l, boxdet := det } }

/-- The record of an issuing word: made at its cycle, among the lanes in order (R274, R275). -/
def Unit.stickyNow (x : Unit) (kind lane ln slot elem : Nat) (l : Label) (det : BoxDet) : Unit :=
  if x.iss.timed then x.due x.iss.cyc phNow ln (.boxrec kind lane slot x.iss.cyc elem l det)
  else x.sticky kind lane slot 0xFFFFFFFF elem l det

/-- Lanes as a record codes them. -/
def lanS : Nat := 0
def lanV : Nat := 1
def lanM : Nat := 2
def lanC : Nat := 3

/-- Order of the lanes' records within a cycle (S, V, M, C). -/
def recLn (lane : Nat) : Nat := lane

/-! ## Regions and overlap -/

/-- A hop from a handle (R270). -/
def Desc.hop (d : Desc) : Hop := ⟨d.slot.toNat, Quad.ofFn d.orgZ, Quad.ofFn d.stepZ⟩

/-- Origin and step of a region resolved through a path (R271). -/
def resolveRegion (p : List Hop) (o st : Quad Int) : Quad Int × Quad Int :=
  match p with
  | [] => (o, st)
  | h :: r => resolveRegion r (Quad.ofFn fun i => h.org.get i + o.get i * h.step.get i)
      (Quad.ofFn fun i => st.get i * h.step.get i)

/-- A region as root or LOCAL identity, origin, step and extents (R272). -/
structure Region where
  root : Option Nat
  loc  : Nat × Nat
  org  : Quad Int
  step : Quad Int
  ext  : Quad Nat
  deriving DecidableEq, Repr, Inhabited

/-- A region of a box of a task, resolved to its root or LOCAL box (R271). -/
def Box.region (b : Box) (o st : Quad Int) (ext : Quad Nat) : Region :=
  let r := resolveRegion b.path o st
  ⟨b.root, if b.root.isSome then (0, 0) else b.local_, r.1, r.2, ext⟩

/-- The region of a handle over a box. -/
def regionOf (b : Box) (d : Desc) : Region := b.region d.hop.org d.hop.step d.extQ

/-- The region a child's box came from, in the same terms. -/
def regionOfBox (b : Box) (parent : Box) : Region :=
  match b.path with
  | h :: _ => parent.region h.org h.step b.ext
  | [] => default

/-- Two runs of one dimension meet. -/
def dimMeet (o1 s1 : Int) (n1 : Nat) (o2 s2 : Int) (n2 : Nat) : Bool :=
  if n1 = 0 || n2 = 0 then false
  else if s1 ≤ 0 then decide (o1 ≥ o2) && (if s2 ≤ 0 then decide (o1 = o2) else decide ((o1 - o2) % s2 = 0) && decide ((o1 - o2) / s2 < n2))
  else if s2 ≤ 0 then decide (o2 ≥ o1) && decide ((o2 - o1) % s1 = 0) && decide ((o2 - o1) / s1 < n1)
  else
    let lo := max o1 o2
    let hi := min (o1 + (n1 - 1) * s1) (o2 + (n2 - 1) * s2)
    let x0 := o1 + (lo - o1 + s1 - 1) / s1 * s1
    (List.range s2.toNat).any fun i =>
      let x := x0 + i * s1
      decide (x ≤ hi) && decide ((x - o2) % s2 = 0)

/-- Two regions share an element. -/
def Region.meets (a b : Region) : Bool :=
  decide (a.root = b.root) && decide (a.loc = b.loc) && (List.range 4).all fun i =>
    dimMeet (a.org.get i) (a.step.get i) (a.ext.get i) (b.org.get i) (b.step.get i) (b.ext.get i)

end Sys2Proof.Machine
end

