-- ==== Sys2Proof/Machine/Fst.lean ====
section
/-! DEFINITION. The transducer machine of the FST lanes: table images, steps, streams and chunks (spec 18, R337-R350). -/

namespace Sys2Proof.Machine

/-- An installed table (R338): entries, number of states, start state, label. -/
structure FstTab where
  ents  : List Word
  nst   : Nat
  start : Nat
  lab   : Label
  deriving DecidableEq, Repr, Inhabited

def fstOf (t : List Word × Nat × Nat × Label) : FstTab := ⟨t.1, t.2.1, t.2.2.1, t.2.2.2⟩

/-- TXSTREAM subcodes (R342). -/
def txTable : Nat := 1
def txNoprog : Nat := 2
def txCode : Nat := 3
def txBound : Nat := 4
def txOverflow : Nat := 5
def txIndex : Nat := 6

/-- 64-bit words of a byte list. -/
def wordsLE (n : Nat) (bs : List Byte) : List Word :=
  match n with
  | 0 => []
  | n + 1 => BitVec.ofNat 64 (leNat (bs.take 8)) :: wordsLE n (bs.drop 8)

/-- A table image checked and read (R338). -/
def fstImage (bs : List Byte) : Option (List Word × Nat × Nat) :=
  let h := leNat (bs.take 16)
  let nst := bits h 47 32
  let nent := bits h 63 48
  let start := bits h 73 64
  if bs.length < 16 then none
  else if bits h 31 0 ≠ 0x31545346 then none
  else if nst = 0 || nst > 1024 || nent < nst || nent > 4096 || start ≥ nst || bits h 127 74 ≠ 0 then none
  else if bs.length < 16 + 8 * nent then none
  else some (wordsLE nent (bs.drop 16), nst, start)

def FstTab.ent (t : FstTab) (i : Nat) : Nat := (t.ents.getD i 0#64).toNat

/-- Peek(p, w) (R341): bits past the end read as 0. -/
def fstPeek (bs : List Byte) (p w : Nat) : Nat :=
  leNat ((bs.drop (p / 8)).take 4) / 2 ^ (p % 8) % 2 ^ w

/-- The action a step reaches, through at most two dispatches, and the bits peeked on the way (R340, R341). -/
def fstAction (t : FstTab) (bs : List Byte) (p st : Nat) : Option Nat × Nat :=
  let disp (e : Nat) : Option (Nat × Nat) :=
    let w := bits e 61 58
    let b := bits e 57 46
    if w = 0 || w > 12 || bits e 45 0 ≠ 0 || b + 2 ^ w > t.ents.length then none else some (w, b)
  let e0 := t.ent st
  if bits e0 63 62 ≠ 2 then (some e0, 0)
  else match disp e0 with
    | none => (none, 0)
    | some (w1, b1) =>
      let e1 := t.ent (b1 + fstPeek bs p w1)
      if bits e1 63 62 ≠ 2 then (some e1, w1)
      else match disp e1 with
        | none => (none, w1)
        | some (w2, b2) =>
          if w1 + w2 > 16 then (none, w1)
          else
            let e2 := t.ent (b2 + fstPeek bs (p + w1) w2)
            if bits e2 63 62 = 2 then (none, w1 + w2) else (some e2, w1 + w2)

/-- Where one step leads. -/
inductive FstStep
  | err (sub : Nat)
  | go (out : List Byte) (p st : Nat)
  | stop (out : List Byte) (p : Nat)
  deriving DecidableEq, Repr

/-- One decoding step (R341). -/
def fstStep (t : FstTab) (bs : List Byte) (p st : Nat) : FstStep :=
  match (fstAction t bs p st).1 with
  | none => .err txTable
  | some e =>
    let next := bits e 61 52
    let cons := bits e 51 47
    let nemit := bits e 46 43
    let fin := e.testBit 42
    let resync := e.testBit 41
    let err := e.testBit 40
    let pool := e.testBit 39
    let bad := decide (bits e 63 62 ≠ 1) || decide (cons > 16) || decide (nemit > 8) || decide (bits e 38 32 ≠ 0)
      || decide (next ≥ t.nst)
      || (if pool then decide (bits e 19 0 ≠ 0) else decide (nemit > 4) || decide (bits e 31 0 ≥ 2 ^ (8 * nemit)))
      || (decide (cons = 0) && decide (nemit = 0) && !fin && !err)
    if bad then .err txTable
    else if err then .err txCode
    else if p + cons > 8 * bs.length then .err txBound
    else
      let src := if pool then t.ent (bits e 31 20) else bits e 31 0
      let out := (leBytes 8 src).take nemit
      let p1 := p + cons
      let p2 := if resync then (p1 + 7) / 8 * 8 else p1
      if fin then .stop out p2 else .go out p2 next

/-- Bits of the input a step has read when it ends: peeked or consumed (R341). -/
def fstReach (t : FstTab) (bs : List Byte) (p st : Nat) : Nat :=
  match fstStep t bs p st with
  | .go _ p2 _ | .stop _ p2 => max (p + (fstAction t bs p st).2) p2
  | .err _ => p + (fstAction t bs p st).2

/-- A stream decoded: the bytes emitted and how it ended (none: by END or, for a chunk, at its limit). -/
def fstRun (t : FstTab) (bs : List Byte) (limit : Nat) (chunk : Bool) (fuel : Nat) (p st : Nat) (acc : List Byte) :
    List Byte × Option Nat :=
  match fuel with
  | 0 => (acc, none)
  | fuel + 1 =>
    if chunk && decide (acc.length ≥ limit) then (acc, none)
    else match fstStep t bs p st with
      | .err sub => (acc, some sub)
      | .stop out _ =>
        let all := acc ++ out
        if all.length > limit then (all.take limit, some txOverflow) else (all, none)
      | .go out p2 st2 =>
        let all := acc ++ out
        if all.length > limit then (all.take limit, some txOverflow)
        else fstRun t bs limit chunk fuel p2 st2 all

/-- A decode on request (R349) from a restart point: emitted bytes, input bit and state (R350). -/
def fstDecode (t : FstTab) (input : List Byte) (limit : Nat) (m : Nat × Nat × Nat) (kept : List Byte) :
    List Byte × Option Nat :=
  fstRun t input limit false (8 * input.length + limit + 2) m.2.1 m.2.2 (kept.take m.1)

/-- The restart points a decode passes: one at every 4,096 emitted bytes (R350). -/
def fstMarks (t : FstTab) (bs : List Byte) (limit fuel p st n k : Nat) : List (Nat × Nat × Nat) :=
  match fuel with
  | 0 => []
  | fuel + 1 =>
    let here : List (Nat × Nat × Nat) := if n ≥ 4096 * k then [(n, p, st)] else []
    let k := if n ≥ 4096 * k then n / 4096 + 1 else k
    match fstStep t bs p st with
    | .go out p2 st2 => if n + out.length > limit then here else here ++ fstMarks t bs limit fuel p2 st2 (n + out.length) k
    | _ => here

/-- Bits of the input that a chunk's decode reads (R348). -/
def fstTouched (t : FstTab) (bs : List Byte) (limit fuel p st n m : Nat) : Nat :=
  match fuel with
  | 0 => m
  | fuel + 1 =>
    if n ≥ limit then m
    else
      let m := max m (fstReach t bs p st)
      match fstStep t bs p st with
      | .go out p2 st2 => fstTouched t bs limit fuel p2 st2 (n + out.length) m
      | _ => m

/-- A chunk index entry's decode starts inside the frames, in a state of the table (R344). -/
def fstIndexOk (t : FstTab) (size e : Nat) : Bool :=
  decide (bits e 33 0 < 8 * size) && decide (bits e 43 34 < t.nst) && decide (bits e 62 44 = 0)

/-- A chunk whose index entry is `e` decoded from the frames at and after the byte that holds its OFFSET (R344, R345): the
bytes, how it ended, and how many bytes of that input were read. -/
def fstChunk (t : FstTab) (e : Nat) (bs : List Byte) : List Byte × Option Nat × Nat :=
  let off := bits e 33 0 % 8
  let st := bits e 43 34
  let fuel := 8 * bs.length + 4098
  let r := fstRun t bs 4096 true fuel off st []
  (r.1 ++ List.replicate (4096 - r.1.length) 0#8, r.2, min bs.length ((fstTouched t bs 4096 fuel off st 0 off + 7) / 8))

end Sys2Proof.Machine
end

