-- ==== Sys2Proof/Machine/Num.lean ====
section
/-! DEFINITION. Number formats, the one rounding procedure and exact sums (spec 01, R11-R36). A value is an extended
real held exactly: a sign, an integer significand and a power of two; a result that is no dyadic number (a quotient, a
root, a special function) is held by its leading bits and a sticky mark. -/

namespace Sys2Proof.Machine

/-- A floating-point format (R11): exponent and fraction widths, bias, infinities, NaNs. -/
structure FP where
  ew  : Nat
  mw  : Nat
  bias : Nat
  inf : Bool
  nan : Bool
  deriving DecidableEq, Repr, Inhabited

def FP.f64 : FP := ⟨11, 52, 1023, true, true⟩
def FP.f32 : FP := ⟨8, 23, 127, true, true⟩
def FP.f16 : FP := ⟨5, 10, 15, true, true⟩
def FP.bf16 : FP := ⟨8, 7, 127, true, true⟩
def FP.e5m2 : FP := ⟨5, 2, 15, true, true⟩
def FP.e4m3 : FP := ⟨4, 3, 7, false, true⟩
def FP.e3m2 : FP := ⟨3, 2, 3, false, false⟩
def FP.e2m3 : FP := ⟨2, 3, 1, false, false⟩
def FP.e2m1 : FP := ⟨2, 1, 1, false, false⟩

/-- Width of an element in bits. -/
def FP.width (f : FP) : Nat := 1 + f.ew + f.mw

/-- Exponent of the smallest normal number (R20). -/
def FP.emin (f : FP) : Int := 1 - (f.bias : Int)

/-- The sign bit of a pattern. -/
def FP.signBit (f : FP) : Nat := 2 ^ (f.ew + f.mw)

/-- The pattern of the largest finite magnitude (R13). -/
def FP.maxPat (f : FP) : Nat :=
  if f.inf then (2 ^ f.ew - 1) * 2 ^ f.mw - 1
  else if f.nan then 2 ^ (f.ew + f.mw) - 2
  else 2 ^ (f.ew + f.mw) - 1

/-- The canonical NaN (R13); a format without NaN has none and answers +0 (R32). -/
def FP.nanPat (f : FP) : Nat :=
  if f.inf then (2 ^ f.ew - 1) * 2 ^ f.mw + 2 ^ (f.mw - 1)
  else if f.nan then 2 ^ (f.ew + f.mw) - 1
  else 0

/-- The pattern of +infinity, in a format that has one. -/
def FP.infPat (f : FP) : Nat := (2 ^ f.ew - 1) * 2 ^ f.mw

/-- An exact extended real. `fin s m e` is (-1)^s · m · 2^e; a zero keeps its sign. -/
inductive XVal
  | nan
  | inf (s : Bool)
  | fin (s : Bool) (m : Nat) (e : Int)
  deriving DecidableEq, Repr, Inhabited

/-- The value of a pattern (R12). -/
def FP.decode (f : FP) (n : Nat) : XVal :=
  let s := decide (n / f.signBit % 2 = 1)
  let e := n / 2 ^ f.mw % 2 ^ f.ew
  let m := n % 2 ^ f.mw
  if f.inf && decide (e = 2 ^ f.ew - 1) then (if m = 0 then .inf s else .nan)
  else if !f.inf && f.nan && decide (e = 2 ^ f.ew - 1) && decide (m = 2 ^ f.mw - 1) then .nan
  else if e = 0 then .fin s m (1 - (f.bias : Int) - f.mw)
  else .fin s (2 ^ f.mw + m) ((e : Int) - f.bias - f.mw)

/-- `true` for a zero of either sign. -/
def XVal.isZero : XVal → Bool
  | .fin _ m _ => m == 0
  | _ => false

def XVal.isNan : XVal → Bool
  | .nan => true
  | _ => false

def XVal.isInf : XVal → Bool
  | .inf _ => true
  | _ => false

def XVal.sign : XVal → Bool
  | .nan => false
  | .inf s => s
  | .fin s _ _ => s

def XVal.neg : XVal → XVal
  | .nan => .nan
  | .inf s => .inf (!s)
  | .fin s m e => .fin (!s) m e

def XVal.abs : XVal → XVal
  | .nan => .nan
  | .inf _ => .inf false
  | .fin _ m e => .fin false m e

/-- The exact product; 0 × ∞ is a NaN (R26); the sign of a zero product is the exclusive or (R22). -/
def XVal.mul (a b : XVal) : XVal :=
  match a, b with
  | .nan, _ => .nan
  | _, .nan => .nan
  | .inf s, .inf t => .inf (s ^^ t)
  | .inf s, .fin t m _ => if m = 0 then .nan else .inf (s ^^ t)
  | .fin s m _, .inf t => if m = 0 then .nan else .inf (s ^^ t)
  | .fin s m e, .fin t n g => .fin (s ^^ t) (m * n) (e + g)

/-- Scaling by a power of two, exactly (R28). -/
def XVal.scale (a : XVal) (k : Int) : XVal :=
  match a with
  | .fin s m e => .fin s m (e + k)
  | a => a

/-- The numerator of a finite value over 2^`g`, for `g` no greater than its exponent. -/
def XVal.num (a : XVal) (g : Int) : Int :=
  match a with
  | .fin s m e => (if s then -1 else 1) * ((m <<< (e - g).toNat : Nat) : Int)
  | _ => 0

/-- Rounding modes and what they need beside the value: RSR carries the 24-bit value it draws (R23). -/
def zeroNeg (rm : RMode) : Bool := decide (rm = .rdn)

/-- The exact sum of a list, rounded nowhere (R26); a zero takes its sign by R22 in mode `rm`. -/
def XVal.sum (rm : RMode) (l : List XVal) : XVal :=
  if l.any XVal.isNan then .nan
  else
    let p := l.any (fun x => x.isInf && !x.sign)
    let n := l.any (fun x => x.isInf && x.sign)
    if p && n then .nan
    else if p then .inf false
    else if n then .inf true
    else
      let g := l.foldl (fun (g : Int) x => match x with | .fin _ _ e => min g e | _ => g) 0
      let t := l.foldl (fun (t : Int) x => t + x.num g) 0
      if t = 0 then
        if l.all (fun x => x.isZero) && l.all (fun x => x.sign) then .fin true 0 0
        else if l.all (fun x => x.isZero) && l.all (fun x => !x.sign) then .fin false 0 0
        else .fin (zeroNeg rm) 0 0
      else .fin (decide (t < 0)) t.natAbs g

/-- The five flags of R25. -/
abbrev Flags := BitVec 5

def flInexact : Flags := 1#5
def flUnderflow : Flags := 2#5
def flOverflow : Flags := 4#5
def flDivzero : Flags := 8#5
def flInvalid : Flags := 16#5

/-- A rounded result: pattern and flags. -/
structure Rnd where
  pat : Nat
  fl  : Flags
  deriving DecidableEq, Repr, Inhabited

/-- The pattern `n` with the sign `s`. -/
def FP.withSign (f : FP) (s : Bool) (n : Nat) : Nat := if s then f.signBit + n else n

/-- Overflow of a finite value (R21). -/
def FP.overflow (f : FP) (s : Bool) (rm : RMode) (sat : Bool) : Nat :=
  let mx := f.withSign s f.maxPat
  let big := if f.inf then f.withSign s f.infPat else if f.nan then f.nanPat else mx
  if sat then mx
  else match rm with
    | .rne | .rsr => big
    | .rtz => mx
    | .rup => if s then mx else big
    | .rdn => if s then big else mx

/-- Whether rounding takes the upper neighbour: `k` the lower one in units of the quantum, the remainder `r` of `2^sh`
with `st` for a non-zero tail below it, `v` the 24-bit draw of RSR (R20, R23). -/
def roundUp (rm : RMode) (s : Bool) (k r sh : Nat) (st : Bool) (v : Nat) : Bool :=
  match rm with
  | .rne =>
    let h := 2 * r
    decide (h > 2 ^ sh) || (decide (h = 2 ^ sh) && (st || decide (k % 2 = 1)))
  | .rtz => false
  | .rup => !s
  | .rdn => s
  | .rsr => decide (v < r * 2 ^ 24 / 2 ^ sh)

/-- The rounding of a finite non-zero value (-1)^s · (m + tail) · 2^e, the tail in [0, 1) and non-zero when `st` (R20). -/
def FP.roundFin (f : FP) (rm : RMode) (sat : Bool) (v : Nat) (s : Bool) (m : Nat) (e : Int) (st : Bool) : Rnd :=
  let top : Int := (Nat.log2 m : Int) + e
  let ex : Int := max top f.emin
  let qe : Int := ex - f.mw
  let sh : Nat := (qe - e).toNat
  let m' : Nat := m <<< (e - qe).toNat
  let k := m' >>> sh
  let r := m' % 2 ^ sh
  let exact := decide (r = 0) && !st
  let k' := if exact then k else if roundUp rm s k r sh st v then k + 1 else k
  -- the pattern of k' quanta at exponent ex: exponent field and fraction run on from one another
  let pat := ((ex + f.bias - 1).toNat) * 2 ^ f.mw + k'
  let small := decide (top < f.emin)
  if pat > f.maxPat then
    ⟨f.overflow s rm sat, flInexact ||| flOverflow⟩
  else
    ⟨f.withSign s pat,
      if exact then 0#5 else if small then flInexact ||| flUnderflow else flInexact⟩

/-- Round (R20), with the conversion results of R32 for formats without infinities or NaNs. `sat` asks for
saturation. -/
def FP.round (f : FP) (rm : RMode) (sat : Bool) (v : Nat) (x : XVal) : Rnd :=
  match x with
  | .nan => if f.nan then ⟨f.nanPat, 0#5⟩ else ⟨0, flInvalid⟩
  | .inf s =>
    if f.inf then (if sat then ⟨f.withSign s f.maxPat, flOverflow⟩ else ⟨f.withSign s f.infPat, 0#5⟩)
    else if f.nan && !sat then ⟨f.nanPat, flInvalid⟩
    else ⟨f.withSign s f.maxPat, flOverflow⟩
  | .fin s m e =>
    if m = 0 then ⟨f.withSign s 0, 0#5⟩
    else f.roundFin rm (sat || !f.nan) v s m e false

/-- Rounding onto the integers of a `w`-bit range (R33). -/
def roundInt (rm : RMode) (lo hi : Int) (x : XVal) : Int × Flags :=
  match x with
  | .nan => (0, flInvalid)
  | .inf s => (if s then lo else hi, flInvalid)
  | .fin s m e =>
    let sh := (-e).toNat
    let m' := m <<< e.toNat
    let k := m' >>> sh
    let r := m' % 2 ^ sh
    let exact := decide (r = 0)
    let mode := if rm = .rsr then .rne else rm
    let k' := if exact then k else if roundUp mode s k r sh false 0 then k + 1 else k
    let z : Int := if s then -(k' : Int) else k'
    if z < lo then (lo, flInvalid) else if z > hi then (hi, flInvalid)
    else (z, if exact then 0#5 else flInexact)

/-- An integer as an exact value; zero is +0. -/
def XVal.ofInt (z : Int) : XVal := .fin (decide (z < 0)) z.natAbs 0

/-- The floor of the square root of `n`, by bits: `b` bits of root, from the top. -/
def isqrtAux (n : Nat) (b : Nat) (r : Nat) : Nat :=
  match b with
  | 0 => r
  | b + 1 => let t := r + 2 ^ b; isqrtAux n b (if t * t ≤ n then t else r)

def isqrt (n : Nat) : Nat := isqrtAux n (Nat.log2 n / 2 + 1) 0

/-- A value to be rounded that need not be dyadic: an exact one, or leading bits with a non-zero tail. -/
inductive XReal
  | ex (x : XVal)
  | tail (s : Bool) (m : Nat) (e : Int)
  deriving DecidableEq, Repr, Inhabited

/-- Scaling of such a value by a power of two. -/
def XReal.scale (x : XReal) (k : Int) : XReal :=
  match x with
  | .ex a => .ex (a.scale k)
  | .tail s m e => .tail s m (e + k)

/-- Round for such a value. -/
def FP.roundReal (f : FP) (rm : RMode) (sat : Bool) (v : Nat) (x : XReal) : Rnd :=
  match x with
  | .ex a => f.round rm sat v a
  | .tail s m e => f.roundFin rm (sat || !f.nan) v s m e true

/-- The quotient (R35 for its special operands); DIVZERO and INVALID beside it. -/
def divReal (a b : XVal) : XReal × Flags :=
  match a, b with
  | .nan, _ => (.ex .nan, 0#5)
  | _, .nan => (.ex .nan, 0#5)
  | .inf _, .inf _ => (.ex .nan, flInvalid)
  | .inf s, .fin t _ _ => (.ex (.inf (s ^^ t)), 0#5)
  | .fin s _ _, .inf t => (.ex (.fin (s ^^ t) 0 0), 0#5)
  | .fin s m e, .fin t n g =>
    if n = 0 then (if m = 0 then (.ex .nan, flInvalid) else (.ex (.inf (s ^^ t)), flDivzero))
    else if m = 0 then (.ex (.fin (s ^^ t) 0 0), 0#5)
    else
      let k := 128 + Nat.log2 n
      let q := (m <<< k) / n
      if (m <<< k) % n = 0 then (.ex (.fin (s ^^ t) q (e - g - k)), 0#5)
      else (.tail (s ^^ t) q (e - g - k), 0#5)

/-- The square root (R35). -/
def sqrtReal (a : XVal) : XReal × Flags :=
  match a with
  | .nan => (.ex .nan, 0#5)
  | .inf s => if s then (.ex .nan, flInvalid) else (.ex (.inf false), 0#5)
  | .fin s m e =>
    if m = 0 then (.ex (.fin s 0 0), 0#5)
    else if s then (.ex .nan, flInvalid)
    else
      let odd := (e % 2).toNat
      let n := m <<< (256 + odd)
      let r := isqrt n
      let g := (e - odd) / 2 - 128
      if r * r = n then (.ex (.fin false r g), 0#5) else (.tail false r g, 0#5)

/-- The reciprocal square root (R35). -/
def rsqrtReal (a : XVal) : XReal × Flags :=
  match a with
  | .nan => (.ex .nan, 0#5)
  | .inf s => if s then (.ex .nan, flInvalid) else (.ex (.fin false 0 0), 0#5)
  | .fin s m e =>
    if m = 0 then (.ex (.inf s), flDivzero)
    else if s then (.ex .nan, flInvalid)
    else
      -- floor(sqrt(2^(2k) / x)) with x = m·2^e made even
      let odd := (e % 2).toNat
      let m' := m <<< odd
      let k := 160 + Nat.log2 m'
      let n := 2 ^ (2 * k) / m'
      let r := isqrt n
      let g : Int := -((e - odd) / 2) - k
      if r * r * m' = 2 ^ (2 * k) then (.ex (.fin false r g), 0#5) else (.tail false r g, 0#5)

/-- Comparison of two finite or infinite values as reals: negative, zero or positive difference (R34: zeros equal). -/
def XVal.cmp (a b : XVal) : Int :=
  match a, b with
  | .nan, _ => 0
  | _, .nan => 0
  | .inf s, .inf t => if s = t then 0 else if s then -1 else 1
  | .inf s, .fin _ _ _ => if s then -1 else 1
  | .fin _ _ _, .inf t => if t then 1 else -1
  | .fin s m e, .fin t n g =>
    let h := min e g
    Int.sign ((XVal.fin s m e).num h - (XVal.fin t n g).num h)

/-- A floating-point comparison (R34, R148): unordered operands give false, but for `ne` and `uo`. -/
def fcond (cc : FCond) (a b : XVal) : Bool :=
  let u := a.isNan || b.isNan
  match cc with
  | .eq => !u && decide (a.cmp b = 0)
  | .ne => u || decide (a.cmp b ≠ 0)
  | .lt => !u && decide (a.cmp b < 0)
  | .le => !u && decide (a.cmp b ≤ 0)
  | .gt => !u && decide (a.cmp b > 0)
  | .ge => !u && decide (a.cmp b ≥ 0)
  | .uo => u

/-- Minimum and maximum (R34): −0 below +0, a NaN gives a NaN. -/
def XVal.lt0 (a b : XVal) : Bool :=
  decide (a.cmp b < 0) || (decide (a.cmp b = 0) && a.sign && !b.sign)

def XVal.fmin (a b : XVal) : XVal := if a.isNan || b.isNan then .nan else if b.lt0 a then b else a
def XVal.fmax (a b : XVal) : XVal := if a.isNan || b.isNan then .nan else if a.lt0 b then b else a

/-- An integer comparison over `w` bits (R118, R158). -/
def icond (cc : ICond) (w a b : Nat) : Bool :=
  match cc with
  | .eq => decide (a = b)
  | .ne => decide (a ≠ b)
  | .lts => decide (signed w a < signed w b)
  | .les => decide (signed w a ≤ signed w b)
  | .gts => decide (signed w a > signed w b)
  | .ges => decide (signed w a ≥ signed w b)
  | .ltu => decide (a < b)
  | .leu => decide (a ≤ b)
  | .gtu => decide (a > b)
  | .geu => decide (a ≥ b)

/-- One draw of a stochastic generator (R23): the next state and its 24-bit value. -/
def genStep (g : BitVec 32) : BitVec 32 × Nat :=
  let g := g ^^^ (g <<< 13)
  let g := g ^^^ (g >>> 17)
  let g := g ^^^ (g <<< 5)
  (g, g.toNat / 256)

end Sys2Proof.Machine
end

