-- ==== Sys2Proof/Machine/Memory.lean ====
section
/-! DEFINITION. Device memory and what stands before it: page tables, walks and TLBs (spec 17, R313-R323), the UN read
cache (R327), significance-aware protection and its log (spec 21, R388-R400), and the named reads and writes that every
agent outside a core's timing domain uses. -/

namespace Sys2Proof.Machine

/-! ## Page tables -/

/-- What a walk finds (R314-R317, R320, R379, R393): a leaf with its page, an entry that is not present, a fault, or that it
waits at a circuit that carries no packets. -/
inductive Walk
  | leaf (p : Pte) (page : Nat)
  | absent (va : Nat)
  | bad (code sub : Nat)
  | wait
  deriving DecidableEq, Repr, Inhabited

/-- Bytes of one die's memory (R316). -/
def dieBytes : Nat := 96000000000

/-- Whether a device physical range exists and lies on a live die (R316, R317). -/
def State.physOk (s : State) (a n : Nat) : Bool :=
  decide (a < 2 ^ 40) && decide (a % 2 ^ 37 + n ≤ dieBytes) && s.dieLive (a / 2 ^ 37)

/-- Feature bit `i` of EN0 (R423). -/
def State.feature (s : State) (i : Nat) : Bool := s.pwr.en0.getLsbD i

/-- The port of a VF, when it is enabled (R369, R371). -/
def State.vfPort (s : State) (fn : Nat) : Option Nat :=
  let v := (s.fns.get fn).vftab
  if v.getLsbD 0 then some (b2n (v.getLsbD 1)) else none

/-- A leaf's fields (R315). -/
def pteOf (e : Nat) : Pte :=
  { r := e.testBit 2, w := e.testBit 3, at_ := e.testBit 4, kind := bits e 6 5, size := bits e 8 7, tx := e.testBit 9
    layout := bits e 17 10, pol := bits e 19 18, lab := BitVec.ofNat 8 (bits e 27 20), prog := bits e 35 28
    tgt := bits e 37 36, port := bits e 42 38, addr := bits e 115 64 }

def pageBytes (size : Nat) : Nat := if size = 0 then 2 ^ 16 else if size = 1 then 2 ^ 21 else 2 ^ 30

/-- The checks of R317 (and R369, R423) on a leaf found at `lvl`; none when it stands. -/
def State.leafBad (s : State) (fn lvl e : Nat) : Option Nat :=
  let p := pteOf e
  if bits e 63 43 ≠ 0 || bits e 127 116 ≠ 0 || p.kind = 3 || p.size = 3 || p.tgt = 3 then some 2
  else if lvl = 0 || p.size + lvl ≠ 3 then some 2
  else if p.addr % pageBytes p.size ≠ 0 then some 2
  else if p.tx && (p.tgt ≠ 0 || p.w || p.at_) then some 2
  else if p.at_ && p.tgt = 1 then some 2
  else if !p.tx && p.prog ≠ 0 then some 2
  else if p.tx && !s.feature 3 then some 2
  else if p.tgt = 0 && !s.physOk p.addr 1 then some 3
  else if p.tgt = 1 && (p.port > 1 || (fn ≠ 0 && s.vfPort fn ≠ some p.port)) then some 3
  else if p.tgt = 2 && !s.feature 8 then some 3
  else none

/-- Kinds of access (R321, R322). -/
inductive AccK | rd | wr | atom
  deriving DecidableEq, Repr, Inhabited

def AccK.code : AccK → Nat
  | .rd => 0
  | .wr => 1
  | .atom => 2

/-- Permission (R322). -/
def Pte.allows (p : Pte) (k : AccK) : Bool :=
  match k with
  | .rd => p.r
  | .wr => p.w && !p.tx
  | .atom => p.r && p.w && p.at_ && !p.tx

/-! ## Protection -/

/-- A protection map (R390): class B and class C bits of an element, elements per parity group, check bits of classes A
and B; none where all is class A. -/
structure PMap where
  fp    : FP
  bmask : Nat
  cmask : Nat
  grp   : Nat
  chkA  : Nat
  chkB  : Nat
  deriving DecidableEq, Repr, Inhabited

def pmap (l : Nat) : Option PMap :=
  match l with
  | 0x08 => some ⟨.f32, 0x7F0000, 0xFFFF, 1, 25, 8⟩
  | 0x09 => some ⟨.bf16, 0x78, 0x7, 2, 28, 9⟩
  | 0x0A => some ⟨.f16, 0x3E0, 0x1F, 2, 25, 9⟩
  | 0x10 | 0x18 | 0x19 => some ⟨.e4m3, 0x4, 0x3, 4, 28, 8⟩
  | 0x11 => some ⟨.e5m2, 0x2, 0x1, 4, 28, 8⟩
  | 0x12 | 0x1A => some ⟨.e3m2, 0x2, 0x1, 0, 28, 9⟩
  | 0x13 => some ⟨.e2m3, 0x6, 0x1, 0, 28, 9⟩
  | 0x14 | 0x1B => some ⟨.e2m1, 0x1, 0x0, 0, 28, 9⟩
  | _ => none

/-- The protection code a PTE's LAYOUT stands for (R390): an unlisted code acts as 0x00. -/
def pcode (l : Nat) : Nat := if layKnown l || l = 0x1C || l = 0x1D then l else 0

/-- Severity of an uncorrectable error of class `cls` (0 A, 1 B, 2 C) under a protection code (R393). -/
def severity (l cls : Nat) : Nat :=
  let l := pcode l
  if l = 0x1C || l = 0x1D then 4
  else match pmap l with
    | some _ => if cls = 2 then 1 else if cls = 1 then 2 else 3
    | none => if l = 0x00 || l = 0x20 || l = 0x21 || l = 0x30 then 5 else 3

/-- Actions (R394). -/
def acAccept : Nat := 0
def acPoison : Nat := 1
def acCancel : Nat := 2
def acHalt : Nat := 3

/-- The action made permissible (R395). -/
def actionOf (pol : BitVec 64) (row sev : Nat) : Nat :=
  let a := bits pol.toNat (16 * row + 2 * (sev - 1) + 1) (16 * row + 2 * (sev - 1))
  let a := if a = acAccept && decide (sev ≥ 3) then acPoison else a
  if a = acPoison && sev = 5 then acCancel else a

/-- An error log record (R400). -/
def errRecord (s : State) (ctx : Ctx) (sev act : Nat) (flags : Nat) (layout cls : Nat) (pol addr ncorr : Nat) :
    List Byte :=
  let (ag, un) : Nat × Nat := match ctx.agent with
    | .clane u => (0, u) | .fst n => (1, n) | .seq u => (2, u - 384) | .cp _ => (3, 0) | .sched _ => (4, 0)
    | .hostp p => (5, p) | .peerp p => (6, p) | .scrub => (7, 0) | .lane u => (8, u)
  leBytes 8 s.devtime.toNat ++ leBytes 1 (sev + 8 * act + flags) ++ leBytes 1 layout ++ leBytes 1 cls ++ leBytes 1 pol
  ++ leBytes 2 ctx.asid ++ leBytes 1 ncorr ++ leBytes 1 0 ++ leBytes 8 addr
  ++ leBytes 4 (ag + 16 * un + 2 ^ 17 * (ctx.die % 8)) ++ leBytes 4 ctx.taskid

/-- Bits of a byte list changed. -/
def flipBits (bs : List Byte) (js : List Nat) : List Byte :=
  leBytes bs.length (js.foldl (fun n j => n ^^^ 2 ^ j) (leNat bs))

/-- The bits of a written byte that a mask names taken from `new`, the others from `old`; an empty mask names all. -/
def overlay (old new mask : List Byte) : List Byte :=
  if mask.isEmpty then new
  else List.zipWith (fun (a : Byte) (b : Byte × Byte) => (a &&& ~~~b.2) ||| (b.1 &&& b.2)) old (List.zip new mask)

/-- Lines of a box that lie in a page (R264, R389): where their bytes start in memory and how many there are, the bytes of
the box before them, pitch and line bytes. -/
structure Lines where
  at_  : Nat
  len  : Nat
  skip : Nat
  lp   : Nat
  lb   : Nat
  deriving DecidableEq, Repr, Inhabited

/-- Offset in its line and line bytes LB of a byte of device memory: of the box whose lines lie there, and a free value
where no box is known (DESIGN CHOICE, log 64). -/
def lineOf (ls : List Lines) (a : Nat) : Nat × Nat :=
  match ls.find? fun l => decide (l.at_ ≤ a) && decide (a < l.at_ + l.len) with
  | some l => ((l.skip + (a - l.at_)) % l.lp, l.lb)
  | none => Config.lineAt a

/-- The lines of a box's data part that lie in a page, given where the box is, its layout, capacity and extents. -/
def linesIn (p : Pte) (page : Nat) (b : Nat × Nat × Nat × Quad Nat) : Option Lines :=
  let (base, lay, cap, e) := b
  let lp := pitch lay cap e.x0 true
  let lo := max base page
  let hi := min (base + lp * e.x1 * e.x2 * e.x3) (page + pageBytes p.size)
  if lay = p.layout && decide (lo < hi) then some ⟨p.addr + (lo - page), hi - lo, lo - base, lp, lineBytes lay cap e.x0⟩ else none

/-- Boxes of an address space in device memory, the roots of its launches and the boxes of their tasks: base, layout, capacity and
extents. -/
def State.boxesOf (s : State) (asid : Nat) : List (Nat × Nat × Nat × Quad Nat) :=
  let ls := s.launches.filter fun e => e.2.live && decide (e.2.asid = asid)
  (ls.flatMap fun e => e.2.roots.map fun r => (r.base, r.layout, r.cap, r.ext))
  ++ (s.tasks.filter fun e => ls.any fun l => l.1 = e.2.lid).flatMap fun e =>
    (e.2.boxes.filter fun b => b.2.present && b.2.scope.inDev).map fun b => (b.2.base, b.2.layout, b.2.cap, b.2.decl)

/-- The lines that lie in a page of an address space, as its boxes place them (R264, R389); they matter only where cells
fail. -/
def State.linesOf (s : State) (asid : Nat) (p : Pte) (page : Nat) : List Lines :=
  if s.cells.isEmpty then [] else (s.boxesOf asid).filterMap (linesIn p page)

/-- The bit of its element that bit `j` of a sector is (R16, R264, R389); none where no element lies. An FP6 element's
place follows from the line, the others' from the address. -/
def PMap.bitOf (m : PMap) (ls : List Lines) (sector j : Nat) : Option Nat :=
  let (off, lb) := lineOf ls (sector + j / 8)
  if off ≥ lb then none
  else if m.fp.width = 6 then some ((8 * off + j % 8) % 6) else some (j % m.fp.width)

/-- The class of bit `j` of a sector, data or check bit (R388-R390): 0 A, 1 B, 2 C. -/
def PMap.cls (m : PMap) (ls : List Lines) (sector j : Nat) : Nat :=
  if j ≥ 512 then (if j < 512 + m.chkA then 0 else if j < 512 + m.chkA + m.chkB then 1 else 2)
  else match m.bitOf ls sector j with
    | some b => if m.cmask.testBit b then 2 else if m.bmask.testBit b then 1 else 0
    | none => 0

/-- The class C parity group of a bit (R390). -/
def PMap.group (m : PMap) (j : Nat) : Nat :=
  if j ≥ 512 then j - 512 - m.chkA - m.chkB else j / (m.grp * m.fp.width)

/-- The bits of a sector that its cells hold wrong (R391): a damaged cell is wrong where the stored bit differs. -/
def State.flips (s : State) (sector : Nat) : List Nat :=
  uniq ((s.cells.filter fun c => decide (c.sector = sector)).flatMap fun c =>
    c.bits.filter fun j => decide (j < 573) && (match c.kind with
      | .stuck v => decide (j ≥ 512) || (Tab.get s.dev (sector + j / 8)).getLsbD (j % 8) != v
      | _ => true))

/-- What the check bits say of a sector (R391): bits corrected, which they are and their classes as the log names them,
uncorrectable classes A and B, failing class C groups, and the data bits that stay wrong. -/
structure Exam where
  corr  : Nat
  fixed : List Nat
  corrC : Nat
  badA  : Bool
  badB  : Bool
  grps  : List Nat
  wrong : List Nat
  deriving DecidableEq, Repr, Inhabited

/-- One code's verdict on its wrong bits (R391): bits corrected, whether it fails, bits that stay wrong. -/
def codeSays (sector t : Nat) (js : List Nat) : Nat × Bool × List Nat :=
  if js.length ≤ t then (js.length, false, [])
  else if js.length = t + 1 then (0, true, js)
  else match Config.beyond sector js with
    | none => (0, true, js)
    | some w => (0, false, w)

/-- A sector examined under a protection code (R391), `ls` the lines that lie there. -/
def examine (l sector : Nat) (fl : List Nat) (ls : List Lines := []) : Exam :=
  match pmap (pcode l) with
  | none =>
    let (n, bad, w) := codeSays sector 6 fl
    ⟨n, if n = 0 then [] else fl, if n = 0 then 0 else 1, bad, false, [], w.filter fun j => decide (j < 512)⟩
  | some m =>
    let is (c : Nat) : List Nat := fl.filter fun j => decide (m.cls ls sector j = c)
    let (na, badA, wa) := codeSays sector 3 (is 0)
    let (nb, badB, wb) := codeSays sector 1 (is 1)
    let mine (c : Nat) (w : List Nat) : List Nat := w.filter fun j => decide (j < 512) && decide (m.cls ls sector j = c)
    let gs := if m.grp = 0 then [] else (List.range 16).filter fun g =>
      decide (((is 2).filter fun j => decide (m.group j = g)).length % 2 = 1)
    ⟨na + nb, (if na = 0 then [] else is 0) ++ (if nb = 0 then [] else is 1), (if na = 0 then 0 else 1) + (if nb = 0 then 0 else 2), badA, badB, gs, mine 0 wa ++ mine 1 wb ++ mine 2 (is 2)⟩

/-- Failing groups an access of bytes `lo` to `hi` meets (R393). -/
def Exam.met (e : Exam) (l lo hi : Nat) : List Nat :=
  match pmap (pcode l) with
  | some m => e.grps.filter fun g =>
      decide (lo < (g + 1) * m.grp * m.fp.width / 8) && decide (g * m.grp * m.fp.width / 8 < hi)
  | none => []

/-- The severity an access meets (R393), and the failing classes as the log names them. -/
def Exam.sev (e : Exam) (l : Nat) (met : List Nat) : Nat :=
  max (if e.badA then severity l 0 else 0) (max (if e.badB then severity l 1 else 0) (if met.isEmpty then 0 else severity l 2))

def Exam.classes (e : Exam) (met : List Nat) : Nat :=
  b2n e.badA + 2 * b2n e.badB + (if met.isEmpty then 0 else 4)

/-- No class of the sector fails its check. -/
def Exam.sound (e : Exam) : Bool := !e.badA && !e.badB && e.grps.isEmpty

/-- The bytes of a sector as its cells and codes give them, beside what actions do (R391). -/
def State.seenSector (s : State) (l sector : Nat) (ls : List Lines := []) : List Byte :=
  let fl := s.flips sector
  let raw := Mem.bytes s.dev sector 64
  if fl.isEmpty then raw else flipBits raw (examine l sector fl ls).wrong

/-- `n` bytes from physical address `a` as a read would find them. -/
def State.seen (s : State) (l a n : Nat) : List Byte :=
  if s.cells.isEmpty then Mem.bytes s.dev a n
  else (List.range n).map fun i => (s.seenSector l ((a + i) / 64 * 64)).getD ((a + i) % 64) 0#8

/-- How an access is protected (R315, R389, R390, R394): the page's code and policy class, the lines that lie in it. -/
structure Prot where
  code  : Nat
  pol   : Nat
  lines : List Lines
  deriving DecidableEq, Repr, Inhabited

/-- Frames of page tables and of transduced pages: all class A (R343, R393). -/
def Prot.raw (pol : Nat) : Prot := ⟨0, pol, []⟩

/-- What ACCEPT and POISON deliver of a sector (R396): `grps` are the failing groups, none for LOSTSEV. -/
def delivered (pr : Prot) (act sev sector : Nat) (grps : Option (List Nat)) (bs : List Byte) : List Byte :=
  let l := pcode pr.code
  let inG (m : PMap) (j : Nat) : Bool := match grps with | some gs => gs.contains (m.group j) | none => true
  let clear (sel : Nat → Bool) : List Byte :=
    leBytes 64 ((List.range 512).foldl (fun n j => if sel j && n.testBit j then n ^^^ 2 ^ j else n) (leNat bs))
  let fill (w v : Nat) (sel : Nat → Bool) : List Byte :=
    leBytes 64 ((List.range 512).foldl (fun n j =>
      if sel j && n.testBit j != v.testBit (j % w) then n ^^^ 2 ^ j else n) (leNat bs))
  if act = acPoison && l = 0x1C then fill 32 0x7FC00000 fun _ => true
  else if act = acPoison && l = 0x1D then fill 8 0xFF fun _ => true
  else match pmap l with
    | none => if act = acPoison then bs.map (fun _ => 0#8) else bs
    | some m =>
      if act = acAccept then
        (if sev = 1 then clear fun j => decide (m.cls pr.lines sector j = 2) && inG m j
         else clear fun j => decide (m.cls pr.lines sector j = 1))
      else if m.fp.nan then fill m.fp.width m.fp.nanPat fun j => (m.bitOf pr.lines sector j).isSome && (decide (sev ≠ 1) || inG m j)
      else bs.map (fun _ => 0#8)

/-- Outcome of judging a read (R396): the severity of a CANCEL that stands (0 for none), whether it ends as HALT and at which severity. -/
structure Judged where
  cancel : Nat
  halt   : Option Nat
  deriving DecidableEq, Repr, Inhabited

/-- A failing read uses up one of the reads that a transient lasts. -/
def State.spend (s : State) (sector : Nat) : State :=
  { s with cells := s.cells.filterMap fun c =>
      if c.sector = sector then match c.kind with
        | .reads n => if n ≤ 1 then none else some { c with kind := .reads (n - 1) }
        | _ => some c
      else some c }

/-- The sector written back whole, its check bits anew (R397, R398): what was wrong by an upset and not corrected is stored
so; damaged cells stay. -/
def State.renew (s : State) (sector : Nat) (wrong : List Nat) : State :=
  let soft := (s.cells.filter fun c => decide (c.sector = sector) && c.kind = .upset).flatMap (·.bits)
  let keep : List Cell := s.cells.filter fun c =>
    !(decide (c.sector = sector)) || (match c.kind with | .stuck _ => true | _ => false)
  let w := wrong.filter soft.contains
  { s with cells := keep
           dev := if w.isEmpty then s.dev else Mem.write s.dev sector (flipBits (Mem.bytes s.dev sector 64) w) }

/-- Bits of a sector corrected beside a class that fails (R398): they are written back right, the rest stands. -/
def State.mend (s : State) (sector : Nat) (fixed : List Nat) : State :=
  { s with cells := s.cells.filterMap fun c =>
      if c.sector = sector && c.kind = .upset then
        (match c.bits.filter (fun j => !fixed.contains j) with | [] => none | bs => some { c with bits := bs })
      else some c }

/-- What a read or a scrub corrects of a sector (R398): written back corrected, and one log record with SEV 0, `flags` and
`more` being what its AGENT adds to it. -/
def State.corrected (s : State) (ctx : Ctx) (l pol sector : Nat) (e : Exam) (flags more : Nat) : State :=
  if e.corr = 0 then s
  else (if e.sound then s.renew sector e.wrong else s.mend sector e.fixed).post .err
    (errRecord s ctx 0 0 flags (pcode l) (e.corrC + more) pol sector e.corr)

/-- The severity an access meets (R393): control is severity 5 whatever the page's map, LOSTSEV as it stands. -/
def Exam.sevFor (e : Exam) (ctl : Bool) (l : Nat) (met : List Nat) : Nat :=
  let v := e.sev l met
  if ctl && decide (v ≠ 0) then 5 else v

/-- An access to memory of a die in C3 wakes the die (R418, R420): it comes after the wake, and its wait costs only time (log 44). -/
def State.rouse (s : State) (sector : Nat) : State :=
  if (s.dies.get (sector / 2 ^ 37)).ccur = 3 then { s with dies := s.dies.upd (sector / 2 ^ 37) fun d => { d with ccur := 0 } } else s

/-- One sector read and judged (R393-R398): `lo` to `hi` are the bytes of it the access reads. A CANCEL's second read is
made here. Answers the state, the bytes of the whole sector as delivered, and the judgement. -/
def State.readSector (s : State) (ctx : Ctx) (pr : Prot) (sector lo hi : Nat) : State × List Byte × Judged :=
  let s := s.rouse sector
  let l := pr.code
  let raw := Mem.bytes s.dev sector 64
  let lost := s.lostsev.get (sector / 64)
  let fl := s.flips sector
  if fl.isEmpty && lost = 0 then (s, raw, ⟨0, none⟩)
  else
    let e := examine l sector fl pr.lines
    let seen := flipBits raw e.wrong
    let met := e.met l lo hi
    let sevC := e.sevFor ctx.ctl l met
    let sev := max lost sevC
    let s := s.corrected ctx l pr.pol sector e 0 0
    if sev = 0 then (s.spend sector, seen, ⟨0, none⟩)
    else
      let act := actionOf (s.asids.get ctx.asid).poltab pr.pol sev
      let act := if ctx.atom && decide (act < acCancel) then acCancel else act
      let byLost := decide (lost ≥ sevC)
      let cls := e.classes met + (if byLost then 8 else 0)
      let s := s.spend sector
      if act = acCancel then
        let e2 := examine l sector (s.flips sector) pr.lines
        let again := decide (max lost (e2.sev l (e2.met l lo hi)) ≠ 0)
        let s := s.post .err (errRecord s ctx sev act 0 (pcode l) (cls + (if again then 0 else 32)) pr.pol sector 0)
        let s := s.corrected ctx l pr.pol sector e2 0 0
        if again then (s.spend sector, raw, ⟨0, some sev⟩)
        else (s.spend sector, flipBits raw e2.wrong, ⟨sev, none⟩)
      else
        let zeros := act = acPoison && (match pmap (pcode l) with | some m => !m.fp.nan | none => true)
          && pcode l ≠ 0x1C && pcode l ≠ 0x1D
        let s := s.post .err (errRecord s ctx sev act (if zeros then 128 else 0) (pcode l) cls pr.pol sector 0)
        if act = acHalt then (s, raw, ⟨0, some sev⟩)
        else (s, delivered pr act sev sector (if byLost then none else some met) seen, ⟨0, none⟩)

/-- The stronger of two judgements of one access (R396). -/
def Judged.join (a b : Judged) : Judged :=
  ⟨max a.cancel b.cancel,
    match a.halt, b.halt with | some x, some y => some (max x y) | some x, none => some x | none, h => h⟩

/-- `n` bytes from physical address `a` through the controller, sector by sector; the strongest action decides. -/
def State.readPhys (s : State) (ctx : Ctx) (pr : Prot) (fuel a n : Nat) : State × List Byte × Judged :=
  match fuel with
  | 0 => (s, [], ⟨0, none⟩)
  | fuel + 1 =>
    if n = 0 then (s, [], ⟨0, none⟩)
    else
      let sec := a / 64 * 64
      let lo := a - sec
      let k := min n (64 - lo)
      let (s, bs, j) := s.readSector ctx pr sec lo (lo + k)
      let (s, rest, j2) := s.readPhys ctx pr fuel (a + k) (n - k)
      (s, (bs.drop lo).take k ++ rest, j.join j2)

/-- A write at the controller (R397): a whole sector clears LOSTSEV; a partial one merges into what it reads, logs what it
finds, and raises LOSTSEV where that is uncorrectable. -/
def State.writeSector (s : State) (ctx : Ctx) (pr : Prot) (sector lo : Nat) (bs mask : List Byte) : State :=
  let s := s.rouse sector
  let new (s : State) : State :=
    { s with dev := Mem.write s.dev (sector + lo) (overlay (Mem.bytes s.dev (sector + lo) bs.length) bs mask) }
  if bs.length = 64 && mask.all (· = 0xFF#8) then
    new { s with lostsev := s.lostsev.put (sector / 64) 0
                 cells := s.cells.filter fun c =>
                   !(decide (c.sector = sector)) || (match c.kind with | .stuck _ => true | _ => false) }
  else
    let fl := s.flips sector
    let lost := s.lostsev.get (sector / 64)
    if fl.isEmpty && lost = 0 then new s
    else
      let l := pr.code
      let e := examine l sector fl pr.lines
      let sevC := e.sev l e.grps
      let sev := max lost sevC
      let s := if e.corr = 0 then s else s.post .err (errRecord s ctx 0 0 0 (pcode l) (e.corrC + 16) pr.pol sector e.corr)
      let s := new (s.renew sector e.wrong)
      if sev = 0 then s
      else
        { s.post .err (errRecord s ctx sev 0 0 (pcode l) (e.classes e.grps + 16 + (if lost ≥ sevC then 8 else 0)) pr.pol sector 0)
          with lostsev := s.lostsev.put (sector / 64) sev }

def State.writePhys (s : State) (ctx : Ctx) (pr : Prot) (fuel a : Nat) (bs mask : List Byte) : State :=
  match fuel with
  | 0 => s
  | fuel + 1 =>
    if bs.isEmpty then s
    else
      let sec := a / 64 * 64
      let lo := a - sec
      let k := min bs.length (64 - lo)
      (s.writeSector ctx pr sec lo (bs.take k) (mask.take k)).writePhys ctx pr fuel (a + k) (bs.drop k) (mask.drop k)

/-! ## Walks and TLBs -/

/-- The circuit from one die to another carries no packets (R379, R381): it has no wavelengths, or it is being retuned. -/
def State.cut (s : State) (a b : Nat) : Bool :=
  decide (s.conn.get (8 * a + b) = 0) || (match s.retune with | some ch => ch.any fun e => decide (e.1 = 8 * a + b) | none => false)

/-- The way from a die to memory of die `d` and back is shut (R379, R381). Steppe's own agents have fixed wavelengths. -/
def State.dieCut (s : State) (die d : Nat) : Bool :=
  decide (die < 8) && decide (die ≠ d) && (s.cut die d || s.cut d die)

/-- What an entry read at level `n` says (R314-R317): how the walk ends, or the next table. -/
def State.entry (s : State) (fn va n : Nat) (last : Bool) (e : Nat) : Except Walk Nat :=
  if !e.testBit 0 then .error (.absent va)
  else if e.testBit 1 then
    match s.leafBad fn n e with
    | some k => .error (.bad fTranslation k)
    | none => .error (.leaf (pteOf e) (va / pageBytes (pteOf e).size * pageBytes (pteOf e).size))
  else if last then .error (.bad fTranslation 2)
  else
    let next := bits e 115 64
    let size := if n = 0 then 8192 else if n = 1 then 8192 else 512
    if bits e 63 2 ≠ 0 || bits e 127 116 ≠ 0 || next % size ≠ 0 then .error (.bad fTranslation 2)
    else if !s.physOk next 1 then .error (.bad fTranslation 3)
    else .ok next

/-- Where a walk reads: the entry for an address in a table, `w` index bits from bit `sh` (R314). -/
def entryAt (tbl va sh w : Nat) : Nat := tbl + 16 * (va / 2 ^ sh % 2 ^ w)

/-- The walk from a table, as the tables stand (R314). -/
def State.walkFrom (s : State) (fn va tbl : Nat) (lv : List (Nat × Nat × Nat)) : Walk :=
  match lv with
  | [] => .bad fTranslation 2
  | (sh, w, n) :: r =>
    match s.entry fn va n r.isEmpty (leNat (s.seen 0 (entryAt tbl va sh w) 16)) with
    | .error x => x
    | .ok next => s.walkFrom fn va next r

/-- The walk a translation unit makes (R314, R379, R393): it reads each entry across the circuits to the die that holds it,
and each read is judged: page tables are control, under row 0 of the space (DESIGN CHOICE, log 64). -/
def State.walkMade (s : State) (ctx : Ctx) (fn va tbl : Nat) (lv : List (Nat × Nat × Nat)) : State × Walk :=
  match lv with
  | [] => (s, .bad fTranslation 2)
  | (sh, w, n) :: r =>
    let a := entryAt tbl va sh w
    if s.dieCut ctx.die (a / 2 ^ 37) then (s, .wait)
    else match s.readSector { ctx with atom := false } (.raw 0) (a / 64 * 64) (a % 64) (a % 64 + 16) with
      | (s, bs, j) => match j.halt with
        | some sev => (s, .bad fMemory sev)
        | none => match s.entry fn va n r.isEmpty (leNat ((bs.drop (a % 64)).take 16)) with
          | .error x => (s, x)
          | .ok next => s.walkMade ctx fn va next r

def walkLevels : List (Nat × Nat × Nat) := [(39, 13, 0), (30, 9, 1), (21, 9, 2), (16, 5, 3)]

/-- What a walk of an address space's tables finds (R314). -/
def State.walk (s : State) (asid va : Nat) : Walk :=
  let a := s.asids.get asid
  s.walkFrom a.fn va a.l0 walkLevels

/-- The 64 KiB pages of a box, its scale part behind its data (R264, R265). -/
def boxPages (b : Nat × Nat × Nat × Quad Nat) : List Nat :=
  let x : Box := { (default : Box) with layout := b.2.1, cap := b.2.2.1, ext := b.2.2.2, decl := b.2.2.2, scope := .devmem }
  let n := (x.dataBytes + 65535) / 65536 + (if layScaled x.layout then (x.scaleBox.dataBytes + 65535) / 65536 else 0)
  (List.range n).map fun i => b.1 + 65536 * i

/-- How the controller holds a sector that it reads for no page, for a scrub or a checkpoint (R388, R389): as the page says that maps
it for a box of a live launch; where none does, under a free code (DESIGN CHOICE, log 35). -/
def State.frameProt (s : State) (sector : Nat) : Prot :=
  (s.launches.findSome? fun e =>
    if !e.2.live then none
    else (s.boxesOf e.2.asid).findSome? fun b => (boxPages b).findSome? fun va => match s.walk e.2.asid va with
      | .leaf p page =>
        if p.tgt = 0 && !p.tx && decide (p.addr ≤ sector) && decide (sector < p.addr + pageBytes p.size)
        then some ⟨p.layout, p.pol, s.linesOf e.2.asid p page⟩ else none
      | _ => none).getD ⟨Config.frameCode sector, 0, []⟩

/-- The entry of a list of translations for an address. -/
def tlbFind (l : List (Nat × Nat × Nat × Pte)) (k asid va : Nat) : Option (Pte × Nat) :=
  (l.find? fun e => e.1 = k && e.2.1 = asid && e.2.2.1 ≤ va && va < e.2.2.1 + pageBytes e.2.2.2.size).map
    fun e => (e.2.2.2, e.2.2.1)

/-- The first `n` entries under a key, and all others. -/
def capKey {α : Type} (k n : Nat) (l : List (Nat × α)) : List (Nat × α) :=
  match l with
  | [] => []
  | e :: r =>
    if e.1 = k then (match n with | 0 => capKey k 0 r | n + 1 => e :: capKey k n r) else e :: capKey k n r

/-- The TLB entry of a die for an address (R318); die 8 is Steppe (R376). -/
def State.tlbHit (s : State) (die asid va : Nat) : Option (Pte × Nat) := tlbFind s.tlb die asid va

/-- A TLB filled: 16,384 entries on a die (R318), 1,024 in the host ports (R376); the oldest goes. -/
def State.tlbFill (s : State) (die asid page : Nat) (p : Pte) : State :=
  { s with tlb := capKey die (if die = 8 then 1024 else 16384) ((die, asid, page, p) :: s.tlb) }

/-- The micro-TLB of an agent (R318): C lanes and FST lanes have one. -/
def Ctx.micro (c : Ctx) : Option Nat :=
  match c.agent with
  | .clane u => some u
  | .fst n => some (1024 + n)
  | _ => none

def State.microHit (s : State) (ctx : Ctx) (va : Nat) : Option (Pte × Nat) :=
  match ctx.micro with
  | some k => tlbFind s.utlb k ctx.asid va
  | none => none

/-- A micro-TLB of 32 entries filled. -/
def State.microFill (s : State) (ctx : Ctx) (page : Nat) (p : Pte) : State :=
  match ctx.micro with
  | some k => { s with utlb := capKey k 32 ((k, ctx.asid, page, p) :: s.utlb) }
  | none => s

/-- A word's own translation of a page it has touched (R318). -/
def State.wordHit (s : State) (ctx : Ctx) (va : Nat) : Option (Pte × Nat) :=
  match ctx.word with
  | some k => ((s.wpages.get k).find? fun e => e.1 ≤ va && va < e.1 + pageBytes e.2.size).map fun e => (e.2, e.1)
  | none => none

def State.wordKeep (s : State) (ctx : Ctx) (page : Nat) (p : Pte) : State :=
  match ctx.word with
  | some k => { s with wpages := s.wpages.upd k fun l => (page, p) :: l }
  | none => s

/-- A translation held by a TLB, as the enabled features let it stand (R423). -/
def State.standsAs (s : State) (p : Pte) (page : Nat) : Walk :=
  if p.tx && !s.feature 3 then .bad fTranslation 2
  else if p.tgt = 2 && !s.feature 8 then .bad fTranslation 3
  else .leaf p page

/-- Translation (R318, R319): what the word has translated already, a micro-TLB or TLB hit, or a walk that fills them. A walk
is made at once; the wait for a walker is time (log 7). -/
def State.xlate (s : State) (ctx : Ctx) (va : Nat) : State × Walk :=
  match s.wordHit ctx va with
  | some (p, page) => (s, .leaf p page)
  | none => match s.microHit ctx va with
    | some (p, page) => (s.wordKeep ctx page p, s.standsAs p page)
    | none => match s.tlbHit ctx.die ctx.asid va with
      | some (p, page) => ((s.microFill ctx page p).wordKeep ctx page p, s.standsAs p page)
      | none =>
        match s.walkMade ctx (s.asids.get ctx.asid).fn va (s.asids.get ctx.asid).l0 walkLevels with
        | (s, .leaf p page) =>
          (((s.tlbFill ctx.die ctx.asid page p).microFill ctx page p).wordKeep ctx page p, .leaf p page)
        | r => r

/-- Translations of an address space dropped from every TLB and micro-TLB; with `r`, those of a range (R323). -/
def State.tlbDrop (s : State) (asid : Nat) (r : Option (Nat × Nat)) : State :=
  let gone (e : Nat × Nat × Nat × Pte) : Bool := decide (e.2.1 = asid) && (match r with
      | some (a, n) => decide (e.2.2.1 < a + n) && decide (a < e.2.2.1 + pageBytes e.2.2.2.size)
      | none => true)
  { s with tlb := s.tlb.filter fun e => !gone e, utlb := s.utlb.filter fun e => !gone e }

/-- What an address translates to, with nothing filled. -/
def State.lookup (s : State) (ctx : Ctx) (va : Nat) : Walk :=
  match s.wordHit ctx va with
  | some (p, page) => .leaf p page
  | none => match s.microHit ctx va with
    | some (p, page) => s.standsAs p page
    | none => match s.tlbHit ctx.die ctx.asid va with
      | some (p, page) => s.standsAs p page
      | none => s.walk ctx.asid va

/-- The page an address of an access lies in, as the tables and TLBs stand (R314, R318). -/
def State.pageFor (s : State) (ctx : Ctx) (va : Nat) : Option (Pte × Nat) :=
  match s.lookup ctx va with
  | .leaf p page => some (p, page)
  | _ => none

/-- The same for an agent of a die with no micro-TLB. -/
def State.pageOf (s : State) (die asid va : Nat) : Option (Pte × Nat) :=
  match s.tlbHit die asid va with
  | some r => some r
  | none => match s.walk asid va with
    | .leaf p page => some (p, page)
    | _ => none

/-- A device page's bytes exist (R316, R317): a page may reach past the end of its die's memory. -/
def State.inMemory (s : State) (p : Pte) (page va n : Nat) : Bool :=
  decide (p.tgt ≠ 0) || s.physOk (p.addr + (va - page)) n

/-! ## Accesses by virtual address -/

/-- Why an access does not complete (R317, R320, R322, R342, R355, R396), or that it waits at its sender: its circuit or its
port carries no packets now (R381, R406). -/
inductive XErr
  | wait
  | absent (va : Nat)
  | flt (code sub det va : Nat)
  deriving DecidableEq, Repr, Inhabited

/-- A read's answer: bytes, the OR of the page labels, whether a CANCEL error was met. -/
structure RdOk where
  data   : List Byte
  lab    : Label
  cancel : Nat
  layout : Nat
  deriving DecidableEq, Repr, Inhabited

/-- Agents whose UN reads their die's read cache may serve (R327): C lanes, sequencers and FST lanes. -/
def Ctx.cached (c : Ctx) : Bool :=
  match c.agent with
  | .clane _ | .seq _ | .fst _ => true
  | _ => false

/-- The line of a die's UN read cache (R327), host lines above 2^52; a line filled before the reader's fence is missed. -/
def State.unLine (s : State) (ctx : Ctx) (line : Nat) : Option (List Byte) :=
  (s.uncache.find? fun e => e.1 = ctx.die && e.2.1 = line && decide (ctx.mark ≤ e.2.2.2)).map (·.2.2.1)

/-- A line filled (R327): it takes the place of an older copy. The cache holds 1 MiB; the oldest line goes. -/
def State.unFill (s : State) (die line : Nat) (bs : List Byte) : State :=
  { s with uncache := capKey die 16384 ((die, line, bs, s.unNext) :: s.uncache.filter (fun e => !(e.1 = die && e.2.1 = line)))
           unNext := s.unNext + 1 }

/-- Every class of a sector is clean or corrected, and nothing is lost (R327). -/
def State.soundSector (s : State) (pr : Prot) (sector : Nat) : Bool :=
  decide (s.lostsev.get (sector / 64) = 0) && (examine pr.code sector (s.flips sector) pr.lines).sound

/-- DETAIL of a TRANSLATION fault: VA[47:16] (R404). -/
def vaDet (va : Nat) : Nat := va / 2 ^ 16 % 2 ^ 32

/-- How an access whose walk gave no page ends (R320, R393, R404): only TRANSLATION has a DETAIL. -/
def walkErr (w : Walk) (va : Nat) : XErr :=
  match w with
  | .absent a => .absent a
  | .bad code sub => .flt code sub (if code = fTranslation then vaDet va else 0) va
  | _ => .wait

/-- Frames read sector by sector until a chunk's decode finds all it reads among what was delivered (R347, R348): `d` are the
bytes from `a` judged so far. Answers the decode and the judgement of all its reads. -/
def State.chunkReads (s : State) (ctx : Ctx) (pol : Nat) (t : FstTab) (e a size fuel : Nat) (d : List Byte) (j : Judged) :
    State × List Byte × Option Nat × Judged :=
  let (out, err, n) := fstChunk t e (d ++ s.seen 0 (a + d.length) (size - d.length))
  match fuel with
  | 0 => (s, out, err, j)
  | fuel + 1 =>
    if n ≤ d.length then (s, out, err, j)
    else
      let m := min (size - d.length) ((a + n + 63) / 64 * 64 - a - d.length)
      let (s, more, j2) := s.readPhys ctx (.raw pol) (m / 64 + 2) (a + d.length) m
      s.chunkReads ctx pol t e a size fuel (d ++ more) (j.join j2)

/-- One chunk of an expanded view (R344, R345, R347): its index entry, and what of the frames its decode reads, judged as
RAW bytes and decoded as delivered, under CANCEL from the second read. A chunk that is not encoded reads as zeros. -/
def State.readChunk (s : State) (ctx : Ctx) (p : Pte) (va c : Nat) : State × Except XErr RdOk :=
  let size := pageBytes p.size
  let (s, eb, j) := s.readPhys ctx (.raw p.pol) 2 (p.addr + 8 * c) 8
  let e := leNat eb
  let tab := (s.asids.get ctx.asid).fst.get p.prog
  match j.halt with
  | some sev => (s, .error (.flt fMemory sev 0 va))
  | none =>
    if !e.testBit 63 then
      (s, .ok ⟨List.replicate 4096 0#8, p.lab ||| (match tab with | some t => (fstOf t).lab | none => 0#8), j.cancel, p.layout⟩)
    else match tab with
    | none => (s, .error (.flt fTxstream txNoprog 0 va))
    | some t =>
      if !fstIndexOk (fstOf t) size e then (s, .error (.flt fTxstream txIndex 0 va))
      else
        let base := bits e 33 0 / 8
        let (s, out, err, j2) := s.chunkReads ctx p.pol (fstOf t) e (p.addr + base) (size - base) 64 [] ⟨0, none⟩
        match j2.halt, err with
        | some sev, _ => (s, .error (.flt fMemory sev 0 va))
        | none, some sub => (s, .error (.flt fTxstream sub 0 va))
        | none, none => (s, .ok ⟨out, p.lab ||| (fstOf t).lab, max j.cancel j2.cancel, p.layout⟩)

def State.readChunks (s : State) (ctx : Ctx) (p : Pte) (va : Nat) (cs : List Nat) : State × Except XErr RdOk :=
  match cs with
  | [] => (s, .ok ⟨[], p.lab, 0, p.layout⟩)
  | c :: r =>
    match s.readChunk ctx p va c with
    | (s, .error e) => (s, .error e)
    | (s, .ok a) =>
      match s.readChunks ctx p va r with
      | (s, .error e) => (s, .error e)
      | (s, .ok b) => (s, .ok ⟨a.data ++ b.data, a.lab ||| b.lab, max a.cancel b.cancel, p.layout⟩)

/-- Flits of an access that goes to a peer and back in one step (R383, R384): RD and RDRSP, or WR, which an ACK answers. They take
their sequence numbers; an ACK takes none (DESIGN CHOICE, log 93). -/
def State.peerTrip (s : State) (port out back : Nat) : State :=
  { s with peers := s.peers.upd port fun p =>
      { p with txseq := p.txseq + BitVec.ofNat 12 out, rxseq := p.rxseq + BitVec.ofNat 12 back } }

/-- Flits that `n` bytes fill (R383). -/
def flitsOf (n : Nat) : Nat := (n + 239) / 240

/-- A read inside one page (R322, R327, R345, R396). `rl` is the label of the reading box, none where no box reads. -/
def State.readPage (s : State) (ctx : Ctx) (p : Pte) (page va n : Nat) (counter : Bool) : State × Except XErr RdOk :=
  let off := va - page
  if p.tgt = 2 then
    (s.peerTrip p.port 1 (flitsOf n), .ok ⟨Mem.bytes (s.peerMem.get p.port) (p.addr + off) n, p.lab, 0, p.layout⟩)
  else if p.tgt = 1 then
    let a := p.addr + off
    let fill (s : State) (i : Nat) : Byte := Tab.get s.hostMem (a + i)
    if p.kind = 2 && !counter && ctx.cached then
      let lines := (List.range (n + 63)).filterMap fun i =>
        let ln := (a + i) / 64
        if i = 0 || (a + i) % 64 = 0 then (if ln * 64 < a + n then some ln else none) else none
      let s2 := lines.foldl (fun (s : State) ln =>
        match s.unLine ctx (2 ^ 52 + ln) with
        | some _ => s
        | none => s.unFill ctx.die (2 ^ 52 + ln) (Mem.bytes s.hostMem (64 * ln) 64)) s
      let d := (List.range n).map fun i =>
        match s2.unLine ctx (2 ^ 52 + (a + i) / 64) with
        | some bs => bs.getD ((a + i) % 64) 0#8
        | none => fill s i
      (s2, .ok ⟨d, p.lab, 0, p.layout⟩)
    else (s, .ok ⟨(List.range n).map (fill s), p.lab, 0, p.layout⟩)
  else if p.tx then
    let chunks := (List.range (n / 4096 + 2)).filter fun i => decide ((off / 4096 + i) * 4096 < off + n)
    match s.readChunks ctx p va (chunks.map fun i => off / 4096 + i) with
    | (s, .error e) => (s, .error e)
    | (s, .ok r) => (s, .ok { r with data := (r.data.drop (off % 4096)).take n })
  else
    let a := p.addr + off
    let pr : Prot := ⟨p.layout, p.pol, s.linesOf ctx.asid p page⟩
    if p.kind = 2 && !counter && ctx.cached then
      -- UN pages: lines of the die's read cache, filled on a miss from clean sectors alone (R327)
      let secs := (List.range (n / 64 + 2)).filter fun i => decide ((a / 64 + i) * 64 < a + n)
      let (s2, d, j) := secs.foldl (fun (acc : State × List Byte × Judged) i =>
        let ln := a / 64 + i
        let lo := if i = 0 then a % 64 else 0
        let hi := min 64 (a + n - 64 * ln)
        match acc.1.unLine ctx ln with
        | some bs => (acc.1, acc.2.1 ++ (bs.drop lo).take (hi - lo), acc.2.2)
        | none =>
          let sound := acc.1.soundSector pr (64 * ln)
          let (s3, bs, j) := acc.1.readSector ctx pr (64 * ln) lo hi
          let s4 := if sound then s3.unFill ctx.die ln bs else s3
          (s4, acc.2.1 ++ (bs.drop lo).take (hi - lo), acc.2.2.join j))
        (s, ([] : List Byte), (⟨0, none⟩ : Judged))
      match j.halt with
      | some sev => (s2, .error (.flt fMemory sev 0 va))
      | none => (s2, .ok ⟨d, p.lab, j.cancel, p.layout⟩)
    else
      let (s, d, j) := s.readPhys ctx pr (n / 64 + 2) a n
      match j.halt with
      | some sev => (s, .error (.flt fMemory sev 0 va))
      | none => (s, .ok ⟨d, p.lab, j.cancel, p.layout⟩)

/-- The way to a page and back is shut for now: a circuit that is cut, a peer port that is frozen or whose link has failed
(R379, R381, R384, R406), or one with flits before it that the peer has not acknowledged: flits are delivered in sequence
order (R384), and an access that goes there and back in one step is the last of them. -/
def State.shut (s : State) (ctx : Ctx) (p : Pte) : Bool :=
  if p.tgt = 0 then s.dieCut ctx.die (p.addr / 2 ^ 37)
  else if p.tgt = 2 then !(s.peers.get p.port).up || s.frozen.contains (.peer p.port) || !(s.peers.get p.port).buf.isEmpty
  else false

/-- A read by virtual address, page by page (R318, R328). -/
def State.readVa (s : State) (ctx : Ctx) (k : AccK) (counter : Bool) (fuel va n : Nat) : State × Except XErr RdOk :=
  match fuel with
  | 0 => (s, .ok ⟨[], 0#8, 0, 0⟩)
  | fuel + 1 =>
    if n = 0 then (s, .ok ⟨[], 0#8, 0, 0⟩)
    else
      let (s, w) := s.xlate ctx va
      match w with
      | .leaf p page =>
        let m := min n (page + pageBytes p.size - va)
        if !p.allows k then (s, .error (.flt fPermission 0 0 va))
        else if s.shut ctx p then (s, .error .wait)
        else if !s.inMemory p page va m then (s, .error (.flt fTranslation 3 (vaDet va) va))
        else
          match s.readPage ctx p page va m counter with
          | (s, .error e) => (s, .error e)
          | (s, .ok r) =>
            match s.readVa ctx k counter fuel (va + m) (n - m) with
            | (s, .error e) => (s, .error e)
            | (s, .ok r2) => (s, .ok ⟨r.data ++ r2.data, r.lab ||| r2.lab, max r.cancel r2.cancel, r.layout⟩)
      | w => (s, .error (walkErr w va))

/-- A die's own copies of a written line are dropped (R327). -/
def State.unDrop (s : State) (die line0 line1 : Nat) : State :=
  { s with uncache := s.uncache.filter fun e => !(decide (e.1 = die) && decide (line0 ≤ e.2.1) && decide (e.2.1 ≤ line1)) }

/-- A write inside one page to device memory, host memory or a peer, unexamined (R324, R397). -/
def State.writePage (s : State) (ctx : Ctx) (p : Pte) (page va : Nat) (bs : List Byte) (mask : List Byte := []) : State :=
  let a := p.addr + (va - page)
  if p.tgt = 1 then
    let s := s.unDrop ctx.die (2 ^ 52 + a / 64) (2 ^ 52 + (a + bs.length - 1) / 64)
    { s with hostMem := Mem.write s.hostMem a (overlay (Mem.bytes s.hostMem a bs.length) bs mask) }
  else if p.tgt = 2 then { s.peerTrip p.port (flitsOf bs.length) 0 with peerMem := s.peerMem.upd p.port fun m => Mem.write m a (overlay (Mem.bytes m a bs.length) bs mask) }
  else
    let s := s.unDrop ctx.die (a / 64) ((a + bs.length - 1) / 64)
    s.writePhys ctx ⟨p.layout, p.pol, s.linesOf ctx.asid p page⟩ (bs.length / 64 + 2) a bs mask

/-- A write by virtual address under label `l` (R199, R322); it stops at the first page that refuses it, earlier parts
standing. `mask` names the bits written, all when it is empty. -/
def State.writeVa (s : State) (ctx : Ctx) (k : AccK) (l : Label) (fuel va : Nat) (bs : List Byte) (mask : List Byte := []) :
    State × Option XErr :=
  match fuel with
  | 0 => (s, none)
  | fuel + 1 =>
    if bs.isEmpty then (s, none)
    else
      let (s, w) := s.xlate ctx va
      match w with
      | .leaf p page =>
        let m := min bs.length (page + pageBytes p.size - va)
        if !p.allows k then (s, some (.flt fPermission 0 0 va))
        else if s.shut ctx p then (s, some .wait)
        else if p.tgt = 0 && !Label.sub l p.lab then (s, some (.flt fLabelFlow 2 0 va))
        else if !s.inMemory p page va m then (s, some (.flt fTranslation 3 (vaDet va) va))
        else (s.writePage ctx p page va (bs.take m) (mask.take m)).writeVa ctx k l fuel (va + m) (bs.drop m) (mask.drop m)
      | w => (s, some (walkErr w va))

/-- Pages a range of virtual addresses could need: fuel for the two loops. -/
def pagesOf (n : Nat) : Nat := n / 65536 + 2

/-! ## A box's bytes, wherever they are -/

/-- Reads bytes at a box address: the scratchpad of a unit, a cluster store, or device virtual memory (R266-R268). -/
def State.readBox (s : State) (ctx : Ctx) (u : Nat) (b : Box) (a n : Nat) : State × Except XErr RdOk :=
  match b.scope with
  | .scratch => (s, .ok ⟨Mem.bytes (s.unit u).spad a n, 0#8, 0, 0⟩)
  | .clstore => (s, .ok ⟨Mem.bytes (s.clstore.get b.home) a n, 0#8, 0, 0⟩)
  | _ => s.readVa ctx .rd (b.layout = 0x30) (pagesOf n) a n

/-- Writes bytes at a box address under label `l`; `mask` names the bits written, all when it is empty. -/
def State.writeBox (s : State) (ctx : Ctx) (u : Nat) (b : Box) (l : Label) (a : Nat) (bs : List Byte)
    (mask : List Byte := []) : State × Option XErr :=
  match b.scope with
  | .scratch => (s.modUnit u fun x => { x with spad := Mem.write x.spad a (overlay (Mem.bytes x.spad a bs.length) bs mask) }, none)
  | .clstore =>
    ({ s with clstore := s.clstore.upd b.home fun m => Mem.write m a (overlay (Mem.bytes m a bs.length) bs mask) }, none)
  | _ => s.writeVa ctx .wr l (pagesOf bs.length) a bs mask

/-- An element's value as bytes to write, with the mask of its bits; a whole-byte element has none (R134). -/
def Loc.bytesOf (l : Loc) (v : Nat) : List Byte := l.into (List.replicate l.bytes 0#8) v
def Loc.maskOf (l : Loc) : List Byte :=
  if l.width = 8 * l.bytes then [] else l.into (List.replicate l.bytes 0#8) (2 ^ l.width - 1)

/-- The context of a unit's own accesses. -/
def State.ctxOf (s : State) (u : Nat) : Ctx :=
  ⟨if isSeq u then .seq u else .clane u, dieOf u, s.asidOf u, (s.taskOf u).taskid.toNat, (s.unit u).unMark, false, none, false⟩

end Sys2Proof.Machine
end

