-- ==== Sys2Proof/Machine/Col.lean ====
section
/-! DEFINITION. The Col: tenants of a label, registered destinations, policies and the decision on one transaction (spec
19, R351-R366). -/

namespace Sys2Proof.Machine

/-- The tenants a label names under an address space's slot map; none when it has a bit of an unused slot (R361). -/
def State.tenants (s : State) (asid : Nat) (l : Label) : Option (List Nat) :=
  let a := s.asids.get asid
  let on := (List.range 8).filter fun i => l.getLsbD i
  if on.all (fun i => a.slots.getLsbD i) then some (uniq (on.map fun i => a.map.getD i 0)) else none

/-- The byte ranges a transaction writes. -/
def Txn.ranges (t : Txn) : List (Nat × Nat) :=
  match t.act with
  | .wr ws => ws.map fun w => (w.a, w.bs.length)
  | _ => [(t.addr, t.size)]

/-- A destination entry matches a transaction (R360). -/
def Dest.fits (d : Dest) (t : Txn) : Bool :=
  decide (d.kind = t.kind) && decide (d.port = t.port) &&
  (if t.kind = 0 || t.kind = 1 then decide (d.fn = t.fn) else true) &&
  (if t.kind = 0 || t.kind = 2 then
    t.ranges.all fun r => decide (d.base ≤ r.1) && decide (r.1 + r.2 ≤ d.base + d.len)
  else true)

/-- A policy's destination and layout conditions, its expiry and its quota (R361). -/
def Policy.fails (p : Policy) (now : Nat) (t : Txn) : Option Nat :=
  if !p.dests.any (·.fits t) then some 4
  else if !p.layouts.testBit t.layout then some 5
  else if now > p.expiry then some 6
  else if p.left < t.size then some 7
  else none

/-- Policies past their expiry are removed after a decision (R363, R364). -/
def State.dropExpired (s : State) : State :=
  { s with policies := s.policies.filter fun e => decide (s.devtime.toNat ≤ e.2.expiry) }

/-- Decide (R361): none when the transaction passes, its quota taken; otherwise the reason of R365. -/
def State.judge (s : State) (t : Txn) : State × Option Nat :=
  if t.lab = 0#8 then (s.dropExpired, none)
  else match s.tenants t.asid t.lab with
  | none => (s.dropExpired, some 1)
  | some ts =>
    let own := match ts with
      | [x] => s.dests.any fun e => match e.2 with | some d => decide (d.tenant = x) && d.fits t | none => false
      | _ => false
    if own then (s.dropExpired, none)
    else
      let ps := s.policies.filter fun e => e.2.live && ts.all fun x => e.2.tenants.contains x
      match ps.find? fun e => (e.2.fails s.devtime.toNat t).isNone with
      | some e =>
        let s := { s with policies := s.policies.put e.1 { e.2 with left := e.2.left - t.size } }
        (s.dropExpired, none)
      | none =>
        let why := match ps with
          | e :: _ => (e.2.fails s.devtime.toNat t).getD 4
          | [] => if ts.length = 1 then 2 else 3
        (s.dropExpired, some why)

/-- The master as a Col record names it: MASTER and UNIT (R365). -/
def colMaster (m : Option Master) : Nat × Nat :=
  match m with
  | some (.core c _) => (0, c)
  | some (.fn f _) => (1, f)
  | some .debug => (2, 0)
  | some (.peer p) => (4, p)
  | some (.seq q _) => (0, q)
  | none => (3, 0)

/-- The record of a refusal (R365). -/
def State.colRecord (s : State) (t : Txn) (why : Nat) : State :=
  let (m, u) := colMaster t.master
  s.post .col (leBytes 8 s.devtime.toNat ++ leBytes 2 (m + 8 * u) ++ leBytes 2 t.asid ++ leBytes 1 t.lab.toNat
    ++ leBytes 1 why ++ leBytes 1 t.layout ++ leBytes 1 t.kind
    ++ leBytes 8 (if t.kind = 0 || t.kind = 2 then t.addr else 0) ++ leBytes 2 t.size ++ leBytes 6 0)

/-- The Col's verdict on a transaction that does not wait, a sequencer's write or a record's DETAIL: a refusal is
recorded (R361, R365, R366). -/
def State.decideNow (s : State) (t : Txn) : State × Option Nat :=
  match s.judge t with
  | (s, none) => (s, none)
  | (s, some why) => (s.colRecord t why, some why)

/-- The verdict on a steering sequencer's store of `n` bytes at a box address: bytes that leave the package pass the Col
before they are written (R359, R114). -/
def State.seqEgress (s : State) (u : Nat) (b : Box) (l : Label) (a n : Nat) : State × Option XErr :=
  if !b.scope.inDev then (s, none)
  else match s.pageOf (dieOf u) (s.asidOf u) a with
  | none => (s, none)
  | some (p, page) =>
    if p.tgt = 0 || !p.allows .wr then (s, none)
    else if s.shut (s.ctxOf u) p then (s, some .wait)
    else
      let t : Txn := { (default : Txn) with
        kind := if p.tgt = 1 then 0 else 2, port := p.port, fn := s.fnOf u, asid := s.asidOf u, lab := l
        layout := b.layout, addr := p.addr + (a - page), size := n, master := some (masterOf u (s.asidOf u))
        act := .wr [⟨p.addr + (a - page), List.replicate n 0#8, []⟩] }
      match s.decideNow t with
      | (s, none) => (s, none)
      | (s, some why) => (s, some (.flt fGate why 0 a))

end Sys2Proof.Machine
end

