-- ==== Sys2Proof/Machine/Operands.lean ====
section
/-! DEFINITION. Every operand form of the S and V lanes: levels, rotation, immediates, guards, the delivery of scalar
and predicate results (spec 02, R37-R46, R52-R56; 05, R111; 06, R141-R143). -/

namespace Sys2Proof.Machine

/-! ## Rotation (R44) -/

def physS (x : Unit) (n : Nat) : Nat := if n < 16 then n else 16 + (n - 16 + x.regs.rbase.toNat) % 16

def physP (x : Unit) (n : Nat) : Nat := if n < 48 then n else 48 + (n - 48 + x.regs.pbase.toNat) % 16

/-! ## S-lane reads -/

/-- A named register. -/
def Unit.sreg (x : Unit) (n : Nat) : Lv 64 := x.regs.s.get (physS x n)

/-- A pool entry with the code-box label (R47). -/
def Unit.pool (x : Unit) (n : Nat) : Lv 64 := ⟨x.vol.k.get n, x.vol.codeL⟩

/-- ReadOp of an S operand (R37). -/
def Unit.readS (x : Unit) (o : SOp) : Lv 64 :=
  match o with
  | .lat => x.vol.lat
  | .q i => x.vol.q.getD i.toNat default
  | .s i => x.sreg i.toNat
  | .k i => x.pool i.toNat

/-- An immediate carries the code-box label (R78). -/
def Unit.imm (x : Unit) (v : BitVec 64) : Lv 64 := ⟨v, x.vol.codeL⟩

/-- Operand b, or the IMM word in its place (R75). -/
def Unit.readB (x : Unit) (b : SB) : Lv 64 :=
  match b with
  | .op a => x.readS a
  | .imm n => x.imm (n.signExtend 64)

/-- The immediate of an SI word (R80, R116). -/
def Unit.readImm (x : Unit) (i : Imm) : Lv 64 :=
  match i with
  | .short n => x.imm (n.signExtend 64)
  | .long n => x.imm (n.signExtend 64)

/-- A coordinate of an SM word (R84, R133): signed, or an unsigned immediate. -/
def Unit.readC (x : Unit) (c : SC) : Lv 64 :=
  match c with
  | .op a => x.readS a
  | .imm n => x.imm (n.setWidth 64)

def Unit.readT (x : Unit) (t : TIdx) : Lv 64 :=
  match t with
  | .op a => x.readS a
  | .imm n => x.imm (n.setWidth 64)
  | .long n => x.imm (n.signExtend 64)

/-- A predicate by its name: `p0` is true with label 0 (R41). -/
def Unit.preg (x : Unit) (n : Nat) : Pred := if n = 0 then ⟨true, 0#8⟩ else x.regs.p.get (physP x n)

/-- A predicate operand or guard with its negate flag (R41, R118). -/
def Unit.readP (x : Unit) (g : POp) : Pred :=
  let p := x.preg g.p.toNat
  ⟨p.v ^^ g.neg, p.l⟩

/-! ## Delivery of results (R39, R40, R118) -/

/-- An arriving result: queue and latch (R39). -/
def Unit.arrive (x : Unit) (issue : Nat) (v : Lv 64) : Unit :=
  let take := match x.vol.latIss with | some i => decide (i < issue) | none => true
  { x with vol := { x.vol with
      q := (v :: x.vol.q).take 16
      lat := if take then v else x.vol.lat
      latIss := if take then some issue else x.vol.latIss } }

/-- A named register written (R39). -/
def Unit.setS (x : Unit) (phys : Nat) (v : Lv 64) : Unit :=
  { x with regs := { x.regs with s := x.regs.s.put phys v } }

/-- A predicate written; a write to `p0` is discarded (R41). -/
def Unit.setP (x : Unit) (phys : Nat) (v : Pred) : Unit :=
  if phys = 0 then x else { x with regs := { x.regs with p := x.regs.p.put phys v } }

/-- A descriptor written. -/
def Unit.setD (x : Unit) (i : Nat) (d : Desc) : Unit := { x with regs := { x.regs with d := x.regs.d.put i d } }

/-- An untimed result takes the latch whatever came before (R39, R42); a segment's result still on its way, issued earlier,
does not take it back (R40). -/
def Unit.arriveNow (x : Unit) (v : Lv 64) : Unit :=
  { x with vol := { x.vol with q := (v :: x.vol.q).take 16, lat := v, latIss := some (2 ^ 32) } }

/-- WriteRes to a scalar destination at latency `n` (R39): queue and latch at c + n, the named register at c + n + 1;
at once where the word is untimed. -/
def Unit.deliver (x : Unit) (d : Dst) (n : Nat) (v : Lv 64) : Unit :=
  let ph := physS x d.nidx.toNat
  if x.iss.timed then
    let x := x.due (x.iss.cyc + n) phWrite lnS (.sres x.iss.cyc v)
    if d.nw then x.due (x.iss.cyc + n + 1) phWrite lnS (.sname ph v) else x
  else
    let x := x.arriveNow v
    if d.nw then x.setS ph v else x

/-- A predicate result at latency `n` (R118). -/
def Unit.deliverP (x : Unit) (pd : BitVec 6) (n : Nat) (v : Pred) : Unit :=
  let ph := physP x pd.toNat
  if x.iss.timed then x.due (x.iss.cyc + n) phWrite lnS (.pred ph v) else x.setP ph v

/-- A descriptor effect at issue + 2 (R49). -/
def Unit.deliverD (x : Unit) (e : Eff) (now : Unit → Unit) : Unit :=
  if x.iss.timed then x.due (x.iss.cyc + 2) phWrite lnS e else now x

/-! ## Guards (R41, R112) -/

/-- A word under a guard: the guard's label enters LBLPC whatever its value; a false guard leaves nothing else. -/
def guarded (s : State) (g : POp) (k : State → State) : State :=
  let p := s.me.readP g
  let s1 := s.modMe fun x => x.raiseLbl p.l
  if p.v then k s1 else s1

/-- The part of L every S result carries: guard label and LBLPC as of the word's fetch (R111). -/
def Unit.baseL (x : Unit) (g : POp) : Label := (x.readP g).l ||| x.iss.lab

end Sys2Proof.Machine
end

