-- ==== Sys2Proof/Machine/SInt.lean ====
section
/-! DEFINITION. S-lane integer, logic and bit words and their immediate forms (spec 05, R115-R117). -/

namespace Sys2Proof.Machine

/-- The outcome of a step of this machine. -/
abbrev Out := Host.Outcome State Fault Refusal

/-- A scalar result of two operands (R111, R115). -/
def aluSA (s : State) (f : SA) (n : Nat) (op : BitVec 64 → BitVec 64 → BitVec 64) : State :=
  guarded s f.g fun s => s.modMe fun x =>
    let a := x.readS f.a
    let b := x.readB f.b
    x.deliver f.d n ⟨op a.v b.v, a.l ||| b.l ||| x.baseL f.g⟩

/-- A scalar result of one operand. -/
def aluSA1 (s : State) (f : SA1) (n : Nat) (op : BitVec 64 → BitVec 64) : State :=
  guarded s f.g fun s => s.modMe fun x =>
    let a := x.readS f.a
    x.deliver f.d n ⟨op a.v, a.l ||| x.baseL f.g⟩

/-- The immediate form (R116). -/
def aluSI (s : State) (f : SI) (n : Nat) (op : BitVec 64 → BitVec 64 → BitVec 64) : State :=
  guarded s f.g fun s => s.modMe fun x =>
    let a := x.readS f.a
    let b := x.readImm f.imm
    x.deliver f.d n ⟨op a.v b.v, a.l ||| b.l ||| x.baseL f.g⟩

/-! ## The functions (R36, R115) -/

def opMulhs (a b : BitVec 64) : BitVec 64 := BitVec.ofInt 64 ((a.toInt * b.toInt) / 2 ^ 64)
def opMulhu (a b : BitVec 64) : BitVec 64 := BitVec.ofNat 64 (a.toNat * b.toNat / 2 ^ 64)
def opDivs (a b : BitVec 64) : BitVec 64 := if b = 0#64 then BitVec.allOnes 64 else a.sdiv b
def opDivu (a b : BitVec 64) : BitVec 64 := if b = 0#64 then BitVec.allOnes 64 else a.udiv b
def opRems (a b : BitVec 64) : BitVec 64 := if b = 0#64 then a else a.srem b
def opRemu (a b : BitVec 64) : BitVec 64 := if b = 0#64 then a else a.umod b
def shAmt (b : BitVec 64) : Nat := b.toNat % 64
def opClz (a : BitVec 64) : BitVec 64 := if a = 0#64 then 64#64 else BitVec.ofNat 64 (63 - Nat.log2 a.toNat)
def opCtz (a : BitVec 64) : BitVec 64 :=
  BitVec.ofNat 64 (((List.range 64).find? fun i => a.getLsbD i).getD 64)
def popN (n w : Nat) : Nat := (List.range w).foldl (fun k i => k + b2n (n.testBit i)) 0
def opBrev (a : BitVec 64) : BitVec 64 :=
  BitVec.ofNat 64 ((List.range 64).foldl (fun n i => n + (if a.getLsbD i then 2 ^ (63 - i) else 0)) 0)
def opMins (a b : BitVec 64) : BitVec 64 := if b.toInt < a.toInt then b else a
def opMaxs (a b : BitVec 64) : BitVec 64 := if a.toInt < b.toInt then b else a
def opMinu (a b : BitVec 64) : BitVec 64 := if b.toNat < a.toNat then b else a
def opMaxu (a b : BitVec 64) : BitVec 64 := if a.toNat < b.toNat then b else a
def opSext (w : ExtW) (a : BitVec 64) : BitVec 64 :=
  match w with
  | .w8 => (a.setWidth 8).signExtend 64
  | .w16 => (a.setWidth 16).signExtend 64
  | .w32 => (a.setWidth 32).signExtend 64
def opZext (w : ExtW) (a : BitVec 64) : BitVec 64 :=
  match w with
  | .w8 => (a.setWidth 8).setWidth 64
  | .w16 => (a.setWidth 16).setWidth 64
  | .w32 => (a.setWidth 32).setWidth 64
def opBfx (lsb w1 : Nat) (a : BitVec 64) : BitVec 64 := BitVec.ofNat 64 (a.toNat / 2 ^ lsb % 2 ^ (w1 + 1))
def opBfi (lsb w1 : Nat) (a b : BitVec 64) : BitVec 64 :=
  let m : BitVec 64 := BitVec.ofNat 64 ((2 ^ (w1 + 1) - 1) * 2 ^ lsb)
  (a &&& ~~~m) ||| ((b <<< lsb) &&& m)

/-! ## SA words -/

/-- ADD (R115). -/
def execAdd (_h : Hdr) (f : SA) (s : State) : Out := .next (aluSA s f 1 (fun a b => a + b))

/-- SUB (R115). -/
def execSub (_h : Hdr) (f : SA) (s : State) : Out := .next (aluSA s f 1 (fun a b => a - b))

/-- MUL (R115). -/
def execMul (_h : Hdr) (f : SA) (s : State) : Out := .next (aluSA s f 3 (fun a b => a * b))

/-- MULHS (R115). -/
def execMulhs (_h : Hdr) (f : SA) (s : State) : Out := .next (aluSA s f 3 opMulhs)

/-- MULHU (R115). -/
def execMulhu (_h : Hdr) (f : SA) (s : State) : Out := .next (aluSA s f 3 opMulhu)

/-- DIVS (R115). -/
def execDivs (_h : Hdr) (f : SA) (s : State) : Out := .next (aluSA s f 20 opDivs)

/-- DIVU (R115). -/
def execDivu (_h : Hdr) (f : SA) (s : State) : Out := .next (aluSA s f 20 opDivu)

/-- REMS (R115). -/
def execRems (_h : Hdr) (f : SA) (s : State) : Out := .next (aluSA s f 20 opRems)

/-- REMU (R115). -/
def execRemu (_h : Hdr) (f : SA) (s : State) : Out := .next (aluSA s f 20 opRemu)

/-- AND (R115). -/
def execAnd (_h : Hdr) (f : SA) (s : State) : Out := .next (aluSA s f 1 (fun a b => a &&& b))

/-- OR (R115). -/
def execOr (_h : Hdr) (f : SA) (s : State) : Out := .next (aluSA s f 1 (fun a b => a ||| b))

/-- XOR (R115). -/
def execXor (_h : Hdr) (f : SA) (s : State) : Out := .next (aluSA s f 1 (fun a b => a ^^^ b))

/-- ANDN (R115). -/
def execAndn (_h : Hdr) (f : SA) (s : State) : Out := .next (aluSA s f 1 (fun a b => a &&& ~~~b))

/-- ORN (R115). -/
def execOrn (_h : Hdr) (f : SA) (s : State) : Out := .next (aluSA s f 1 (fun a b => a ||| ~~~b))

/-- SHL (R115). -/
def execShl (_h : Hdr) (f : SA) (s : State) : Out := .next (aluSA s f 1 (fun a b => a <<< shAmt b))

/-- SHR (R115). -/
def execShr (_h : Hdr) (f : SA) (s : State) : Out := .next (aluSA s f 1 (fun a b => a >>> shAmt b))

/-- SAR (R115). -/
def execSar (_h : Hdr) (f : SA) (s : State) : Out := .next (aluSA s f 1 (fun a b => a.sshiftRight (shAmt b)))

/-- ROL (R115). -/
def execRol (_h : Hdr) (f : SA) (s : State) : Out := .next (aluSA s f 1 (fun a b => a.rotateLeft (shAmt b)))

/-- ROR (R115). -/
def execRor (_h : Hdr) (f : SA) (s : State) : Out := .next (aluSA s f 1 (fun a b => a.rotateRight (shAmt b)))

/-- CLZ (R115). -/
def execClz (_h : Hdr) (f : SA1) (s : State) : Out := .next (aluSA1 s f 1 opClz)

/-- CTZ (R115). -/
def execCtz (_h : Hdr) (f : SA1) (s : State) : Out := .next (aluSA1 s f 1 opCtz)

/-- POPC (R115). -/
def execPopc (_h : Hdr) (f : SA1) (s : State) : Out := .next (aluSA1 s f 1 (fun a => BitVec.ofNat 64 (popN a.toNat 64)))

/-- BREV (R115). -/
def execBrev (_h : Hdr) (f : SA1) (s : State) : Out := .next (aluSA1 s f 1 opBrev)

/-- MINS (R115). -/
def execMins (_h : Hdr) (f : SA) (s : State) : Out := .next (aluSA s f 1 opMins)

/-- MAXS (R115). -/
def execMaxs (_h : Hdr) (f : SA) (s : State) : Out := .next (aluSA s f 1 opMaxs)

/-- MINU (R115). -/
def execMinu (_h : Hdr) (f : SA) (s : State) : Out := .next (aluSA s f 1 opMinu)

/-- MAXU (R115). -/
def execMaxu (_h : Hdr) (f : SA) (s : State) : Out := .next (aluSA s f 1 opMaxu)

/-- SEXT (R115). -/
def execSext (_h : Hdr) (f : SA1) (w : ExtW) (s : State) : Out := .next (aluSA1 s f 1 (opSext w))

/-- ZEXT (R115). -/
def execZext (_h : Hdr) (f : SA1) (w : ExtW) (s : State) : Out := .next (aluSA1 s f 1 (opZext w))

/-- BFX (R115). The field's place and width are immediates, and carry the code box's label (R78). -/
def execBfx (_h : Hdr) (f : SA1) (lsb w1 : BitVec 6) (s : State) : Out :=
  .next (guarded s f.g fun s => s.modMe fun x =>
    let a := x.readS f.a
    x.deliver f.d 1 ⟨opBfx lsb.toNat w1.toNat a.v, a.l ||| x.vol.codeL ||| x.baseL f.g⟩)

/-- BFI (R115, R78). -/
def execBfi (_h : Hdr) (f : SA) (lsb w1 : BitVec 6) (s : State) : Out :=
  .next (guarded s f.g fun s => s.modMe fun x =>
    let a := x.readS f.a
    let b := x.readB f.b
    x.deliver f.d 1 ⟨opBfi lsb.toNat w1.toNat a.v b.v, a.l ||| b.l ||| x.vol.codeL ||| x.baseL f.g⟩)

/-- SEL (R115): the label of the selecting predicate joins L; LBLPC is not raised by it. -/
def execSel (_h : Hdr) (f : SA) (p : POp) (s : State) : Out :=
  .next (guarded s f.g fun s => s.modMe fun x =>
    let a := x.readS f.a
    let b := x.readB f.b
    let c := x.readP p
    x.deliver f.d 1 ⟨if c.v then a.v else b.v, a.l ||| b.l ||| c.l ||| x.baseL f.g⟩)

/-- MOV (R115). -/
def execMov (_h : Hdr) (f : SA1) (s : State) : Out := .next (aluSA1 s f 1 (fun a => a))

/-! ## SI words (R116, R117) -/

/-- ADD_IMM (R116). -/
def execAddImm (_h : Hdr) (f : SI) (s : State) : Out := .next (aluSI s f 1 (fun a b => a + b))

/-- SUB_IMM (R116). -/
def execSubImm (_h : Hdr) (f : SI) (s : State) : Out := .next (aluSI s f 1 (fun a b => a - b))

/-- MUL_IMM (R116). -/
def execMulImm (_h : Hdr) (f : SI) (s : State) : Out := .next (aluSI s f 3 (fun a b => a * b))

/-- AND_IMM (R116). -/
def execAndImm (_h : Hdr) (f : SI) (s : State) : Out := .next (aluSI s f 1 (fun a b => a &&& b))

/-- OR_IMM (R116). -/
def execOrImm (_h : Hdr) (f : SI) (s : State) : Out := .next (aluSI s f 1 (fun a b => a ||| b))

/-- XOR_IMM (R116). -/
def execXorImm (_h : Hdr) (f : SI) (s : State) : Out := .next (aluSI s f 1 (fun a b => a ^^^ b))

/-- ANDN_IMM (R116). -/
def execAndnImm (_h : Hdr) (f : SI) (s : State) : Out := .next (aluSI s f 1 (fun a b => a &&& ~~~b))

/-- ORN_IMM (R116). -/
def execOrnImm (_h : Hdr) (f : SI) (s : State) : Out := .next (aluSI s f 1 (fun a b => a ||| ~~~b))

/-- SHL_IMM (R116). -/
def execShlImm (_h : Hdr) (f : SI) (s : State) : Out := .next (aluSI s f 1 (fun a b => a <<< shAmt b))

/-- SHR_IMM (R116). -/
def execShrImm (_h : Hdr) (f : SI) (s : State) : Out := .next (aluSI s f 1 (fun a b => a >>> shAmt b))

/-- SAR_IMM (R116). -/
def execSarImm (_h : Hdr) (f : SI) (s : State) : Out := .next (aluSI s f 1 (fun a b => a.sshiftRight (shAmt b)))

/-- ROL_IMM (R116). -/
def execRolImm (_h : Hdr) (f : SI) (s : State) : Out := .next (aluSI s f 1 (fun a b => a.rotateLeft (shAmt b)))

/-- ROR_IMM (R116). -/
def execRorImm (_h : Hdr) (f : SI) (s : State) : Out := .next (aluSI s f 1 (fun a b => a.rotateRight (shAmt b)))

/-- MINS_IMM (R116). -/
def execMinsImm (_h : Hdr) (f : SI) (s : State) : Out := .next (aluSI s f 1 opMins)

/-- MAXS_IMM (R116). -/
def execMaxsImm (_h : Hdr) (f : SI) (s : State) : Out := .next (aluSI s f 1 opMaxs)

/-- MINU_IMM (R116). -/
def execMinuImm (_h : Hdr) (f : SI) (s : State) : Out := .next (aluSI s f 1 opMinu)

/-- MAXU_IMM (R116). -/
def execMaxuImm (_h : Hdr) (f : SI) (s : State) : Out := .next (aluSI s f 1 opMaxu)

/-- MOVI (R117). -/
def execMovi (_h : Hdr) (d : Dst) (imm : Imm) (g : POp) (s : State) : Out :=
  .next (guarded s g fun s => s.modMe fun x =>
    let b := x.readImm imm
    x.deliver d 1 ⟨b.v, b.l ||| x.baseL g⟩)

end Sys2Proof.Machine
end

