-- ==== Sys2Proof/Machine/SControl.lean ====
section
/-! DEFINITION. S-lane control words (spec 05, R122-R127) and what a control word does to fetch (spec 09, R241). -/

namespace Sys2Proof.Machine

/-! ## Code and queues -/

/-- The words of the instruction store from index `pc`, at most four and none past the end of the code (R97). -/
def Unit.fetchWords (x : Unit) (pc : Nat) : List Word :=
  wordsOfBytes (min 4 (x.codeN - pc)) (Mem.bytes x.code (8 * pc) (8 * min 4 (x.codeN - pc)))

/-- The instruction at an index, when one decodes there. -/
def Unit.instrAt (x : Unit) (pc : Nat) : Option Instr :=
  match decode (x.fetchWords pc) with
  | .ok (i, _) => some i
  | .error _ => none

/-- LANE of a primary word (R66). -/
def laneOf (w : Word) : Nat := w.toNat / 2 ^ 52 % 4

/-- An instruction deposited in its lane's queue or the S issue buffer (R241). -/
def Seg.deposit (g : Seg) (q : QWord) : Seg :=
  match laneOf (q.words.headD 0#64) with
  | 0 => { g with sb := g.sb ++ [q] }
  | 1 => { g with vb := g.vb ++ [q] }
  | 2 => { g with mb := g.mb ++ [q] }
  | _ => { g with cb := g.cb ++ [q] }

/-- A control word has issued (R122, R241): taken, the held instructions are discarded and fetch restarts at the target;
not taken, they are deposited at max(f + 1, c), with LBLPC as of then and the guard's label (R357). -/
def Unit.branch (x : Unit) (taken : Bool) (target : Nat) (gl : Label) : Unit :=
  if x.iss.timed then
    let c := x.iss.cyc
    if taken then
      { x with seg := { x.seg with ctl := none, held := [], npc := target, fetchC := c + 1, taken := c + 3,
                                   stopped := false, got := 0, accF := x.seg.accC } }
    else
      let lab := x.vol.lblpc ||| gl
      let good := x.seg.held.filter (fun q => q.bad.isNone)
      let seg := good.foldl (fun (g : Seg) q => g.deposit { q with first := max q.first (c + 1), lab := lab })
        { x.seg with ctl := none, held := [], gl := (c, gl) }
      { x with seg := seg }
  else if taken then { x with pc := target } else x

/-- The decode fault a held instruction keeps, when the control word before it is not taken (R98). -/
def Unit.heldFault (x : Unit) : Option (Nat × Nat × Nat) :=
  (x.seg.held.find? (fun q => q.bad.isSome)).map fun q => (q.first - 2, q.bad.getD 0, laneOf (q.words.headD 0#64))

/-- The end of a control word: the branch decided, and a held decode fault raised after this cycle's issues when the
word is not taken. -/
def Unit.control (x : Unit) (taken : Bool) (target : Nat) (gl : Label) : Unit :=
  let hf := x.heldFault
  let y := x.branch taken target gl
  match hf with
  | some (f, code, lane) =>
    if x.iss.timed && !taken then y.due (max f x.iss.cyc) phPush lnS (.dfault code 0 lane (x.vol.lblpc ||| gl) false) else y
  | none => y

/-- A target index from an offset (R67). -/
def Unit.target (x : Unit) (off : BitVec 24) : Nat := ((x.iss.pc : Int) + off.toInt).toNat

/-- A taken control word inside a segment may not lead to SYNC (R126). -/
def Unit.toSync (x : Unit) (target : Nat) : Bool :=
  x.iss.timed && (match x.instrAt target with | some (.sync _) => true | _ => false)

/-! ## Words -/

/-- A control word under its guard: its effect when taken, else the next word (R41, R122). -/
def ctlWord (s : State) (g : POp) (k : Unit → Option (Unit × Nat)) (bad : Unit → Bool) : State :=
  let p := s.me.readP g
  let s1 := s.modMe fun x => x.raiseLbl p.l
  if p.v then
    if bad s.me then s1.fail lanS fIllegalOperand 0 (s.me.baseL g)
    else s1.modMe fun x =>
      match k x with
      | some (y, t) => y.control true t p.l
      | none => x.control false 0 p.l
  else s1.modMe fun x => x.control false 0 p.l

/-- BR (R122). -/
def execBr (_h : Hdr) (g : POp) (off : BitVec 24) (s : State) : Out :=
  .next (ctlWord s g (fun x => some (x, x.target off)) (fun x => x.toSync (x.target off)))

/-- CALLT (R122, R123). -/
def execCallt (_h : Hdr) (g : POp) (off : BitVec 24) (s : State) : Out :=
  .next (ctlWord s g
    (fun x => some ({ x with vol := { x.vol with rstack := (x.iss.pc + x.iss.len) :: x.vol.rstack } }, x.target off))
    (fun x => decide (x.vol.rstack.length ≥ 8) || x.toSync (x.target off)))

/-- RETT (R122, R123). -/
def execRett (_h : Hdr) (g : POp) (s : State) : Out :=
  .next (ctlWord s g
    (fun x => some ({ x with vol := { x.vol with rstack := x.vol.rstack.tail } }, x.vol.rstack.headD 0))
    (fun x => x.vol.rstack.isEmpty || x.toSync (x.vol.rstack.headD 0)))

/-- LOOPB's new counts and whether it is LCNT that changed (R124); none when not taken. -/
def loopStep (lcnt : BitVec 32) (dcnt : BitVec 16) : Option (BitVec 32 × BitVec 16 × Bool) :=
  if lcnt ≠ 0#32 then some (lcnt - 1#32, dcnt, true)
  else if dcnt ≠ 0#16 then some (lcnt, dcnt - 1#16, false)
  else none

/-- The counts set. -/
def Unit.setCnt (x : Unit) (lcnt : BitVec 32) (dcnt : BitVec 16) : Unit :=
  { x with regs := { x.regs with lcnt := lcnt, dcnt := dcnt } }

/-- The rotation bases set. -/
def Unit.setBase (x : Unit) (rb pb : BitVec 4) : Unit :=
  { x with regs := { x.regs with rbase := rb, pbase := pb } }

/-- LOOPB (R124, R45): effects from c + 1. -/
def execLoopb (_h : Hdr) (g : POp) (off : BitVec 24) (s : State) : Out :=
  .next (ctlWord s g
    (fun x => match loopStep x.regs.lcnt x.regs.dcnt with
      | none => none
      | some (l, d, b) =>
        let rb := x.regs.rbase - 1#4
        let pb := x.regs.pbase - 1#4
        let v : Pred := ⟨b, x.vol.lblpc ||| (x.readP g).l⟩
        let y := if x.iss.timed then
            let y := x.due (x.iss.cyc + 1) phWrite lnS (if b then .lcnt l else .dcnt d)
            let y := y.due (x.iss.cyc + 1) phWrite lnS (.base rb pb)
            y.due (x.iss.cyc + 1) phWrite lnS (.pred (48 + pb.toNat) v)
          else ((x.setCnt l d).setBase rb pb).setP (48 + pb.toNat) v
        some (y, x.target off))
    (fun x => (loopStep x.regs.lcnt x.regs.dcnt).isSome && x.toSync (x.target off)))

/-- LSET (R125): effects from c + 1; the source's label enters LBLPC. -/
def execLset (_h : Hdr) (a : SOp) (dcnt : BitVec 16) (_long : Bool) (g : POp) (s : State) : Out :=
  .next (guarded s g fun s =>
    let x := s.me
    let v := x.readS a
    -- the count is an immediate, and carries the code box's label (R78)
    let l := v.l ||| x.vol.codeL ||| x.baseL g
    if v.v.toNat ≥ 2 ^ 32 then s.fail lanS fIllegalOperand 0 l
    else
      let ps := (List.range 16).map fun i => (physP x (48 + i), (⟨decide (i = 0), l⟩ : Pred))
      s.modMe fun x =>
        let x := x.raiseLbl v.l
        if x.iss.timed then
          ps.foldl (fun y p => y.due (x.iss.cyc + 1) phWrite lnS (.pred p.1 p.2))
            ((x.due (x.iss.cyc + 1) phWrite lnS (.lcnt (v.v.setWidth 32))).due (x.iss.cyc + 1) phWrite lnS (.dcnt dcnt))
        else ps.foldl (fun y p => y.setP p.1 p.2) (x.setCnt (v.v.setWidth 32) dcnt))

/-- NOP (R127). -/
def execNop (_h : Hdr) (g : POp) (s : State) : Out := .next (guarded s g fun s => s)

end Sys2Proof.Machine
end

