-- ==== Sys2Proof/Machine/SDesc.lean ====
section
/-! DEFINITION. S-lane descriptor words (spec 05, R128-R132). Descriptor writes are readable from issue + 2 (R49). -/

namespace Sys2Proof.Machine

/-- The field write of DSET (R128) on a handle; the value is already checked. -/
def Desc.setFld (d : Desc) (f : DFld) (v : Nat) (l : Label) : Desc :=
  match f with
  | .slot => d
  | .valid => { d with valid := decide (v = 1), lab := d.lab ||| l }
  | .step i => { d with step := d.step.set i.toNat (BitVec.ofNat 8 v), lab := d.lab ||| l }
  | .org i => { d with org := d.org.set i.toNat (BitVec.ofNat 30 v), lab := d.lab ||| l }
  | .ext i => { d with ext := d.ext.set i.toNat (BitVec.ofNat 30 v), lab := d.lab ||| l }

/-- The checks of DSET (R128). A handle whose SLOT holds no box has rank 0, so that STEP, ORG and EXT of it are refused
(DESIGN CHOICE, log 98). -/
def dsetOk (s : State) (u : Nat) (d : Desc) (f : DFld) (v : BitVec 64) : Bool :=
  let rank := (s.box u d.slot.toNat).rank
  match f with
  | .slot => decide (v.toNat ≤ 15) && (s.box u v.toNat).present
  | .valid => decide (v.toNat ≤ 1) && (decide (v.toNat = 0) || (s.box u d.slot.toNat).present)
  | .step i => decide (i.toNat < rank) && decide (v.toNat ≤ 255)
  | .org i => decide (i.toNat < rank) && decide (-(2 ^ 29 : Int) ≤ v.toInt) && decide (v.toInt < 2 ^ 29)
  | .ext i => decide (i.toNat < rank) && decide (v.toNat < 2 ^ 30)

/-- DSET (R128). -/
def execDset (_h : Hdr) (d : BitVec 4) (fld : DFld) (a : SOp) (g : POp) (s : State) : Out :=
  .next (guarded s g fun s =>
    let x := s.me
    let v := x.readS a
    let l := v.l ||| x.baseL g
    let di := d.toNat
    if dsetOk s s.active (x.regs.d.get di) fld v.v then
      match fld with
      | .slot =>
        let b := s.box s.active v.v.toNat
        let w := Desc.whole v.v.toNat b (b.lab ||| l)
        s.modMe fun x => x.deliverD (.dput di w) (fun y => y.setD di w)
      | f => s.modMe fun x => x.deliverD (.dset di f v.v.toNat l) (fun y => y.setD di ((y.regs.d.get di).setFld f v.v.toNat l))
    else s.fail lanS fIllegalOperand 0 l)

/-- DGET (R129). -/
def execDget (_h : Hdr) (d : Dst) (e : BitVec 4) (w : BitVec 3) (g : POp) (s : State) : Out :=
  .next (guarded s g fun s => s.modMe fun x =>
    let h := x.regs.d.get e.toNat
    x.deliver d 2 ⟨h.word w.toNat, h.lab ||| x.baseL g⟩)

/-- A signed origin fits 30 bits (R130, R132). -/
def org30 (z : Int) : Bool := decide (-(2 ^ 29 : Int) ≤ z) && decide (z < 2 ^ 29)

/-- BOXSUB (R130). -/
def execBoxsub (_h : Hdr) (d e : BitVec 4) (a b : SOp) (co : Option Coord) (g : POp) (s : State) : Out :=
  .next (guarded s g fun s =>
    let x := s.me
    let va := x.readS a
    let vb := x.readS b
    let h := x.regs.d.get e.toNat
    let rank := (s.box s.active h.slot.toNat).rank
    let (c2, c3) : Int × Int := match co with | some c => (c.c2.toInt, c.c3.toInt) | none => (0, 0)
    let cl := if co.isSome then x.vol.codeL else 0#8
    let off : Quad Int := ⟨va.v.toInt, vb.v.toInt, c2, c3⟩
    let l := va.l ||| vb.l ||| cl ||| x.baseL g
    let o : Quad Int := Quad.ofFn fun i => h.orgZ i + off.get i * h.stepZ i
    let ok := h.valid && (List.range 4).all fun i =>
      (decide (i < rank) || decide (off.get i = 0)) && org30 (o.get i)
    if ok then
      let n : Desc := { h with org := Quad.ofFn fun i => BitVec.ofInt 30 (o.get i), lab := h.lab ||| l }
      s.modMe fun x => x.deliverD (.dput d.toNat n) (fun y => y.setD d.toNat n)
    else s.fail lanS fIllegalOperand 0 l)

/-- BOXDIM (R131). -/
def execBoxdim (_h : Hdr) (d : Dst) (e : BitVec 4) (dim : BitVec 2) (g : POp) (s : State) : Out :=
  .next (guarded s g fun s =>
    let x := s.me
    let b := s.box s.active e.toNat
    let l := b.lab ||| x.baseL g
    if b.present then
      let v := if dim.toNat < b.rank then b.ext.get dim.toNat else 1
      s.modMe fun x => x.deliver d 2 ⟨BitVec.ofNat 64 v, l⟩
    else s.fail lanS fIllegalOperand 0 l)

/-- DADV (R132). -/
def execDadv (_h : Hdr) (d : BitVec 4) (a : SOp) (dim : BitVec 2) (g : POp) (s : State) : Out :=
  .next (guarded s g fun s =>
    let x := s.me
    let v := x.readS a
    let l := v.l ||| x.baseL g
    let h := x.regs.d.get d.toNat
    let rank := (s.box s.active h.slot.toNat).rank
    let o := h.orgZ dim.toNat + v.v.toInt * h.stepZ dim.toNat
    if h.valid && decide (dim.toNat < rank) && org30 o then
      let n := unsigned 30 o
      s.modMe fun x => x.deliverD (.dset d.toNat (.org dim) n l)
        (fun y => y.setD d.toNat ((y.regs.d.get d.toNat).setFld (.org dim) n l))
    else s.fail lanS fIllegalOperand 0 l)

end Sys2Proof.Machine
end

