-- ==== Sys2Proof/Machine/SMem.lean ====
section
/-! DEFINITION. Scalar memory, counters and the format queue (spec 05, R133-R139; directing tasks R114). -/

namespace Sys2Proof.Machine

/-- Coordinates of an SM word (R77, R133) with the labels they carry. -/
def Unit.coords (x : Unit) (a b : SC) (co : Option Coord) : Quad Int × Label :=
  let va := x.readC a
  let vb := x.readC b
  let (c2, c3) : Int × Int := match co with | some c => (c.c2.toInt, c.c3.toInt) | none => (0, 0)
  (⟨va.v.toInt, vb.v.toInt, c2, c3⟩, va.l ||| vb.l ||| (if co.isSome then x.vol.codeL else 0#8))

/-- Coordinates of a counter word: index in dimension 0 (R133). -/
def Unit.coords1 (x : Unit) (a : SC) (co : Option Coord) : Quad Int × Label :=
  let va := x.readC a
  let (c2, c3) : Int × Int := match co with | some c => (c.c2.toInt, c.c3.toInt) | none => (0, 0)
  (⟨va.v.toInt, 0, c2, c3⟩, va.l ||| (if co.isSome then x.vol.codeL else 0#8))

/-- Layouts LDS and STS exclude (R134). -/
def scalarLay (l : Nat) : Bool := !layZmask l && decide (l ≠ 0x30)

/-- Whether LDS sign-extends (R134). -/
def laySigned (l : Nat) : Bool := decide (0x01 ≤ l) && decide (l ≤ 0x04)

/-- An element extended to 64 bits (R134). -/
def extendElem (sx : Bool) (w v : Nat) : BitVec 64 := if sx then BitVec.ofInt 64 (signed w v) else BitVec.ofNat 64 v

/-- A steering sequencer waits at this word for a page (R114, R320); the word runs again after REPLAY. A record or a walk
of the page that stands already is waited for with it (R319). -/
def State.stallSeq (s : State) (va acc : Nat) : State :=
  let u := s.active
  let page := va / 65536
  let st : Stall := ⟨dieOf u, s.asidOf u, page, va, acc, .seq u, (s.taskOf u).taskid.toNat, s.tagNext, 0, false, true⟩
  let s := s.modUnit u fun x => { x with mode := .stall page, pc := x.iss.pc }
  match s.stalls.find? (fun e => e.die = st.die && e.asid = st.asid && e.page = page) with
  | some e => { s with stalls := s.stalls ++ [{ st with posted := e.posted, walked := e.walked, tag := e.tag }] }
  | none => { s with stalls := s.stalls ++ [st], tagNext := s.tagNext + 1 }

/-- A sequencer's access that did not complete (R114): a wait, or a fault at once. -/
def State.seqErr (s : State) (e : XErr) (acc : Nat) (l : Label) (slot : Nat) (bd : BoxDet) : State :=
  match e with
  | .wait => s.modMe fun x => { x with pc := x.iss.pc }
  | .absent va => s.stallSeq va acc
  | .flt code sub det _ => s.raise s.active { s.me.flt lanS code sub l with det := det, slot := slot, bd := bd } true

/-- A scalar read of an element (R135, R138): sampled at issue + 2, readable at issue + 6; at once where untimed. -/
def State.sread (s : State) (d : Dst) (b : Box) (c : Quad Int) (slot : Nat) (sx : Bool) (l : Label) : State :=
  let u := s.active
  if b.has c then
    let loc := b.loc c
    if s.me.iss.timed then
      s.modMe fun x => x.due (x.iss.cyc + 2) phSample lnS
        (.sload (if d.nw then some (physS x d.nidx.toNat) else none) loc sx l)
    else
      match s.readBox (s.ctxOf u) u b loc.addr loc.bytes with
      | (s, .error e) => s.seqErr e 0 l slot (b.detail c)
      | (s, .ok r) =>
        if Label.sub r.lab b.lab then s.modMe fun x => x.deliver d 6 ⟨extendElem sx loc.width (loc.of r.data), l⟩
        else s.failBox lanS fLabelFlow 3 l slot (b.detail c)
  else s.modMe fun x => (x.stickyNow kRead lanS lanS slot 0 l (b.detail c)).deliver d 6 ⟨0#64, l⟩

/-- LDS (R135). -/
def execLds (_h : Hdr) (d : Dst) (slot : BitVec 4) (x y : SC) (co : Option Coord) (g : POp) (s : State) : Out :=
  .next (guarded s g fun s =>
    let b := s.box s.active slot.toNat
    let (c, cl) := s.me.coords x y co
    let l := b.lab ||| cl ||| s.me.baseL g
    if !b.present || b.mode = .stream || !scalarLay b.layout then s.fail lanS fIllegalOperand 0 l
    else s.sread d b c slot.toNat (laySigned b.layout) l)

/-- The element lies inside an argument region of the open group (R293), whichever slot names it. -/
def State.inGroupArg (s : State) (u slot : Nat) (c : Quad Int) : Bool :=
  let t := s.taskOf u
  let here := (s.box u slot).region c ⟨1, 1, 1, 1⟩ ⟨1, 1, 1, 1⟩
  t.group.any fun k => (s.task k).boxes.any fun e =>
    match e.2.path with
    | h :: _ => e.2.mode ≠ .loc && here.meets (regionOfBox e.2 (s.box u h.slot))
    | [] => false

/-- STS (R135): performs at issue + 4; at once where untimed. -/
def execSts (_h : Hdr) (slot : BitVec 4) (x y : SC) (c : SB) (co : Option Coord) (g : POp) (s : State) : Out :=
  .next (guarded s g fun s =>
    let u := s.active
    let b := s.box u slot.toNat
    let (cs, cl) := s.me.coords x y co
    let v := s.me.readB c
    let l := v.l ||| cl ||| s.me.baseL g
    let det := b.detail cs
    if !b.present || b.mode = .stream || !scalarLay b.layout then s.fail lanS fIllegalOperand 0 l
    else if isSeq u && s.inGroupArg u slot.toNat cs then s.fail lanS fIllegalOperand 0 l
    else if b.mode = .in_ then s.failBox lanS fPermission 0 l slot.toNat det
    else if !Label.sub l b.lab then s.failBox lanS fLabelFlow 1 l slot.toNat det
    else if b.has cs then
      let loc := b.loc cs
      if s.me.iss.timed then s.modMe fun x => x.due (x.iss.cyc + 4) phWrite lnS (.sbits [(loc, v.v.toNat)])
      else
        match (if isSeq u then s.seqEgress u b l loc.addr loc.bytes else (s, none)) with
        | (s, some e) => s.seqErr e 1 l slot.toNat det
        | (s, none) =>
          match s.writeBox (s.ctxOf u) u b l loc.addr (loc.bytesOf v.v.toNat) loc.maskOf with
          | (s, none) => s
          | (s, some e) => s.seqErr e 1 l slot.toNat det
    else s.modMe fun x => x.stickyNow kWrite lanS lanS slot.toNat 0 l det)

/-- A counter saturates (R137). -/
def satAdd (a b : Nat) : Nat := min (a + b) (2 ^ 64 - 1)

/-- An addition to a counter of a box, at its owning controller (R333). -/
def State.counterAdd (s : State) (ctx : Ctx) (u : Nat) (b : Box) (l : Label) (a v : Nat) : State × Option XErr :=
  match b.scope with
  | .scratch => (s.modUnit u fun x => { x with spad := Mem.write x.spad a (leBytes 8 (satAdd (Mem.nat x.spad a 8) v)) }, none)
  | .clstore =>
    let m := s.clstore.get b.home
    ({ s with clstore := s.clstore.put b.home (Mem.write m a (leBytes 8 (satAdd (Mem.nat m a 8) v))) }, none)
  | _ =>
    match s.xlate ctx a with
    | (s, .leaf p page) =>
      if !p.allows .wr then (s, some (.flt fPermission 0 0 a))
      else if s.shut ctx p then (s, some .wait)
      else if p.tgt = 0 && !Label.sub l p.lab then (s, some (.flt fLabelFlow 2 0 a))
      else if !s.inMemory p page a 8 then (s, some (.flt fTranslation 3 (vaDet a) a))
      else
        match s.readPage ctx p page a 8 true with
        | (s, .error e) => (s, some e)
        | (s, .ok r) => (s.writePage ctx p page a (leBytes 8 (satAdd (leNat r.data) v)), none)
    | (s, w) => (s, some (walkErr w a))

/-- A counter read at its controller (R333, R138); the page's label is held against the box's (R322). -/
def State.counterGet (s : State) (ctx : Ctx) (u : Nat) (b : Box) (a : Nat) : State × Except XErr Nat :=
  match s.readBox ctx u b a 8 with
  | (s, .error e) => (s, .error e)
  | (s, .ok r) =>
    if Label.sub r.lab b.lab then (s, .ok (leNat r.data)) else (s, .error (.flt fLabelFlow 3 0 a))

/-- CADD (R137): at issue + 4, deferred to the commit under phase protection. -/
def execCadd (_h : Hdr) (slot : BitVec 4) (x : SC) (c : SB) (co : Option Coord) (g : POp) (s : State) : Out :=
  .next (guarded s g fun s =>
    let u := s.active
    let b := s.box u slot.toNat
    let (cs, cl) := s.me.coords1 x co
    let v := s.me.readB c
    let l := v.l ||| cl ||| s.me.baseL g
    let det := b.detail cs
    if !b.present || b.layout ≠ 0x30 || (!isSeq u && b.mode = .stream) then s.fail lanS fIllegalOperand 0 l
    else if b.mode = .in_ then s.failBox lanS fPermission 0 l slot.toNat det
    else if !Label.sub l b.lab then s.failBox lanS fLabelFlow 1 l slot.toNat det
    else if b.has cs then
      let a := b.addr cs
      if isSeq u then
        match s.seqEgress u b l a 8 with
        | (s, some e) => s.seqErr e 1 l slot.toNat det
        | (s, none) =>
          match s.counterAdd (s.ctxOf u) u b l a v.v.toNat with
          | (s, none) => s
          | (s, some e) => s.seqErr e 1 l slot.toNat det
      else if s.prot u then
        s.modMe fun x => if x.iss.timed then x.due x.iss.cyc phNow lnS (.defer a v.v.toNat)
          else { x with defer := x.defer ++ [(a, v.v.toNat)] }
      else if s.me.iss.timed then s.modMe fun x => x.due (x.iss.cyc + 4) phWrite lnS (.cadd a v.v.toNat)
      else (s.counterAdd (s.ctxOf u) u b l a v.v.toNat).1
    else s.modMe fun x => x.stickyNow kWrite lanS lanS slot.toNat 0 l det)

/-- CRD (R138). -/
def execCrd (_h : Hdr) (d : Dst) (slot : BitVec 4) (x : SC) (co : Option Coord) (g : POp) (s : State) : Out :=
  .next (guarded s g fun s =>
    let u := s.active
    let b := s.box u slot.toNat
    let (cs, cl) := s.me.coords1 x co
    let l := b.lab ||| cl ||| s.me.baseL g
    if !b.present || b.layout ≠ 0x30 || (!isSeq u && b.mode = .stream) then s.fail lanS fIllegalOperand 0 l
    else s.sread d b cs slot.toNat false l)

/-- FMTQ (R139): the word enters the format queue at issue + 2; between segments the next SYNC discards it (R126), and a
push that finds 16 entries there overflows as in a segment. -/
def execFmtq (_h : Hdr) (a : SB) (g : POp) (s : State) : Out :=
  .next (guarded s g fun s =>
    let x := s.me
    let v := x.readB a
    let w : Fmt := ⟨v.v, v.l ||| x.baseL g⟩
    if !x.iss.timed && decide (x.que.fmtq.length ≥ 16) then s.fail lanS fFormatOverflow 0 w.l
    else s.modMe fun x =>
      if x.iss.timed then x.due (x.iss.cyc + 2) phPush lnS (.fpush w)
      else { x with que := { x.que with fmtq := x.que.fmtq ++ [w] } })

end Sys2Proof.Machine
end

