-- ==== Sys2Proof/Machine/System.lean ====
section
/-! DEFINITION. S-lane label and system words (spec 08, R235-R238) and the system registers behind SYSRD and SYSWR
(spec 02, R63-R65). -/

namespace Sys2Proof.Machine

/-- LBLGET (R235). -/
def execLblget (_h : Hdr) (f : SA1) (s : State) : Out :=
  .next (guarded s f.g fun s => s.modMe fun x =>
    let a := x.readS f.a
    x.deliver f.d 1 ⟨a.l.setWidth 64, a.l ||| x.baseL f.g⟩)

/-- LBLRAISE (R235): for words fetched from issue + 1. -/
def execLblraise (_h : Hdr) (mask : BitVec 8) (g : POp) (s : State) : Out :=
  .next (guarded s g fun s => s.modMe fun x => x.raiseLbl mask)

/-- PHASE (R63). -/
def Vol.phaseWord (v : Vol) : Nat := v.commits % 2 ^ 16 + 2 ^ 16 * v.attempt

/-- Whether the unit's context has debug enabled (R281). -/
def State.debugOn (s : State) (u : Nat) : Bool := (s.asids.get (s.asidOf u)).debug

/-- Registers a steering sequencer lacks (R65). -/
def seqBarred (n : Nat) : Bool := n = 0x09 || n = 0x0A || n = 0x0B || n = 0x0C

/-- A system register with its register label (R63, R65). -/
def State.sysReg (s : State) (u n : Nat) : Lv 64 :=
  let x := s.unit u
  match n with
  | 0x00 => ⟨BitVec.ofNat 64 (if isSeq u then 0 else if x.iss.timed then x.iss.cyc else (Config.idleSegcyc s.frees).toNat), 0#8⟩
  | 0x01 => ⟨x.regs.lcnt.setWidth 64, 0#8⟩
  | 0x02 => ⟨x.regs.dcnt.setWidth 64, 0#8⟩
  | 0x03 => ⟨x.regs.rbase.setWidth 64, 0#8⟩
  | 0x04 => ⟨x.regs.pbase.setWidth 64, 0#8⟩
  | 0x05 => ⟨BitVec.ofNat 64 x.vol.phaseWord, 0#8⟩
  | 0x06 => ⟨x.vol.boxerr, x.vol.boxerrL⟩
  | 0x07 => ⟨x.vol.lblpc.setWidth 64, x.vol.lblpc⟩
  | 0x08 => x.vol.chst
  | 0x09 => ⟨x.vol.mstat, x.vol.mstatL⟩
  | 0x0A => ⟨x.regs.vstat.setWidth 64, x.regs.vstatL⟩
  | 0x0B => ⟨x.regs.vmode, x.regs.seedLab⟩
  | 0x0C => if s.debugOn u then x.vol.accinj else ⟨0#64, 0#8⟩
  | 0x0D => ⟨(s.taskOf u).taskid.setWidth 64, 0#8⟩
  | 0x0E => ⟨BitVec.ofNat 64 (coreId u), 0#8⟩
  | _ => ⟨BitVec.ofNat 64 (s.taskOf u).level, 0#8⟩

/-- SYSRD (R236, R65). -/
def execSysrd (_h : Hdr) (d : Dst) (n : BitVec 8) (g : POp) (s : State) : Out :=
  .next (guarded s g fun s =>
    let u := s.active
    let k := n.toNat
    let l := s.me.baseL g
    if k ≥ 0x10 || (isSeq u && seqBarred k) then s.fail lanS fIllegalOperand 0 l
    else
      let r := s.sysReg u k
      let s := if k = 0 then { s with frees := s.frees + 1 } else s
      s.modMe fun x => x.deliver d 2 ⟨r.v, r.l ||| l⟩)

/-- Tile of the primary and the secondary window (R64). -/
def winP (vm : BitVec 64) : Nat := bits vm.toNat 7 4
def winS (vm : BitVec 64) : Nat := bits vm.toNat 11 8

/-- VMODE with its reserved fields reading zero (R6, R64). -/
def vmodeMask (v : BitVec 64) : BitVec 64 := v &&& 0xFFFFFFFF00000FF7#64

/-- The checks of a SYSWR of VMODE (R64). -/
def vmodeOk (x : Unit) (v : BitVec 64) : Bool :=
  decide (bits v.toNat 2 0 ≤ 4)
  && (decide (winP v = winP x.regs.vmode) || decide (winP v < x.regs.acc))
  && (decide (winS v = winS x.regs.vmode) || decide (winS v < x.regs.acc))

/-- The fault of a SYSWR, if any (R63-R65). -/
def State.syswrBad (s : State) (u n : Nat) (v : BitVec 64) : Option Nat :=
  let x := s.unit u
  if n ≥ 0x10 then some fIllegalOperand
  else if isSeq u && seqBarred n then some fIllegalOperand
  else if n = 0x00 || n = 0x05 || n = 0x07 || n = 0x08 || n = 0x0D || n = 0x0E || n = 0x0F then some fIllegalOperand
  else if n = 0x06 && v ≠ 0#64 then some fIllegalOperand
  else if n = 0x0B && !vmodeOk x v then some fIllegalOperand
  else if n = 0x0C && !s.debugOn u then some fPermission
  else none

/-- VMODE written: the seed field reseeds every generator (R23, R64). -/
def Unit.setVmode (x : Unit) (v : Lv 64) : Unit :=
  { x with regs := { x.regs with
      vmode := vmodeMask v.v, seedLab := v.l, gens := seedGens (BitVec.ofNat 32 (v.v.toNat / 2 ^ 32)) } }

/-- The effect of a SYSWR; reserved fields read as zero (R6, R63, R64, R191, R192). -/
def Unit.sysSet (x : Unit) (n : Nat) (v : Lv 64) : Unit :=
  match n with
  | 0x01 => { x with regs := { x.regs with lcnt := v.v.setWidth 32 } }
  | 0x02 => { x with regs := { x.regs with dcnt := v.v.setWidth 16 } }
  | 0x03 => { x with regs := { x.regs with rbase := v.v.setWidth 4 } }
  | 0x04 => { x with regs := { x.regs with pbase := v.v.setWidth 4 } }
  | 0x06 => { x with vol := { x.vol with boxerr := 0#64, boxerrL := v.l, boxdet := default } }
  | 0x09 => { x with vol := { x.vol with mstat := v.v &&& 0x7FFFFFFFF#64, mstatL := v.l } }
  | 0x0A => { x with regs := { x.regs with vstat := v.v.setWidth 5, vstatL := v.l } }
  | 0x0B => x.setVmode v
  | 0x0C => { x with vol := { x.vol with accinj := ⟨v.v &&& 0x807FFFFFFFFFFFFF#64, v.l⟩ } }
  | _ => x

/-- SYSWR (R236, R65): effect from issue + 2. -/
def execSyswr (_h : Hdr) (n : BitVec 8) (a : SB) (g : POp) (s : State) : Out :=
  .next (guarded s g fun s =>
    let u := s.active
    let v := s.me.readB a
    match s.syswrBad u n.toNat v.v with
    | some code => s.fail lanS code 0 (v.l ||| s.me.baseL g)
    | none => s.modMe fun x =>
        if x.iss.timed then x.due (x.iss.cyc + 2) phWrite lnS (.sys n.toNat v) else x.sysSet n.toNat v)

/-- TRAP (R237). -/
def execTrap (_h : Hdr) (code : BitVec 8) (g : POp) (s : State) : Out :=
  .next (guarded s g fun s => s.fail lanS fTrap code.toNat (s.me.vol.codeL ||| s.me.baseL g))

/-- BKPT (R237, R404): with debug, one note and the task is held; otherwise nothing. -/
def execBkpt (_h : Hdr) (g : POp) (s : State) : Out :=
  .next (guarded s g fun s => if s.debugOn s.active then s.fail lanS fBreak 0 (s.me.baseL g) else s)

/-- Scopes in order of width (R324). -/
def scopeN : Scope → Nat
  | .core => 0
  | .cluster => 1
  | .die => 2
  | .package => 3
  | .system => 4

/-- A fence as a word: it is complete when the words before it are (R200). -/
def XWord.isFence (w : XWord) : Bool := match w.kind with | .cfence _ => true | _ => false

/-- Incomplete words of a unit (R215, R238), fences apart. -/
def State.openWords (s : State) (u : Nat) : List Nat :=
  (s.xwords.filter fun e => e.2.unit = u && !e.2.done && !e.2.isFence).map (·.1)

/-- Transactions and unacknowledged flits of a word are on their way (R201, R335); a flit of a COUT.NA only until it has left
the port, which it has while the retry buffer holds it (R384). -/
def State.onWay (s : State) (k : Nat) : Bool :=
  s.colQ.any (fun t => decide (t.word = some k))
    || s.peers.any fun p => p.2.buf.zipIdx.any fun f => decide (f.1.word = some k) && (!f.1.na || decide (f.2 ≥ 4096))

/-- A flit of a word is not acknowledged by its peer (R384). -/
def State.flitOpen (s : State) (k : Nat) : Bool := s.peers.any fun p => p.2.buf.any fun f => decide (f.word = some k)

/-- A unit has a word that is not complete, or whose addition, deferred or not, transactions or flits are still to be performed
at some scope (R225, R332). -/
def State.unperformed (s : State) (u : Nat) : Bool :=
  s.xwords.any fun e => decide (e.2.unit = u) && !e.2.isFence &&
    (!e.2.done || e.2.cstat = .released || e.2.cstat = .pending || s.onWay e.1 || s.flitOpen e.1)

/-- A word is complete (R201); one no longer listed has been. -/
def State.isDone (s : State) (k : Nat) : Bool :=
  match Tab.find s.xwords k with
  | none => true
  | some w => if w.isFence then w.wait.all fun j => (match Tab.find s.xwords j with | some v => v.done | none => true)
    else w.done

/-- The token a word left is complete (R200): the word is; an unprotected CSIG's addition has been applied; a CSLICE has not
lost a slice. -/
def State.tokDone (s : State) (k : Nat) : Bool :=
  s.isDone k && (match Tab.find s.xwords k with
    | some w => match w.kind with
      | .csig _ => ((s.launch (s.task w.task).lid).entryOf (s.task w.task).index).prot || (w.cstat ≠ .released && !s.onWay k)
      | .cslice _ => !w.dead
      | _ => true
    | none => true)

/-- A fence of a unit (R215, R238, R332): later words of the unit wait for the earlier ones; UN reads after a fence of
scope DIE or wider miss lines filled before it (R327). The fence is a word of its own that is complete when they are. -/
def State.fence (s : State) (u : Nat) (sc : Scope) : State × Nat :=
  let x := s.unit u
  let w : XWord := { (default : XWord) with
    kind := .cfence sc, unit := u, task := x.task.getD 0, asid := s.asidOf u, issue := x.iss.cyc,
    segno := x.seg.segno, segs := x.segs, phase := x.vol.commits, wait := s.openWords u }
  let k := s.xnext
  let s := { s with xwords := s.xwords.put k w, xnext := k + 1 }
  (if scopeN sc ≥ 2 then s.modUnit u fun x => { x with unMark := s.unNext } else s, k)

/-- FENCE (R238): on a core it orders as CFENCE does and never delays issue; on a sequencer every earlier access has
already performed (R42, R114), so only the UN read cache is left to it. -/
def execFence (_h : Hdr) (sc : Scope) (g : POp) (s : State) : Out :=
  .next (guarded s g fun s =>
    if isSeq s.active then
      (if scopeN sc ≥ 2 then s.modMe fun x => { x with unMark := s.unNext } else s)
    else if !s.unperformed s.active then
      (if scopeN sc ≥ 2 then s.modMe fun x => { x with unMark := s.unNext } else s)
    else (s.fence s.active sc).1)

end Sys2Proof.Machine
end

