-- ==== Sys2Proof/Machine/Fetch.lean ====
section
/-! DEFINITION. Fetch, decode checks and deposit on a core (spec 09, R239-R241; 03, R97, R98; 19, R357). -/

namespace Sys2Proof.Machine

/-- An accumulator row operand names an odd row (R52). -/
def vopOdd (o : VOp) : Bool :=
  match o with
  | .row i => i.getLsbD 0
  | _ => false

def rowOdd (i : BitVec 8) : Bool := i.getLsbD 0

/-- An odd row as the index operand of a gather or scatter (R52, R167). -/
def ixOdd (ix : VIx) : Bool :=
  match ix with
  | .row i => rowOdd i
  | .vq _ => false

/-- An odd row in a pair form (R52). The last row of a window is odd too: the spec does not order its two faults, and
ILLEGAL_OPERAND is taken for a row 127 (DESIGN CHOICE, log 82). -/
def pairOdd (i : Instr) : Bool :=
  match i with
  | .viadd _ .i64 f _ | .visub _ .i64 f _ => rowOdd f.dest || vopOdd f.a || vopOdd f.b
  | .vimin _ .i64 f _ _ | .vimax _ .i64 f _ _ => rowOdd f.dest || vopOdd f.a || vopOdd f.b
  | .vicmp _ .i64 f _ _ => vopOdd f.a || vopOdd f.b
  | .vshl _ .i64 f | .vshr _ .i64 f | .vsar _ .i64 f | .vand _ .i64 f | .vor _ .i64 f | .vxor _ .i64 f
  | .vandn _ .i64 f => rowOdd f.dest || vopOdd f.a || vopOdd f.b
  | .vnot _ .i64 f | .vpopc _ .i64 f | .vclz _ .i64 f => rowOdd f.dest || vopOdd f.a
  | .vsel _ .w64 d a b _ => rowOdd d || vopOdd a || vopOdd b
  | .vmov _ .w64 f | .vbcast _ .w64 f _ | .vrotl _ .w64 f _ => rowOdd f.dest || vopOdd f.a
  | .viota _ .w64 d _ _ _ _ => rowOdd d
  | .vperm _ .w64 f => rowOdd f.dest || vopOdd f.a || vopOdd f.b
  | .vzip _ .w64 d a _ _ _ | .vunzip _ .w64 d a _ _ _ => rowOdd d || rowOdd a
  | .vld _ .w64 f _ _ | .vst _ .w64 f _ => rowOdd f.reg
  | .vgth _ .w64 f ix | .vsct _ .w64 f ix => rowOdd f.reg || ixOdd ix
  | _ => false

/-- RSR in a MOD or VMODE word (R423). -/
def usesRsr (i : Instr) : Bool :=
  let m (o : Option Mod) : Bool := match o with | some k => decide (k.rm = some .rsr) | none => false
  match i with
  | .vadd _ _ _ k | .vsub _ _ _ k | .vmul _ _ _ k | .vfma _ _ _ k | .vmin _ _ _ k | .vmax _ _ _ k | .vrcp _ _ _ k
  | .vcmp _ _ _ _ k | .vcvt _ _ _ _ _ _ k | .vredsum _ _ _ _ _ k | .vredmax _ _ _ _ _ k | .vredmin _ _ _ _ _ k
  | .vredamax _ _ _ _ _ k | .vscan _ _ _ k => m k
  | .vmode _ r _ => decide (r = some .rsr)
  | _ => false

/-- A word of a disabled feature (R423). -/
def State.disabled (s : State) (i : Instr) : Bool :=
  (usesRsr i && !s.feature 6) ||
  match i with
  | .mloadb .. | .mzero .. | .mcopy .. | .mtype .. | .accrel .. | .accwake .. | .accgate .. | .fmtq .. => !s.feature 1
  | .mma _ _ _ _ _ _ _ chk _ => !s.feature 1 || (chk && !s.feature 2)
  | .mchkv .. => !s.feature 1 || !s.feature 2
  | .txload .. | .txrun .. => !s.feature 3
  | .xsend .. | .xrecv .. | .realign .. => !s.feature 4
  | .ratom .. => !s.feature 5
  | .gspawn .. | .rrot .. | .cslice .. => !s.feature 7
  | _ => false

/-- A word barred from the kind of task (R97). -/
def barred (seq : Bool) (lane : Nat) (i : Instr) : Bool :=
  if seq then
    decide (lane ≠ 0) || (match i with
      | .sync .. | .segend .. | .pcommit .. | .pcancel .. | .realign .. | .fmtq .. => true
      | _ => false)
  else match i with
    | .arg .. | .spawn .. | .gspawn .. | .cont .. => true
    | _ => false

/-- The tile operands a word names at fetch (R58). -/
def tilesOf (i : Instr) : List Nat :=
  match i with
  | .mma _ t .. | .mzero _ t | .mchkv _ t .. | .mtype _ t _ | .accwake _ t | .accgate _ t _ => [t.toNat]
  | .mcopy _ d t => [d.toNat, t.toNat]
  | .vwin _ p q => (p.toList ++ q.toList).map (·.toNat)
  | _ => []

/-- An offset whose target lies outside the task's code (R122, R232). -/
def badTarget (pc n : Nat) (i : Instr) : Bool :=
  match i with
  | .br _ _ off | .callt _ _ off | .loopb _ _ off | .cont _ off _ =>
    decide ((pc : Int) + off.toInt < 0) || decide ((pc : Int) + off.toInt ≥ n)
  | _ => false

/-- The decode fault of an instruction where it stands, if any (R97): what the encoding alone does not show. -/
def State.wordBad (s : State) (u pc lane acc : Nat) (i : Instr) : Option Nat :=
  if s.disabled i || barred (isSeq u) lane i || badTarget pc (s.unit u).codeN i then some fIllegalWord
  else if (tilesOf i).any (fun t => decide (t ≥ acc)) then some fIllegalOperand
  else if pairOdd i then some fIllegalOperand
  else match i with
    | .accrel _ n => if n.toNat > acc then some fIllegalOperand else none
    | _ => none

/-- The same for a word fetched in a segment, where WAITGE raises WAIT_ORDER when it is reached (R108). -/
def State.segBad (s : State) (u pc lane acc : Nat) (i : Instr) : Option Nat :=
  match s.wordBad u pc lane acc i with
  | some c => some c
  | none => match i with
    | .waitge .. => some fWaitOrder
    | _ => none

/-- The allotment as an ACCREL fetched leaves it (R59). -/
def accAfter (acc : Nat) (i : Instr) : Nat :=
  match i with
  | .accrel _ n => min acc n.toNat
  | _ => acc

def isControl (i : Instr) : Bool :=
  match i with
  | .br .. | .callt .. | .rett .. | .loopb .. => true
  | _ => false

/-- Instruction length from its primary word (R66, R100). -/
def wordLen (w : Word) : Nat := 1 + w.toNat / 2 ^ 42 % 4

/-- Whether the word at the fetch point is blocked (R240). -/
def Unit.fetchBlocked (x : Unit) : Bool :=
  let g := x.seg
  let w := (x.fetchWords g.npc).headD 0#64
  let i := x.instrAt g.npc
  if g.stopped then true
  else
    (match g.ctl with
      | some c => decide (g.npc + g.got - c > 8) || (decide (g.got = 0) && (match i with | some i => isControl i | none => false))
      | none => false)
    || (decide (g.got = 0) && (match laneOf w with
      | 0 => decide (g.sb.length + (g.held.filter fun q => laneOf (q.words.headD 0#64) = 0).length ≥ 16)
      | 1 => decide (g.vb.length ≥ 64)
      | 2 => decide (g.mb.length ≥ 64)
      | _ => decide (g.cb.length ≥ 64)))

/-- The guard label a word fetched at cycle `f` takes from a control word that issued then and is not taken (R357). -/
def Seg.guardAt (g : Seg) (f : Nat) : Label := if g.gl.1 = f then g.gl.2 else 0#8

/-- One word fetched into the group of cycle f (`first` = f + 2): the state, and the decode fault it raises with
the lane of its word. -/
def State.fetchWord (s : State) (u first : Nat) : State × Option (Nat × Nat) :=
  let x := s.unit u
  let g := x.seg
  if g.npc + g.got ≥ x.codeN then
    -- a word past the end of the code (R240)
    match g.ctl with
    | some _ => (s.modUnit u fun x => { x with seg := { g with stopped := true, held := g.held ++ [⟨g.npc, [], first, 0#8, some fIllegalWord⟩] } }, none)
    | none => (s, some (fIllegalWord, lanS))
  else
    let ws := x.fetchWords g.npc
    let len := wordLen (ws.headD 0#64)
    if g.got + 1 < len then (s.setUnit u { x with seg := { g with got := g.got + 1 } }, none)
    else
      let lane := laneOf (ws.headD 0#64)
      let bad : Option Nat × Nat × Bool × Bool := match decode ws with
        | .error _ => (some fIllegalWord, g.accF, false, false)
        | .ok (i, _) => (s.segBad u g.npc lane g.accF i, accAfter g.accF i, isControl i,
            match i with | .segend .. => true | _ => false)
      let q : QWord := ⟨g.npc, ws.take len, first, x.vol.lblpc ||| g.guardAt (first - 2), bad.1⟩
      let g1 := { g with npc := g.npc + len, got := 0 }
      match g.ctl with
      | some _ =>
        let stop := bad.1.isSome || bad.2.2.2
        (s.setUnit u { x with seg := { g1 with accF := bad.2.1, held := g.held ++ [q], stopped := stop } }, none)
      | none =>
        match bad.1 with
        | some code => (s, some (code, lane))
        | none =>
          let g2 := (if g.ended.isSome then g1 else g1.deposit q)
          (s.setUnit u { x with seg := { g2 with
              accF := bad.2.1, accC := bad.2.1, ctl := if bad.2.2.1 then some q.pc else none, stopped := bad.2.2.2 } }, none)

/-- A fetch group: up to `n` words until a blocking word or a fault (R239, R240). -/
def State.fetchUpTo (s : State) (u first n : Nat) : State × Option (Nat × Nat) :=
  match n with
  | 0 => (s, none)
  | n + 1 =>
    if (s.unit u).fetchBlocked then (s, none)
    else match s.fetchWord u first with
      | (s, some c) => (s, some c)
      | (s, none) => s.fetchUpTo u first n

/-- The fetch group of cycle `f` on a unit (R239): the abort of a decode fault takes effect after the issues of f
(R98). -/
def State.fetchAt (s : State) (u f : Nat) : State :=
  match s.fetchUpTo u (f + 2) 4 with
  | (s, none) => s.modUnit u fun x => { x with seg := { x.seg with fetchC := f + 1 } }
  | (s, some (code, lane)) =>
    let s := s.modUnit u fun x => { x with iss := { x.iss with cyc := f, timed := true } }
    s.raise u ((s.unit u).flt lane code 0 ((s.unit u).vol.lblpc ||| (s.unit u).seg.guardAt f)) false

end Sys2Proof.Machine
end

