-- ==== Sys2Proof/Machine/Special.lean ====
section
/-! DEFINITION. VEXP2, VLOG2, VTANH and VSIGM (R35): the exact value of the function rounded to nearest. The value is
bounded below by a number of at least 190 significant bits within 2^21 units of its last place, and that bound with a
non-zero tail is rounded: the correctly rounded value unless a rounding boundary lies in so narrow a gap (DEDUCED, log 9). Operands
whose result lies very close to a known number are answered without the series. -/

namespace Sys2Proof.Machine

/-- Fraction bits of the fixed-point arithmetic. -/
def fxP : Nat := 256

/-- The error bound of a computed value, in units of the last place. -/
def fxErr : Nat := 2 ^ 20

/-- z + z^3/3 + z^5/5 + … for a fixed-point z below 1/3, `n` terms. -/
def fxAtanh (z : Nat) (n : Nat) : Nat :=
  let z2 := (z * z) >>> fxP
  ((List.range n).foldl (fun (a : Nat × Nat) k => (a.1 + a.2 / (2 * k + 1), (a.2 * z2) >>> fxP)) (0, z)).1

/-- ln 2 in fixed point: 2 atanh(1/3). -/
def fxLn2 : Nat := 2 * fxAtanh (2 ^ fxP / 3) 90

/-- e^z for a fixed-point z in [0, 1). -/
def fxExp (z : Nat) : Nat :=
  ((List.range 64).foldl (fun (a : Nat × Nat) k =>
    let t := ((a.2 * z) >>> fxP) / (k + 1)
    (a.1 + t, t)) (2 ^ fxP, 2 ^ fxP)).1

/-- A fixed-point number from a finite value (rounded down). -/
def fxOf (m : Nat) (e : Int) : Nat :=
  (m <<< (e + fxP).toNat) >>> (-(e + fxP)).toNat

/-- 2^y for y ≥ 0 given as a fixed-point number: fraction part as a fixed-point value in [1, 2) and whole part. -/
def fxExp2 (y : Nat) : Nat × Nat :=
  (fxExp (((y % 2 ^ fxP) * fxLn2) >>> fxP), y >>> fxP)

/-- e^(−a) for a fixed-point a ≥ 0, below 2^9: a fixed-point value. -/
def fxExpNeg (a : Nat) : Nat :=
  let y := (a <<< fxP) / fxLn2
  let (v, n) := fxExp2 y
  ((2 ^ (2 * fxP)) / v) >>> n

/-- 2^x as a value to round. -/
def exp2Real (x : XVal) : XReal :=
  match x with
  | .nan => .ex .nan
  | .inf s => if s then .ex (.fin false 0 0) else .ex (.inf false)
  | .fin s m e =>
    if m = 0 then .ex (.fin false 1 0)
    else
      let top : Int := (Nat.log2 m : Int) + e
      if top ≥ 9 then (if s then .tail false 1 (-600) else .ex (.fin false 1 600))
      else if top < -60 then (if s then .tail false (2 ^ 64 - 1) (-64) else .tail false (2 ^ 64) (-64))
      else
        let mask := 2 ^ (-e).toNat
        let k := (m <<< e.toNat) / mask
        if (m <<< e.toNat) % mask = 0 then .ex (.fin false 1 (if s then -(k : Int) else k))
        else
          let y := fxOf m e
          let (v, n) := fxExp2 y
          if s then .tail false (2 ^ (2 * fxP) / v - fxErr) (-(fxP : Int) - n)
          else .tail false (v - fxErr) ((n : Int) - fxP)

/-- log2 of a value, with its flags. -/
def log2Real (x : XVal) : XReal × Flags :=
  match x with
  | .nan => (.ex .nan, 0#5)
  | .inf s => if s then (.ex .nan, flInvalid) else (.ex (.inf false), 0#5)
  | .fin s m e =>
    if m = 0 then (.ex (.inf true), flDivzero)
    else if s then (.ex .nan, flInvalid)
    else
      let b := Nat.log2 m
      let n : Int := (b : Int) + e
      if m = 2 ^ b then (.ex (XVal.ofInt n), 0#5)
      else
        let g := (m <<< fxP) >>> b
        let one := 2 ^ fxP
        let z := ((g - one) <<< fxP) / (g + one)
        let l := ((2 * fxAtanh z 90) <<< fxP) / fxLn2
        let t : Int := n * (one : Int) + l
        if t < 0 then (.tail true (t.natAbs - fxErr) (-(fxP : Int)), 0#5)
        else (.tail false (t.natAbs - fxErr) (-(fxP : Int)), 0#5)

/-- The hyperbolic tangent. -/
def tanhReal (x : XVal) : XReal :=
  match x with
  | .nan => .ex .nan
  | .inf s => .ex (.fin s 1 0)
  | .fin s m e =>
    if m = 0 then .ex (.fin s 0 0)
    else
      let top : Int := (Nat.log2 m : Int) + e
      if top ≥ 5 then .tail s (2 ^ 64 - 1) (-64)
      else if top < -60 then .tail s ((m <<< 64) - 1) (e - 64)
      else
        let t := fxExpNeg (2 * fxOf m e)
        let one := 2 ^ fxP
        .tail s ((((one - t) <<< fxP) / (one + t)) - fxErr) (-(fxP : Int))

/-- 1 / (1 + e^(−x)). -/
def sigmReal (x : XVal) : XReal :=
  match x with
  | .nan => .ex .nan
  | .inf s => if s then .ex (.fin false 0 0) else .ex (.fin false 1 0)
  | .fin s m e =>
    if m = 0 then .ex (.fin false 1 (-1))
    else
      let top : Int := (Nat.log2 m : Int) + e
      if top ≥ 8 then (if s then .tail false 1 (-600) else .tail false (2 ^ 64 - 1) (-64))
      else if top < -60 then (if s then .tail false (2 ^ 63 - 1) (-64) else .tail false (2 ^ 63) (-64))
      else
        let one := 2 ^ fxP
        if s then
          -- e^(−x) is v × 2^n, so that 1 / (1 + e^(−x)) is 2^−n / (2^−n + v)
          let (v, n) := fxExp2 ((fxOf m e <<< fxP) / fxLn2)
          .tail false (2 ^ (2 * fxP) / (v + one >>> n) - fxErr) (-(fxP : Int) - n)
        else .tail false ((one <<< fxP) / (one + fxExpNeg (fxOf m e)) - fxErr) (-(fxP : Int))

end Sys2Proof.Machine
end

