-- ==== Sys2Proof/Machine/Flags.lean ====
section
/-! DEFINITION. The flags of the P8: the sticky flags of the V lane (spec 01, R25; 02, R63) and the MCHKV summary
(spec 07, R190). The S lane and the matrix engine set no sticky flag, and no word but a SYSWR clears one. -/

namespace Sys2Proof.Machine

/-- Flags joined to VSTAT under the label of the result that set them (R25, R63). -/
def Unit.addVstat (x : Unit) (fl : Flags) (l : Label) : Unit :=
  if fl = 0#5 then x
  else { x with regs := { x.regs with vstat := x.regs.vstat ||| fl, vstatL := x.regs.vstatL ||| l } }

/-- INVALID for a NaN generated from operands that are none (R25). -/
def genNan (y : XVal) (srcs : List XVal) : Flags :=
  if y.isNan && !(srcs.any XVal.isNan) then flInvalid else 0#5

/-- SAT on a rounded pattern (R72): an infinity becomes ±max and sets OVERFLOW. -/
def FP.satur (f : FP) (r : Rnd) : Rnd :=
  if f.inf && decide (r.pat % f.signBit = f.infPat) then
    ⟨f.withSign (decide (r.pat / f.signBit = 1)) f.maxPat, r.fl ||| flOverflow⟩
  else r

end Sys2Proof.Machine
end

