-- ==== Sys2Proof/Machine/VOperands.lean ====
section
/-! DEFINITION. Operands, masks and row results of the V lane (spec 06, R141-R146; 02, R50-R56; 03, R70-R73). A row is
its elements, lowest first; a pair form works on two rows. -/

namespace Sys2Proof.Machine

/-! ## Elements -/

/-- Elements packed from bit 0, `w` bits each (R16, R51). -/
def pack (w : Nat) (l : List Nat) : Nat := l.foldr (fun v a => v % 2 ^ w + a * 2 ^ w) 0

/-- The first `n` elements of `w` bits. -/
def unpack (w n v : Nat) : List Nat := (List.range n).map fun j => v / 2 ^ (w * j) % 2 ^ w

/-- All `n` fields of `w` bits set where `sel` says so. -/
def fieldMask (w : Nat) (sel : List Bool) : Nat := pack w (sel.map fun b => if b then 2 ^ w - 1 else 0)

def vfFp : VF → FP
  | .f32 => .f32
  | .bf16 => .bf16
  | .f16 => .f16

def viW : VI → Nat
  | .i8 => 8
  | .i16 => 16
  | .i32 => 32
  | .i64 => 64

def vwW : VW → Nat
  | .w32 => 32
  | .w16 => 16
  | .w8 => 8
  | .w64 => 64

/-- Lanes of a row of elements of `w` bits (R51). -/
def lanes (w : Nat) : Nat := if w = 64 then 128 else 4096 / w

/-! ## Rows and scalars -/

/-- Tile and row a row code names (R51, R87). -/
def Unit.vplace (x : Unit) (i : BitVec 8) : Nat × Nat :=
  (if i.toNat < 128 then winP x.regs.vmode else winS x.regs.vmode, i.toNat % 128)

def Unit.rowAt (x : Unit) (t r : Nat) : Lv 4096 := (x.regs.tiles.get t).rows.get r

/-- A tile that a word issuing now may use: allotted, ON, and past its wake (R59, R60). -/
def Unit.tileOk (x : Unit) (t : Nat) : Bool :=
  decide (t < x.regs.acc) && (match (x.regs.tiles.get t).pow with | .on => true | _ => false)
    && decide ((x.regs.tiles.get t).wake ≤ x.iss.cyc)

/-- Row codes an operand names. -/
def rowsOf (o : VOp) : List (BitVec 8) :=
  match o with
  | .row i => [i]
  | _ => []

/-- A level-11 operand. -/
def Unit.readBc (x : Unit) (b : Bc) : Lv 64 :=
  match b with
  | .s i => x.sreg i.toNat
  | .k i => x.pool i.toNat

/-- One row an operand stands for: the `back`-th entry nearer the head of a queue, or the `back`-th row on (R52). -/
def Unit.vrow1 (x : Unit) (o : VOp) (odd : Bool) : Lv 4096 :=
  match o with
  | .vlat => x.vol.vlat
  | .vq i => x.vol.vq.getD (i.toNat - b2n odd) default
  | .row i =>
    let p := x.vplace i
    x.rowAt p.1 (p.2 + b2n odd)
  | .s _ | .k _ => default

/-- The scalar a broadcast operand reads. -/
def Unit.vscalar (x : Unit) (o : VOp) : Option (Lv 64) :=
  match o with
  | .s i => some (x.sreg i.toNat)
  | .k i => some (x.pool i.toNat)
  | _ => none

/-- The first `n` elements of `w` bits of an operand, with its label (R141, R52, R53). -/
def Unit.vread (x : Unit) (w n : Nat) (o : VOp) : List Nat × Label :=
  match x.vscalar o with
  | some v => (List.replicate n (v.v.toNat % 2 ^ w), v.l)
  | none =>
    let e := x.vrow1 o false
    if w = 64 then
      let d := x.vrow1 o true
      (List.zipWith (fun a b => a + 2 ^ 32 * b) (unpack 32 n e.v.toNat) (unpack 32 n d.v.toNat), e.l ||| d.l)
    else (unpack w n e.v.toNat, e.l)

/-- A mask register (R50). -/
def Unit.mreg (x : Unit) (m : BitVec 3) : Lv 512 :=
  if m = 0#3 then ⟨BitVec.allOnes 512, 0#8⟩ else x.regs.m.get m.toNat

/-- Which of `n` elements a mask enables. -/
def Unit.enabled (x : Unit) (m : BitVec 3) (n : Nat) : List Bool :=
  let v := (x.mreg m).v.toNat
  (List.range n).map fun j => v.testBit j

/-! ## Modifiers (R70-R73) -/

def modNone : Mod :=
  ⟨false, false, false, false, false, false, 0#7, none, false, false, .none, false⟩

def modOf (md : Option Mod) : Mod := md.getD modNone

/-- The rounding mode in effect (R72). -/
def Unit.rmode (x : Unit) (md : Option Mod) : RMode :=
  match md with
  | some m => m.rm.getD (decRMode (x.regs.vmode.extractLsb' 0 3))
  | none => decRMode (x.regs.vmode.extractLsb' 0 3)

/-- Absolute value, then negation, of an exact source (R72). Whether the negation of an integer element 0 that VCVT converts to a
floating-point type is −0 or +0 the spec does not say: it is −0 (DESIGN CHOICE, log 88). -/
def srcMod (neg abs : Bool) (v : XVal) : XVal :=
  let v := if abs then v.abs else v
  if neg then v.neg else v

/-- The modifiers of source `i` of a word. -/
def modSrc (m : Mod) (i : Nat) : Bool × Bool :=
  match i with
  | 0 => (m.nega, m.absa)
  | 1 => (m.negb, m.absb)
  | _ => (m.negc, m.absc)

/-- Bounds of CLAMP for floating-point types (R73); `none` where nothing clamps. -/
def Unit.clampF (x : Unit) (m : Mod) : Option (XVal × XVal) :=
  match m.clamp with
  | .none => none
  | .unit => some (.fin false 0 0, .fin false 1 0)
  | .sym => some (.fin true 1 0, .fin false 1 0)
  | .pool k =>
    let v := (x.pool k.toNat).v.toNat
    some (FP.f32.decode (v % 2 ^ 32), FP.f32.decode (v / 2 ^ 32))

/-- Bounds of CLAMP for integer types (R73). -/
def Unit.clampI (x : Unit) (m : Mod) : Option (Int × Int) :=
  match m.clamp with
  | .none => none
  | .unit => some (0, 1)
  | .sym => some (-1, 1)
  | .pool k =>
    let v := (x.pool k.toNat).v.toNat
    some (signed 32 (v % 2 ^ 32), signed 32 (v / 2 ^ 32))

/-- A range no CLAMP may name (R73). -/
def clampBadF (r : Option (XVal × XVal)) : Bool :=
  match r with
  | none => false
  | some (a, b) => a.isNan || b.isNan || decide (a.cmp b > 0)

def clampBadI (r : Option (Int × Int)) : Bool :=
  match r with
  | none => false
  | some (a, b) => decide (a > b)

/-- What follows the rounding of a floating-point result (R72): RABS, RNEG, the clamp, SAT. -/
def FP.finish (f : FP) (m : Mod) (rng : Option (XVal × XVal)) (r : Rnd) : Rnd :=
  let nan := (f.decode r.pat).isNan
  let p := if m.rabs && !nan then r.pat % f.signBit else r.pat
  let p := if m.rneg && !nan then (p + f.signBit) % (2 * f.signBit) else p
  let p := match rng with
    | none => p
    | some (lo, hi) =>
      let v := f.decode p
      if v.isNan then f.nanPat
      else if v.cmp lo < 0 then (f.round .rne false 0 lo).pat
      else if v.cmp hi > 0 then (f.round .rne false 0 hi).pat
      else p
  if m.sat then f.satur ⟨p, r.fl⟩ else ⟨p, r.fl⟩

/-- A floating-point element from its exact value (R72). -/
def FP.element (f : FP) (m : Mod) (rng : Option (XVal × XVal)) (rm : RMode) (draw : Nat) (y : XReal) (fl : Flags) : Rnd :=
  let r := f.roundReal rm false draw (y.scale m.exp.toInt)
  let r := f.finish m rng r
  ⟨r.pat, r.fl ||| fl⟩

/-- An integer element from its exact value (R72, R36). -/
def intElement (w : Nat) (u : Bool) (m : Mod) (rng : Option (Int × Int)) (y : Int) : Nat :=
  let y := if m.rabs then |y| else y
  let y := if m.rneg then -y else y
  let y := match rng with | none => y | some (lo, hi) => max lo (min hi y)
  let lo : Int := if u then 0 else -(2 : Int) ^ (w - 1)
  let hi : Int := if u then (2 : Int) ^ w - 1 else (2 : Int) ^ (w - 1) - 1
  unsigned w (if m.sat then max lo (min hi y) else y)

/-! ## Stochastic rounding (R23) -/

/-- One draw for each of `n` elements of `w` bits, in ascending order, from the generator of its 32-bit lane. -/
def drawAll (w n : Nat) (gens : List (BitVec 32)) : List Nat × List (BitVec 32) :=
  let r := (List.range n).foldl (fun (a : List Nat × List (BitVec 32)) j =>
    let (g, v) := genStep (a.2.getD (j * w / 32) 0#32)
    (v :: a.1, a.2.set (j * w / 32) g)) ([], gens)
  (r.1.reverse, r.2)

/-- Draws of a word: none are taken, and no generator advances, unless it rounds in RSR. -/
def Unit.draws (x : Unit) (rm : RMode) (w n : Nat) : List Nat × Unit :=
  if rm = .rsr then
    let (d, g) := drawAll w n x.regs.gens
    (d, { x with regs := { x.regs with gens := g } })
  else (List.replicate n 0, x)

/-! ## Labels (R143) -/

/-- What L holds whatever the sources: the fetch label, the mask's label, the MOD word's, the seed's under RSR. -/
def Unit.vlabel (x : Unit) (mask : BitVec 3) (md : Option Mod) (rsr : Bool) : Label :=
  x.iss.lab ||| (x.mreg mask).l ||| (if md.isSome then x.vol.codeL else 0#8) ||| (if rsr then x.regs.seedLab else 0#8)

/-! ## Row results (R142, R54, R56) -/

/-- A row write to come, `n` cycles after the issue. -/
def Unit.putRow (x : Unit) (dest : BitVec 8) (odd : Bool) (n : Nat) (v keep : Nat) (whole : Bool) (l : Label) (fl : Flags) :
    Unit :=
  let p := x.vplace dest
  x.due (x.iss.cyc + n) phWrite lnV (.vrow x.iss.cyc p.1 (p.2 + b2n odd) ⟨BitVec.ofNat 4096 v, l⟩ keep whole fl)

/-- Elements of `w` bits to a destination under a mask (R142): a masked-off element is kept, or zero under Z. -/
def Unit.putElems (x : Unit) (dest : BitVec 8) (w lat : Nat) (els : List Nat) (mask : BitVec 3) (z : Bool) (l : Label)
    (fl : Flags) : Unit :=
  let en := x.enabled mask els.length
  let vs := List.zipWith (fun (b : Bool) v => if b then v else 0) en els
  let off := en.map fun b => !b && !z
  let whole := decide (mask = 0#3) || z
  if w = 64 then
    let k := fieldMask 32 off
    let x := x.putRow dest false lat (pack 32 vs) k whole l fl
    x.putRow dest true lat (pack 32 (vs.map (· / 2 ^ 32))) k whole l fl
  else x.putRow dest false lat (pack w vs) (fieldMask w off) whole l fl

/-- A mask result, readable from c + 2 (R148, R162); a write to `m0` is discarded. -/
def Unit.putMask (x : Unit) (d : BitVec 3) (v : Nat) (keep : Nat) (whole : Bool) (l : Label) : Unit :=
  if d = 0#3 then x
  else x.due (x.iss.cyc + 2) phWrite lnV (.vmask d.toNat ⟨BitVec.ofNat 512 v, l⟩ keep whole)

/-- The mask a comparison writes (R148). -/
def Unit.putCmp (x : Unit) (d : BitVec 3) (res : List Bool) (mask : BitVec 3) (z : Bool) (l : Label) : Unit :=
  let en := x.enabled mask res.length
  let vs := List.zipWith (fun a b => a && b) en res
  let off := en.map fun b => !b && !z
  x.putMask d (fieldMask 1 vs) (fieldMask 1 off) (decide (mask = 0#3) || z) l

/-! ## The common form of a V word -/

/-- A V word whose rows must be usable (R144): else ILLEGAL_OPERAND under its label. -/
def vWord (s : State) (rows : List (BitVec 8)) (bad : Bool) (l : Label) (k : Unit → Unit) : State :=
  if rows.any (fun i => !s.me.tileOk (s.me.vplace i).1) || bad then s.fail lanV fIllegalOperand 0 l
  else s.modMe k

end Sys2Proof.Machine
end

