-- ==== Sys2Proof/Machine/VFloat.lean ====
section
/-! DEFINITION. V-lane floating point: arithmetic, comparison, selection, special functions, reductions and scan
(spec 06, R147-R151, R155, R156). -/

namespace Sys2Proof.Machine

/-- Lists of the elements that stand at one position of several rows. -/
def columns {α : Type} (n : Nat) (rows : List (List α)) : List (List α) :=
  rows.foldr (fun a acc => List.zipWith (fun v r => v :: r) a acc) (List.replicate n [])

/-- The sources of a word, read and modified (R141, R72), with the OR of their labels. -/
def Unit.vsources (x : Unit) (f : FP) (md : Mod) (srcs : List VOp) : List (List XVal) × Label :=
  let n := lanes f.width
  let r := srcs.zipIdx.map fun (o, i) =>
    let (els, l) := x.vread f.width n o
    let (ng, ab) := modSrc md i
    (els.map fun v => srcMod ng ab (f.decode v), l)
  (columns n (r.map (·.1)), r.foldl (fun l e => l ||| e.2) 0#8)

/-- Flags of the enabled elements (R25). -/
def orFlags (en : List Bool) (rs : List Rnd) : Flags :=
  (List.zipWith (fun (b : Bool) (r : Rnd) => if b then r.fl else 0#5) en rs).foldl (· ||| ·) 0#5

/-- An element-wise floating-point word (R147, R150). -/
def vFloat (s : State) (t : VF) (dest : BitVec 8) (srcs : List VOp) (mask : BitVec 3) (z : Bool) (md : Option Mod)
    (special : Bool) (op : RMode → List XVal → XReal × Flags) : State :=
  let x := s.me
  let f := vfFp t
  let m := modOf md
  let rm := if special then .rne else x.rmode md
  let (cols, l) := x.vsources f m srcs
  let lab := l ||| x.vlabel mask md (decide (rm = .rsr))
  let rng := x.clampF m
  vWord s (dest :: srcs.flatMap rowsOf) (clampBadF rng) lab fun x =>
    let n := lanes f.width
    let (ds, x) := x.draws rm f.width n
    let rs := List.zipWith (fun a d =>
      let (y, fl) := op rm a
      f.element m rng rm d y fl) cols ds
    let fl := orFlags (x.enabled mask n) rs
    x.putElems dest f.width (if special then 12 else 4) (rs.map (·.pat)) mask z lab fl

/-- An exact result of sources, NaN made from none of them setting INVALID (R25). -/
def exactOp (y : XVal) (a : List XVal) : XReal × Flags := (.ex y, genNan y a)

/-- VADD (R147). -/
def execVadd (_h : Hdr) (t : VF) (f : VA2) (md : Option Mod) (s : State) : Out :=
  .next (vFloat s t f.dest [f.a, f.b] f.mask f.z md false fun rm a => exactOp (XVal.sum rm a) a)

/-- VSUB (R147). -/
def execVsub (_h : Hdr) (t : VF) (f : VA2) (md : Option Mod) (s : State) : Out :=
  .next (vFloat s t f.dest [f.a, f.b] f.mask f.z md false fun rm a =>
    exactOp (XVal.sum rm [a.getD 0 .nan, (a.getD 1 .nan).neg]) a)

/-- VMUL (R147). -/
def execVmul (_h : Hdr) (t : VF) (f : VA2) (md : Option Mod) (s : State) : Out :=
  .next (vFloat s t f.dest [f.a, f.b] f.mask f.z md false fun _ a => exactOp ((a.getD 0 .nan).mul (a.getD 1 .nan)) a)

/-- VFMA (R147, R26). -/
def execVfma (_h : Hdr) (t : VF) (f : VA3) (md : Option Mod) (s : State) : Out :=
  .next (vFloat s t f.dest [f.a, f.b, f.c] f.mask f.z md false fun rm a =>
    exactOp (XVal.sum rm [(a.getD 0 .nan).mul (a.getD 1 .nan), a.getD 2 .nan]) a)

/-- VMIN (R147, R34). -/
def execVmin (_h : Hdr) (t : VF) (f : VA2) (md : Option Mod) (s : State) : Out :=
  .next (vFloat s t f.dest [f.a, f.b] f.mask f.z md false fun _ a => exactOp ((a.getD 0 .nan).fmin (a.getD 1 .nan)) a)

/-- VMAX (R147, R34). -/
def execVmax (_h : Hdr) (t : VF) (f : VA2) (md : Option Mod) (s : State) : Out :=
  .next (vFloat s t f.dest [f.a, f.b] f.mask f.z md false fun _ a => exactOp ((a.getD 0 .nan).fmax (a.getD 1 .nan)) a)

/-- VCMP.cc (R148). -/
def execVcmp (_h : Hdr) (t : VF) (f : VCm) (cc : FCond) (md : Option Mod) (s : State) : Out :=
  let x := s.me
  let (cols, l) := x.vsources (vfFp t) (modOf md) [f.a, f.b]
  let lab := l ||| x.vlabel f.mask md false
  .next (vWord s ([f.a, f.b].flatMap rowsOf) false lab fun x =>
    x.putCmp f.dm (cols.map fun a => fcond cc (a.getD 0 .nan) (a.getD 1 .nan)) f.mask f.z lab)

/-- VSEL (R149): every element is written, and the mask's label is in L. -/
def execVsel (_h : Hdr) (w : VW) (dest : BitVec 8) (a b : VOp) (mask : BitVec 3) (s : State) : Out :=
  let x := s.me
  let k := vwW w
  let (av, la) := x.vread k (lanes k) a
  let (bv, lb) := x.vread k (lanes k) b
  let lab := la ||| lb ||| x.vlabel mask none false
  .next (vWord s (dest :: [a, b].flatMap rowsOf) false lab fun x =>
    let en := x.enabled mask (lanes k)
    x.putElems dest k 2 (List.zipWith (fun (c : Bool) (p : Nat × Nat) => if c then p.1 else p.2) en (av.zip bv)) 0#3 false
      lab 0#5)

/-! ## Special functions (R150, R151) -/

/-- A special function of one source. -/
def vSpecial (s : State) (t : VF) (f : VA1) (md : Option Mod) (fn : XVal → XReal × Flags) : Out :=
  .next (vFloat s t f.dest [f.a] f.mask f.z md true fun _ a => fn (a.getD 0 .nan))

/-- VRCP (R150, R35). -/
def execVrcp (_h : Hdr) (t : VF) (f : VA1) (md : Option Mod) (s : State) : Out :=
  vSpecial s t f md (divReal (.fin false 1 0))

/-- VRSQ (R150, R35). -/
def execVrsq (_h : Hdr) (t : VF) (f : VA1) (md : Option Mod) (s : State) : Out := vSpecial s t f md rsqrtReal

/-- VSQRT (R150, R35). -/
def execVsqrt (_h : Hdr) (t : VF) (f : VA1) (md : Option Mod) (s : State) : Out := vSpecial s t f md sqrtReal

/-- VDIV (R150, R35). -/
def execVdiv (_h : Hdr) (t : VF) (f : VA2) (md : Option Mod) (s : State) : Out :=
  .next (vFloat s t f.dest [f.a, f.b] f.mask f.z md true fun _ a => divReal (a.getD 0 .nan) (a.getD 1 .nan))

/-- VEXP2 (R150, R35). -/
def execVexp2 (_h : Hdr) (t : VF) (f : VA1) (md : Option Mod) (s : State) : Out :=
  vSpecial s t f md fun v => (exp2Real v, 0#5)

/-- VLOG2 (R150, R35). -/
def execVlog2 (_h : Hdr) (t : VF) (f : VA1) (md : Option Mod) (s : State) : Out := vSpecial s t f md log2Real

/-- VTANH (R150, R35). -/
def execVtanh (_h : Hdr) (t : VF) (f : VA1) (md : Option Mod) (s : State) : Out :=
  vSpecial s t f md fun v => (tanhReal v, 0#5)

/-- VSIGM (R150, R35). -/
def execVsigm (_h : Hdr) (t : VF) (f : VA1) (md : Option Mod) (s : State) : Out :=
  vSpecial s t f md fun v => (sigmReal v, 0#5)

/-! ## Reductions and scan (R155, R156) -/

/-- A reduction of the included elements to element 0; the other elements are zero bits. In RSR one draw is taken, from
generator 0. -/
def vReduce (s : State) (t : VF) (dest : BitVec 8) (a : VOp) (mask : BitVec 3) (md : Option Mod) (lat : Nat)
    (op : RMode → List XVal → XVal) : State :=
  let x := s.me
  let f := vfFp t
  let m := modOf md
  let rm := x.rmode md
  let (cols, l) := x.vsources f m [a]
  let lab := l ||| x.vlabel mask md (decide (rm = .rsr))
  let rng := x.clampF m
  let n := lanes f.width
  let inc := ((x.enabled mask n).zip cols).filterMap fun (b, c) => if b then some (c.getD 0 .nan) else none
  let (ds, y) := x.draws rm f.width 1
  let v := op rm inc
  let r := f.element m rng rm (ds.getD 0 0) (.ex v) (genNan v inc)
  vWord s (dest :: rowsOf a) (clampBadF rng) lab fun _ =>
    -- only elements whose mask bit is set bring flags (R146)
    y.putElems dest f.width lat (r.pat :: List.replicate (n - 1) 0) 0#3 false lab (if inc.isEmpty then 0#5 else r.fl)

/-- VREDSUM (R155): the exact sum, +0 of nothing. -/
def execVredsum (_h : Hdr) (t : VF) (dest : BitVec 8) (a : VOp) (mask : BitVec 3) (md : Option Mod) (s : State) : Out :=
  .next (vReduce s t dest a mask md 10 fun rm l => if l.isEmpty then .fin false 0 0 else XVal.sum rm l)

/-- VREDMAX (R155). -/
def execVredmax (_h : Hdr) (t : VF) (dest : BitVec 8) (a : VOp) (mask : BitVec 3) (md : Option Mod) (s : State) : Out :=
  .next (vReduce s t dest a mask md 8 fun _ l => l.foldl XVal.fmax (.inf true))

/-- VREDMIN (R155). -/
def execVredmin (_h : Hdr) (t : VF) (dest : BitVec 8) (a : VOp) (mask : BitVec 3) (md : Option Mod) (s : State) : Out :=
  .next (vReduce s t dest a mask md 8 fun _ l => l.foldl XVal.fmin (.inf false))

/-- VREDAMAX (R155): the greatest magnitude. -/
def execVredamax (_h : Hdr) (t : VF) (dest : BitVec 8) (a : VOp) (mask : BitVec 3) (md : Option Mod) (s : State) : Out :=
  .next (vReduce s t dest a mask md 8 fun _ l => (l.map XVal.abs).foldl XVal.fmax (.fin false 0 0))

/-- The included elements up to and with element `j` (R156). -/
def scanPrefix (l : List (Bool × XVal)) (j : Nat) : List XVal := ((l.take (j + 1)).filter (·.1)).map (·.2)

/-- VSCAN (R156). -/
def execVscan (_h : Hdr) (t : VF) (f : VA1) (md : Option Mod) (s : State) : Out :=
  let x := s.me
  let p := vfFp t
  let m := modOf md
  let rm := x.rmode md
  let (cols, l) := x.vsources p m [f.a]
  let lab := l ||| x.vlabel f.mask md (decide (rm = .rsr))
  let rng := x.clampF m
  .next (vWord s (f.dest :: rowsOf f.a) (clampBadF rng) lab fun x =>
    let n := lanes p.width
    let (ds, x) := x.draws rm p.width n
    let en := x.enabled f.mask n
    let es := en.zip (cols.map fun c => c.getD 0 .nan)
    let rs := List.zipWith (fun j d =>
      match scanPrefix es j with
      | [] => (⟨0, 0#5⟩ : Rnd)
      | v :: t =>
        let y := XVal.sum rm (v :: t)
        p.element m rng rm d (.ex y) (genNan y (v :: t))) (List.range n) ds
    x.putElems f.dest p.width 10 (rs.map (·.pat)) f.mask f.z lab (orFlags en rs))

end Sys2Proof.Machine
end

