-- ==== Sys2Proof/Machine/VConvert.lean ====
section
/-! DEFINITION. VCVT (spec 06, R152-R154; 01, R32, R33). -/

namespace Sys2Proof.Machine

/-- The floating-point format of a type, if it is one (R88). -/
def etyFp (t : ETy) : Option FP :=
  match t with
  | .f32 => some .f32
  | .bf16 => some .bf16
  | .f16 => some .f16
  | .e4m3 => some .e4m3
  | .e5m2 => some .e5m2
  | .e3m2 => some .e3m2
  | .e2m3 => some .e2m3
  | .e2m1 => some .e2m1
  | _ => none

/-- Element width (R153). -/
def etyW (t : ETy) : Nat :=
  match t with
  | .f32 | .int32 => 32
  | .bf16 | .f16 | .int16 => 16
  | .e4m3 | .e5m2 | .int8 | .uint8 => 8
  | .e3m2 | .e2m3 => 6
  | .e2m1 => 4

def etyUnsigned (t : ETy) : Bool := decide (t = .uint8)

/-- The exact value of an element (R12, R15). -/
def etyVal (t : ETy) (v : Nat) : XVal :=
  match etyFp t with
  | some f => f.decode v
  | none => XVal.ofInt (if etyUnsigned t then (v : Int) else signed (etyW t) v)

/-- Elements VCVT converts (R153). -/
def cvtLanes (d s : ETy) : Nat := min 512 (4096 / max (etyW d) (etyW s))

/-- The integer range of a type (R15). -/
def etyLo (t : ETy) : Int := if etyUnsigned t then 0 else -(2 : Int) ^ (etyW t - 1)
def etyHi (t : ETy) : Int := if etyUnsigned t then 255 else (2 : Int) ^ (etyW t - 1) - 1

/-- One element converted (R154): to a floating-point type by R32, to an integer type by R33; an integer source to an
integer type is rounded and then wraps or saturates, and a value outside the range sets INVALID alone there too (R25, R154;
DEDUCED, log 96). -/
def convert (d s : ETy) (nosat : Bool) (m : Mod) (rf : Option (XVal × XVal)) (ri : Option (Int × Int)) (rm : RMode)
    (draw : Nat) (y : XVal) (fl : Flags) : Rnd :=
  match etyFp d with
  | some f =>
    let sat := if d = .e4m3 then !nosat else m.sat
    let r := f.round rm sat draw y
    let r := f.finish m rf r
    ⟨r.pat, r.fl ||| fl⟩
  | none =>
    let inf := match y with | .fin _ _ _ => false | _ => true
    let wide : Int := (2 : Int) ^ 4096
    let r := roundInt rm (etyLo d) (etyHi d) y
    let z := if (etyFp s).isNone && !inf then (roundInt rm (-wide) wide y).1 else r.1
    ⟨intElement (etyW d) (etyUnsigned d) m ri z, r.2 ||| fl⟩

/-- The scale of element `j` (R154): one scalar for all, or one FP32 lane for each 32 elements. -/
def Unit.scales (x : Unit) (n : Nat) (m : Mod) (sc : Option VOp) : List XVal × Label :=
  match sc with
  | none => (List.replicate n (.fin false 1 0), 0#8)
  | some o =>
    let (els, l) := x.vread 32 128 o
    let v := (els.take 16).map fun e => srcMod m.negb m.absb (FP.f32.decode e)
    ((List.range n).map fun j => v.getD (j / 32) .nan, l)

/-- VCVT (R152-R154). NEGA of an integer element 0 gives −0 in a floating-point type (DESIGN CHOICE, log 88). -/
def execVcvt (_h : Hdr) (d t : ETy) (f : VA1) (sc : Option VOp) (nosat : Bool) (md : Option Mod) (s : State) : Out :=
  let x := s.me
  let m := modOf md
  let toF := (etyFp d).isSome
  let rm0 := x.rmode md
  let rm := if !toF && rm0 = .rsr then .rne else rm0
  let n := cvtLanes d t
  let (av, la) := x.vread (etyW t) n f.a
  let (sv, ls) := x.scales n m sc
  let lab := la ||| ls ||| x.vlabel f.mask md (decide (rm = .rsr))
  let rf := if toF then x.clampF m else none
  let ri := if toF then none else x.clampI m
  .next (vWord s (f.dest :: (rowsOf f.a ++ (sc.toList.flatMap rowsOf))) (clampBadF rf || clampBadI ri) lab fun x =>
    let (ds, x) := x.draws rm (etyW d) n
    let rs := List.zipWith (fun (p : Nat × XVal) dr =>
      let a := srcMod m.nega m.absa (etyVal t p.1)
      let y := (a.mul p.2).scale m.exp.toInt
      convert d t nosat m rf ri rm dr y (genNan y [a, p.2])) (av.zip sv) ds
    x.putElems f.dest (etyW d) 4 (rs.map (·.pat)) f.mask f.z lab (orFlags (x.enabled f.mask n) rs))

end Sys2Proof.Machine
end

