-- ==== Sys2Proof/Machine/VMem.lean ====
section
/-! DEFINITION. V-lane loads, stores, gathers and scatters, packed and ZMASK boxes among them (spec 06, R163-R170). -/

namespace Sys2Proof.Machine

/-- What a V memory word reads at its issue: handle, box, coordinates (R163). -/
structure VAcc where
  h    : Desc
  box  : Box
  tail : Int × Int × Int
  w    : Nat
  deriving DecidableEq, Repr, Inhabited

/-- The access of a word. -/
def State.vacc (s : State) (w : VW) (f : VM) : VAcc :=
  let h := s.me.regs.d.get f.d.toNat
  let (c2, c3) : Int × Int := match f.coord with | some c => (c.c2.toInt, c.c3.toInt) | none => (0, 0)
  ⟨h, s.box s.active h.slot.toNat, (h.orgZ 1 + f.rowoff.toNat * h.stepZ 1, h.orgZ 2 + c2, h.orgZ 3 + c3), vwW w⟩

/-- c(j) (R163, R167). -/
def VAcc.at (a : VAcc) (j : Int) : Quad Int := ⟨a.h.orgZ 0 + j * a.h.stepZ 0, a.tail.1, a.tail.2.1, a.tail.2.2⟩

/-- Layouts a word of a width may access (R164). -/
def layFits (w : Nat) (l : Nat) (plain : Bool) : Bool :=
  decide (l ≠ 0x30) && (!plain || (!layFp6 l && !layFp4 l && !layZmask l)) &&
    decide (w = (if layFp6 l || layFp4 l then 8 else layWidth l))

/-- The elements of a packed or ZMASK box start where they must (R165, R169). -/
def VAcc.aligned (a : VAcc) : Bool :=
  let l := a.box.layout
  if layFp6 l then decide (a.h.orgZ 0 % 4 = 0) && decide (a.h.stepZ 0 = 1)
  else if layFp4 l then decide (a.h.orgZ 0 % 2 = 0) && decide (a.h.stepZ 0 = 1)
  else if layZmask l then
    decide (a.h.orgZ 0 % (layGroup l : Int) = 0) && decide (a.h.stepZ 0 = 1) && decide (layGroup l ≤ a.h.extN 0)
  else true

/-- The handle, box and layout checks (R49, R164, R165). -/
def VAcc.bad (a : VAcc) (plain : Bool) : Bool :=
  !a.box.present || !a.h.usable a.box.rank || decide (a.box.mode = .stream) || !layFits a.w a.box.layout plain
    || !a.aligned

/-- L of an access (R143): handle, box, COORD word. -/
def State.vaccLabel (s : State) (f : VM) (a : VAcc) : Label :=
  a.h.lab ||| a.box.lab ||| s.me.vlabel f.mask none false ||| (if f.coord.isSome then s.me.vol.codeL else 0#8)

/-- The first offending element, by position, with its coordinates (R166, R275). -/
def VAcc.record (x : Unit) (a : VAcc) (kind : Nat) (bad : Option (Nat × Quad Int)) (l : Label) : Unit :=
  match bad with
  | some (e, c) => x.stickyNow kind lanV (recLn lanV) a.h.slot.toNat e l (a.box.detail c)
  | none => x

/-- The places of a row's elements in memory: bit in the row, location; a pair form stands in two rows (R51). -/
def VAcc.items (a : VAcc) (ix : List (Nat × Int)) : List (Nat × Loc) :=
  ix.flatMap fun (j, k) =>
    let c := a.at k
    if a.box.has c then
      let p := a.box.loc c
      if a.w = 64 then [(32 * j, ⟨p.addr, 4, 0, 32⟩), (4096 + 32 * j, ⟨p.addr + 4, 4, 0, 32⟩)] else [(a.w * j, p)]
    else []

/-- The first of some elements that lies outside the box. -/
def VAcc.firstBad (a : VAcc) (ix : List (Nat × Int)) : Option (Nat × Quad Int) :=
  (ix.find? fun e => !a.box.has (a.at e.2)).map fun e => (e.1, a.at e.2)

/-! ## Packed boxes (R165) -/

/-- Bits of an element of a packed box, elements of a group, bytes of a group. -/
def packW (l : Nat) : Nat := if layFp6 l then 6 else 4
def packE (l : Nat) : Nat := if layFp6 l then 4 else 2
def packB (l : Nat) : Nat := if layFp6 l then 3 else 1

/-- N′ of a packed access. -/
def VAcc.packN (a : VAcc) : Nat := min (if layFp6 a.box.layout then 680 else 1024) (a.h.extN 0)

/-- The groups a packed access touches under its mask: index and the elements below N′, each inside the box or not. -/
def VAcc.groups (a : VAcc) (mask : Nat) : List (Nat × List Bool) :=
  let l := a.box.layout
  let n := a.packN
  ((List.range (512 / packB l)).filter fun g =>
    decide (g * packE l < n) && (List.range (packB l)).any fun b => mask.testBit (g * packB l + b)).map fun g =>
      (g, (List.range (min (packE l) (n - g * packE l))).map fun e => a.box.has (a.at ((g * packE l + e : Nat) : Int)))

/-- Runs of a packed access: for each byte the bits that move. A group's bytes start where its first element does. -/
def VAcc.runs (a : VAcc) (mask : Nat) (whole : Bool) : List (Nat × Loc) :=
  let l := a.box.layout
  (a.groups mask).flatMap fun (g, ins) =>
    if whole && ins.any (fun b => !b) then []
    else (List.range (packB l)).filterMap fun b =>
      let k := g * packB l + b
      if mask.testBit k then
        let ok := (List.range 8).filter fun t => ins.getD ((8 * b + t) / packW l) false
        match ok with
        | [] => none
        | lo :: _ => some (8 * k + lo, ⟨a.box.addr (a.at ((g * packE l : Nat) : Int)) + b, 1, lo, ok.length⟩)
      else none

/-- The record of a packed access: the first enabled byte of the first offending group, the first element outside. -/
def VAcc.packBad (a : VAcc) (mask : Nat) : Option (Nat × Quad Int) :=
  let l := a.box.layout
  ((a.groups mask).find? fun (_, ins) => ins.any (fun b => !b)).map fun (g, ins) =>
    let b := ((List.range (packB l)).find? fun b => mask.testBit (g * packB l + b)).getD 0
    (g * packB l + b, a.at ((g * packE l + (ins.findIdx fun b => !b) : Nat) : Int))

/-- Bytes a packed load leaves to the mask: 510 and 511 of an FP6 row are written zero. -/
def VAcc.packOff (a : VAcc) (mask : Nat) : List Bool :=
  let l := a.box.layout
  let n := a.packN
  (List.range 512).map fun k =>
    if layFp6 l && decide (k ≥ 510) then false
    else !(mask.testBit k) || decide (k / packB l * packE l ≥ n)

/-! ## VLD and VGTH -/

/-- The handle advanced (R163, R49): for words issuing from c + 1. An origin past the signed 30-bit range wraps (DESIGN
CHOICE, log 83). -/
def VAcc.advance (x : Unit) (d : BitVec 4) (a : VAcc) (n : Nat) (adv : Bool) : Unit :=
  if adv then
    let v : Nat × Int := if a.box.rank ≥ 2 then (1, a.h.orgZ 1 + a.h.stepZ 1) else (0, a.h.orgZ 0 + n * a.h.stepZ 0)
    x.due (x.iss.cyc + 1) phWrite lnV (.dorg d.toNat v.1 (BitVec.ofInt 30 v.2))
  else x

/-- The row write of a load, sampled at c + 2 (R166): elements under `off` are masked off. -/
def VAcc.load (x : Unit) (a : VAcc) (reg : BitVec 8) (items : List (Nat × Loc)) (off : List Bool) (ew : Nat) (z whole : Bool)
    (l : Label) : Unit :=
  let p := x.vplace reg
  let drop := fieldMask ew off
  x.due (x.iss.cyc + 2) phSample lnV
    (.vload x.iss.cyc p.1 p.2 (decide (a.w = 64)) items drop (if z then 0 else drop) whole l)

/-- VLD (R166; R165 packed, R170 ZMASK). Its row label is the result's alone when every element is written; where elements
at N′ or above keep their content the old label stays too, under `m0` as well (R56; DEDUCED, log 84). -/
def execVld (_h : Hdr) (w : VW) (f : VM) (adv z : Bool) (s : State) : Out :=
  let a := s.vacc w f
  let l := s.vaccLabel f a
  let lay := a.box.layout
  let mask := (s.me.mreg f.mask).v.toNat
  let m0 := decide (f.mask = 0#3)
  let n := lanes a.w
  .next (vWord s [f.reg] (a.bad false) l fun x =>
    if layZmask lay then
      let g := layGroup lay
      let c := a.at 0
      let off := (List.range g).map fun j => !mask.testBit j
      let drop := fieldMask a.w off
      let p := x.vplace f.reg
      let x := if a.box.has c && a.box.has (a.at ((g - 1 : Nat) : Int)) then
          x.due (x.iss.cyc + 2) phSample lnV (.vzload x.iss.cyc p.1 p.2 (a.box.addr c) a.box.cap g a.w drop
            (if z then 0 else drop) (m0 || z) l a.h.slot.toNat (a.box.detail c))
        else VAcc.record (VAcc.load x a f.reg [] off a.w z (m0 || z) l) a kRead (some (0, c)) l
      VAcc.advance x f.d a g adv
    else if layFp6 lay || layFp4 lay then
      let x := VAcc.record x a kRead (a.packBad mask) l
      let x := VAcc.load x a f.reg (a.runs mask true) (a.packOff mask) 8 z (z || (m0 && (a.packOff mask).all (! ·))) l
      VAcc.advance x f.d a a.packN adv
    else
      let m := min n (a.h.extN 0)
      let ix : List (Nat × Int) := ((List.range m).filter fun j => mask.testBit j).map fun j => (j, Int.ofNat j)
      let x := VAcc.record x a kRead (a.firstBad ix) l
      let off := (List.range n).map fun j => decide (j ≥ m) || !mask.testBit j
      let x := VAcc.load x a f.reg (a.items ix) off (if a.w = 64 then 32 else a.w) z (z || (m0 && decide (m = n))) l
      VAcc.advance x f.d a m adv)

/-- The index elements of VGTH and VSCT, signed (R167). -/
def Unit.indices (x : Unit) (w : Nat) (ix : VIx) : List Int × Label :=
  let o : VOp := match ix with | .vq i => .vq i | .row i => .row i
  let (els, l) := x.vread w (lanes w) o
  (els.map (signed w), l)

def ixRows (ix : VIx) : List (BitVec 8) :=
  match ix with
  | .row i => [i]
  | .vq _ => []

/-- VGTH (R167). -/
def execVgth (_h : Hdr) (w : VW) (f : VM) (ix : VIx) (s : State) : Out :=
  let a := s.vacc w f
  let (ks, li) := s.me.indices a.w ix
  let l := s.vaccLabel f a ||| li
  let mask := (s.me.mreg f.mask).v.toNat
  .next (vWord s (f.reg :: ixRows ix) (a.bad true) l fun x =>
    let n := lanes a.w
    let en := (ks.zipIdx.filter fun e => mask.testBit e.2).map fun e => (e.2, e.1)
    let x := VAcc.record x a kRead (a.firstBad en) l
    VAcc.load x a f.reg (a.items en) ((List.range n).map fun j => !mask.testBit j) (if a.w = 64 then 32 else a.w) false
      (decide (f.mask = 0#3)) l)

/-! ## VST and VSCT -/

/-- A store whose checks stand (R166): mode IN is PERMISSION, a label beyond the box's is LABEL_FLOW. -/
def vStore (s : State) (a : VAcc) (rows : List (BitVec 8)) (plain : Bool) (l : Label) (k : Unit → Unit) : State :=
  if a.bad plain || rows.any (fun i => !s.me.tileOk (s.me.vplace i).1) then s.fail lanV fIllegalOperand 0 l
  else
    let det := a.box.detail (a.at 0)
    if a.box.mode = .in_ then s.failBox lanV fPermission 0 l a.h.slot.toNat det
    else if !Label.sub l a.box.lab then s.failBox lanV fLabelFlow 1 l a.h.slot.toNat det
    else s.modMe k

/-- The bytes a list of row elements stores, in ascending element (R166, R167). -/
def VAcc.bytes (a : VAcc) (els : List Nat) (ix : List (Nat × Int)) : List (Nat × Byte) :=
  let v := els.toArray
  ix.flatMap fun (j, k) =>
    let c := a.at k
    if a.box.has c then
      let p := a.box.loc c
      (leBytes p.bytes (v.getD j 0)).zipIdx.map fun e => (p.addr + e.2, e.1)
    else []

/-- VST (R166; R165 packed, R169 ZMASK). -/
def execVst (_h : Hdr) (w : VW) (f : VM) (adv : Bool) (s : State) : Out :=
  let a := s.vacc w f
  let lay := a.box.layout
  let n := lanes a.w
  let (els, lr) := s.me.vread a.w n (.row f.reg)
  let l := s.vaccLabel f a ||| lr
  let mask := (s.me.mreg f.mask).v.toNat
  .next (vStore s a [f.reg] false l fun x =>
    if layZmask lay then
      let g := layGroup lay
      let c := a.at 0
      let vs := (List.range g).zip els |>.map fun e => if mask.testBit e.1 then e.2 else 0
      let x := if a.box.has c && a.box.has (a.at ((g - 1 : Nat) : Int)) then
          x.due (x.iss.cyc + 7) phWrite lnV (.vzstore (a.box.addr c) a.box.cap g a.w vs a.h.slot.toNat l (a.box.detail c))
        else VAcc.record x a kWrite (some (0, c)) l
      VAcc.advance x f.d a g adv
    else if layFp6 lay || layFp4 lay then
      let row := (x.vrow1 (.row f.reg) false).v.toNat
      let x := VAcc.record x a kWrite (a.packBad mask) l
      let ws := (a.runs mask false).map fun e => (e.2, row / 2 ^ e.1 % 2 ^ e.2.width)
      let x := x.due (x.iss.cyc + 5) phWrite lnV (.sbits ws)
      VAcc.advance x f.d a a.packN adv
    else
      let m := min n (a.h.extN 0)
      let ix : List (Nat × Int) := ((List.range m).filter fun j => mask.testBit j).map fun j => (j, Int.ofNat j)
      let x := VAcc.record x a kWrite (a.firstBad ix) l
      let x := x.due (x.iss.cyc + 5) phWrite lnV (.store (a.bytes els ix))
      VAcc.advance x f.d a m adv)

/-- VSCT (R167): ascending element, so the higher of two on one coordinate stays. -/
def execVsct (_h : Hdr) (w : VW) (f : VM) (ix : VIx) (s : State) : Out :=
  let a := s.vacc w f
  let (ks, li) := s.me.indices a.w ix
  let (els, lr) := s.me.vread a.w (lanes a.w) (.row f.reg)
  let l := s.vaccLabel f a ||| li ||| lr
  let mask := (s.me.mreg f.mask).v.toNat
  .next (vStore s a (f.reg :: ixRows ix) true l fun x =>
    let en := (ks.zipIdx.filter fun e => mask.testBit e.2).map fun e => (e.2, e.1)
    let x := VAcc.record x a kWrite (a.firstBad en) l
    x.due (x.iss.cyc + 5) phWrite lnV (.store (a.bytes els en)))

end Sys2Proof.Machine
end

