-- ==== Sys2Proof/Machine/Matrix.lean ====
section
/-! DEFINITION. The matrix engine: format words, operand lines, exact chunk results, accumulation and checksums (spec
07, R174-R191; 01, R29, R30). -/

namespace Sys2Proof.Machine

/-! ## Format words (R177, R178) -/

def fwA (w : Nat) : Nat := bits w 3 0
def fwB (w : Nat) : Nat := bits w 7 4
def fwScale (w : Nat) : Nat := bits w 11 8
def fwInt (w : Nat) : Bool := decide (bits w 13 12 = 1)
def fwChk (w : Nat) : Bool := w.testBit 15
def fwSat (w : Nat) : Bool := w.testBit 16

/-- A valid combination (R178). -/
def fwValid (w : Nat) : Bool :=
  decide (w / 2 ^ 17 = 0) &&
    ((decide (fwA w ≤ 4) && decide (fwB w ≤ 4) && decide (fwScale w ≤ 2) && decide (bits w 13 12 = 0) && !fwSat w)
    || (decide (fwA w = 5) && decide (fwB w = 5) && decide (fwScale w ≤ 1) && decide (bits w 13 12 = 0) && !fwSat w)
    || ((decide (fwA w = 6) || decide (fwA w = 7)) && (decide (fwB w = 6) || decide (fwB w = 7)) && decide (fwScale w = 0)
        && decide (bits w 13 12 = 1) && !(fwSat w && fwChk w)))

/-- The element type of a format code (R177). -/
def fmtTy (c : Nat) : ETy :=
  match c with
  | 0 => .e4m3
  | 1 => .e5m2
  | 2 => .e3m2
  | 3 => .e2m3
  | 4 => .e2m1
  | 5 => .bf16
  | 6 => .int8
  | _ => .uint8

/-- Layouts a B operand of a format may have, and those an A operand may have beside them (R180). -/
def fmtLayB (c : Nat) : List Nat :=
  match c with
  | 0 => [0x10, 0x18, 0x19]
  | 1 => [0x11, 0x19]
  | 2 => [0x12, 0x1A]
  | 3 => [0x13, 0x1A]
  | 4 => [0x14, 0x1B]
  | 5 => [0x09]
  | 6 => [0x01]
  | _ => [0x00, 0x01]

def fmtLayA (c : Nat) : List Nat :=
  match c with
  | 0 | 1 => fmtLayB c ++ [0x21]
  | 5 => fmtLayB c ++ [0x20]
  | _ => fmtLayB c

/-- Layouts of a scale handle (R182). -/
def scaleLays (sch : Nat) : List Nat := if sch = 1 then [0x08, 0x18] else [0x00, 0x19, 0x1A, 0x1B]

/-- FP6 and FP4 format codes (R184). -/
def fmtSmall (c : Nat) : Bool := decide (2 ≤ c) && decide (c ≤ 4)

/-- Rows of a row group, and cycles between groups (R184). -/
def groupRows (fw : Nat) : Nat := if fmtSmall (fwA fw) && fmtSmall (fwB fw) then 4 else 2
def groupGap (fw : Nat) : Nat := if fwA fw = 5 then 4 else 1
def groupsOf (fw rows : Nat) : Nat := (rows + groupRows fw - 1) / groupRows fw

/-- Occupancy of an MMA (R184). -/
def mmaOcc (fw rows : Nat) : Nat := if fwA fw = 5 then 4 * ((rows + 1) / 2) else groupsOf fw rows

/-! ## Operand lines (R181, R182) -/

/-- Origin of operand line `i` of a handle: coordinates of its first element. -/
def Hnd.line (h : Hnd) (i : Nat) : Quad Int :=
  ⟨h.desc.orgZ 0, h.desc.orgZ 1 + i * h.desc.stepZ 1, h.desc.orgZ 2, h.desc.orgZ 3⟩

/-- Element `k` of operand line `i`. -/
def Hnd.elem (h : Hnd) (i k : Nat) : Quad Int := (h.line i).set 0 (h.desc.orgZ 0 + k * h.desc.stepZ 0)

/-- Whether element `k` of a line is inside: an element of a packed group only with its whole group (R165, R181). -/
def Hnd.inside (h : Hnd) (i k : Nat) : Bool :=
  let l := h.box.layout
  if layFp6 l || layFp4 l then
    (List.range (packE l)).all fun e => h.box.has (h.elem i (k / packE l * packE l + e))
  else h.box.has (h.elem i k)

/-- Codes of the 128 elements of line `i` in a memory. -/
def Hnd.codes (h : Hnd) (m : Mem) (i : Nat) : List Nat :=
  (List.range 128).map fun k =>
    if h.inside i k then
      let p := h.box.loc (h.elem i k)
      p.of (Mem.bytes m p.addr p.bytes)
    else 0

/-- The coordinates of the ZMASK group of line `i` (R181). -/
def Hnd.group (h : Hnd) (i : Nat) : Quad Int := (h.line i).set 0 0

/-- A ZMASK group lies in the box with every element of it; one partly outside counts as outside (DESIGN CHOICE, log 85). -/
def Hnd.groupIn (h : Hnd) (i : Nat) : Bool :=
  h.box.has (h.group i) && h.box.has ((h.group i).set 0 ((layGroup h.box.layout : Int) - 1))

/-- A ZMASK group expanded (R170): the elements, and whether it is corrupt; an overrun group reads zero and is not. -/
def zExpand (bs : List Byte) (cap g w : Nat) : List Nat × Bool :=
  let cnt := leNat (bs.take 2)
  let flag := leNat ((bs.drop 2).take 2)
  let rsv := leNat ((bs.drop 4).take 4)
  let mask := leNat ((bs.drop 8).take (g / 8))
  let set := ((List.range g).filter fun j => mask.testBit j).length
  if flag % 2 = 1 then (List.replicate g 0, false)
  else if flag ≠ 0 || rsv ≠ 0 || cnt ≠ set || 8 + g / 8 + cnt * (w / 8) > cap then (List.replicate g 0, true)
  else
    let vals := bs.drop (8 + g / 8)
    (((List.range g).foldl (fun (a : List Nat × Nat) j =>
      if mask.testBit j then (leNat ((vals.drop (a.2 * (w / 8))).take (w / 8)) :: a.1, a.2 + 1)
      else (0 :: a.1, a.2)) ([], 0)).1.reverse, false)

/-- The whole region `n` lines of 128 elements lies in the box: the common case, told by its corners. -/
def Hnd.allIn (h : Hnd) (n : Nat) : Bool :=
  h.inside 0 0 && h.inside 0 127 && h.inside (n - 1) 0 && h.inside (n - 1) 127

/-- The first element of `n` lines that reads as zero (R181): its position and coordinates. -/
def Hnd.firstOut (h : Hnd) (n : Nat) : Option (Nat × Quad Int) :=
  if layZmask h.box.layout then
    ((List.range n).find? fun i => !h.groupIn i).map fun i => (0, h.line i)
  else if h.allIn n then none
  else (List.range n).findSome? fun i =>
    ((List.range 128).find? fun k => !h.inside i k).map fun k => (k, h.elem i k)

/-- A scale's place, when it lies in the scale box or the scale part in use (R182, R265). -/
def Hnd.scaleAt (h : Hnd) (a b : Nat) : Box × Quad Int :=
  let bx := if layScaled h.box.layout then h.box.scaleBox else h.box
  (bx, ⟨h.desc.orgZ 0 + a * h.desc.stepZ 0, h.desc.orgZ 1 + b * h.desc.stepZ 1, h.desc.orgZ 2, h.desc.orgZ 3⟩)

def Hnd.scale (h : Hnd) (m : Mem) (a b : Nat) : Nat :=
  let (bx, c) := h.scaleAt a b
  if bx.has c then
    let p := bx.loc c
    p.of (Mem.bytes m p.addr p.bytes)
  else 0

/-- Scale coordinates a word reads, in order (R182). -/
def scalePts (b : Bool) (sch rows : Nat) : List (Nat × Nat) :=
  if sch = 0 then []
  else if b then (if sch = 1 then [(0, 0)] else (List.range 4).flatMap fun g => (List.range 128).map fun n => (n, g))
  else if sch = 1 then (List.range rows).map fun i => (i, 0)
  else (List.range rows).flatMap fun i => (List.range 4).map fun g => (g, i)

/-- The first scale outside its box: its position along the line (R275) and its coordinates. -/
def Hnd.scaleOut (h : Hnd) (pts : List (Nat × Nat)) : Option (Nat × Quad Int) :=
  (pts.find? fun p => let (bx, c) := h.scaleAt p.1 p.2; !bx.has c).map fun p => (p.1, (h.scaleAt p.1 p.2).2)

/-! ## Exact chunk results (R29) -/

/-- An E8M0 scale as an exact value (R14). -/
def e8m0 (v : Nat) : XVal := if v = 0xFF then .nan else .fin false 1 ((v : Int) - 127)

/-- The exact sum of products of a run of K indices for every column: products of row elements and B lines added up
column by column. -/
def blockSum (a : List XVal) (bl : List (List XVal)) : List XVal :=
  (columns 128 (List.zipWith (fun x row => row.map fun y => x.mul y) a bl)).map (XVal.sum .rne)

/-- T of one row of A (R29), sub-chunk by sub-chunk: for each, 128 exact values. `sa` is the row's VEC128 scale or its
four MX32 scales. -/
def rowChunks (fw : Nat) (a : List Nat) (b : BSlot) (sa : List Nat) : List (List XVal) :=
  let av := a.map (etyVal (fmtTy (fwA fw)))
  let bv := b.lines.map fun l => l.map (etyVal (fmtTy (fwB fw)))
  let part (g : Nat) : List XVal :=
    let p := blockSum ((av.drop (32 * g)).take 32) ((bv.drop (32 * g)).take 32)
    if fwScale fw = 2 then
      let xa := e8m0 (sa.getD g 0)
      List.zipWith (fun v x => (v.mul xa).mul (e8m0 x)) p ((b.xb.drop (128 * g)).take 128)
    else p
  let vec (t : List XVal) : List XVal :=
    if fwScale fw = 1 then
      let k := (FP.f32.decode (sa.getD 0 0)).mul (FP.f32.decode b.sb)
      t.map fun v => v.mul k
    else t
  if fwA fw = 5 then (List.range 4).map fun g => vec (part g)
  else [vec ((columns 128 ((List.range 4).map part)).map (XVal.sum .rne))]

/-- RoundAcc (R30): RNE to FP32, an exact zero +0. -/
def roundAcc (x : XVal) : Nat := if x.isZero then 0 else (FP.f32.round .rne false 0 x).pat

/-- One accumulation of an element (R29). -/
def accumulate (int sat : Bool) (acc : Nat) (t : XVal) : Nat :=
  if int then
    let v := signed 32 acc + t.num 0
    unsigned 32 (if sat then max (-(2 : Int) ^ 31) (min ((2 : Int) ^ 31 - 1) v) else v)
  else roundAcc (XVal.sum .rne [FP.f32.decode acc, t])

/-- The accumulator elements of a row after its sub-chunks in ascending K (R29). -/
def accRow (int sat : Bool) (acc : List Nat) (ts : List (List XVal)) : List Nat :=
  ts.foldl (fun a t => List.zipWith (accumulate int sat) a t) acc

/-- A tile element as an exact value of the tile's type (R196). -/
def tileVal (int : Bool) (v : Nat) : XVal := if int then XVal.ofInt (signed 32 v) else FP.f32.decode v

/-- An expected or residue sum rounded once (R189, R190). -/
def checkSum (int : Bool) (l : List XVal) : Nat :=
  let y := XVal.sum .rne l
  if int then unsigned 32 (y.num 0) else roundAcc y

end Sys2Proof.Machine
end

