-- ==== Sys2Proof/Machine/MLane.lean ====
section
/-! DEFINITION. M words (spec 07, R174-R196): what each reads and checks at its issue and which effects it sets going. -/

namespace Sys2Proof.Machine

/-- A fault of an issuing M word. -/
def State.failM (s : State) (code sub : Nat) (l : Label) : State := s.fail lanM code sub l

/-- A handle with its box, as an M word reads it at its issue (R49). -/
def State.hnd (s : State) (d : BitVec 4) : Hnd :=
  let h := s.me.regs.d.get d.toNat
  ⟨h, s.box s.active h.slot.toNat⟩

/-- An operand handle the engine takes (R180-R182). ORG0 of a ZMASK handle names a part of one group, from 0 on (DEDUCED, log
85). A working entry task's root box is its own level's box though it lies in device memory: the spec gives no outcome for
an engine's read of it, and the model takes the scratchpad's bytes at its BASE (DESIGN CHOICE, log 86). -/
def Hnd.okM (h : Hnd) (lays : List Nat) (stream : Bool) : Bool :=
  h.box.present && h.desc.usable h.box.rank && lays.contains h.box.layout
    && (decide (h.box.mode ≠ .stream) || stream)
    && (decide (h.box.mode = .stream) ||
        ((!layFp6 h.box.layout || (decide (h.desc.orgZ 0 % 4 = 0) && decide (h.desc.stepZ 0 = 1)))
        && (!layFp4 h.box.layout || (decide (h.desc.orgZ 0 % 2 = 0) && decide (h.desc.stepZ 0 = 1)))
        && (!layZmask h.box.layout || (decide (h.desc.orgZ 0 % 128 = 0) && decide (h.desc.stepZ 0 = 1)
            && decide (0 ≤ h.desc.orgZ 0) && decide (h.desc.orgZ 0 < (layGroup h.box.layout : Int))))))

/-- The scale handle of a word whose format word names a scheme. -/
def Hnd.okScale (h : Hnd) (sch : Nat) : Bool :=
  decide (sch = 0) || (h.box.present && h.desc.usable h.box.rank && (scaleLays sch).contains h.box.layout
    && decide (h.box.mode ≠ .stream))

def Hnd.lab (h : Hnd) : Label := h.desc.lab ||| h.box.lab

/-- The format word popped at an issue (R179). -/
def Unit.fmtTop (x : Unit) : Option Fmt := x.que.fmtq.head?

def Unit.pop (x : Unit) : Unit := { x with que := { x.que with fmtq := x.que.fmtq.tail } }

/-- An M word's run entered under the next key. -/
def Unit.addRun (x : Unit) (r : MRun) : Unit :=
  { x with que := { x.que with mruns := x.que.mruns.put x.que.mnext r, mnext := x.que.mnext + 1 } }

/-- The record of the first operand element outside its box (R181, R182, R274). Where data and scales both lie outside, the
spec gives no order: data comes first (DESIGN CHOICE, log 87). -/
def recOut (x : Unit) (h : Hnd) (sc : Hnd) (out scOut : Option (Nat × Quad Int)) (l : Label) : Unit :=
  match out, scOut with
  | some (k, c), _ => x.stickyNow kRead lanM (recLn lanM) h.desc.slot.toNat k l (h.box.detail c)
  | none, some (k, c) => x.stickyNow kRead lanM (recLn lanM) sc.desc.slot.toNat k l (sc.box.detail c)
  | none, none => x

/-- MLOADB (R183). -/
def execMloadb (_h : Hdr) (slot : Bool) (b sx : BitVec 4) (s : State) : Out :=
  .next (
    let x := s.me
    match x.fmtTop with
    | none => s.failM fFormatUnderflow 0 x.iss.lab
    | some fw =>
      let s := s.modMe Unit.pop
      let w := fw.v.toNat
      let h := s.hnd b
      let sc := s.hnd sx
      let l := fw.l ||| h.lab ||| (if fwScale w = 0 then 0#8 else sc.lab) ||| x.iss.lab
      if !fwValid w then s.failM fFormatInvalid 0 (fw.l ||| x.iss.lab)
      else if !h.okM (fmtLayB (fwB w)) false || !sc.okScale (fwScale w) then s.failM fIllegalOperand 0 l
      else s.modMe fun x =>
        let c := x.iss.cyc
        let k := x.que.mnext
        let run : MRun := { (default : MRun) with issue := c, slot := b2n slot, fw := w, lab := l, src := h, scl := sc }
        let x := x.addRun run
        let x := { x with que := { x.que with slots := x.que.slots.upd (b2n slot) fun e => { e with ready := c + 34 } } }
        let x := recOut x h sc (h.firstOut 128) (sc.scaleOut (scalePts true (fwScale w) 0)) l
        let x := x.due (c + 1) phSample lnM (.mscal k)
        let x := (List.range 32).foldl (fun x t => x.due (c + 1 + t) phSample lnM (.mload k t)) x
        x.due (c + 34) phWrite lnM (.mslot k))

/-- MMA (R184, R185, R189). -/
def execMma (_h : Hdr) (t : BitVec 4) (slot : Bool) (a sx : BitVec 4) (rows1 : BitVec 7) (ovw chk _zs : Bool) (s : State) :
    Out :=
  .next (
    let x := s.me
    let c := x.iss.cyc
    let rows := rows1.toNat + 1
    let b := x.que.slots.get (b2n slot)
    let tl := x.regs.tiles.get t.toNat
    if x.iss.dep + 23 > c then s.failM fScheduleMiss 3 x.iss.lab
    else match x.fmtTop with
    | none => s.failM fFormatUnderflow 0 x.iss.lab
    | some fw =>
      let s := s.modMe Unit.pop
      let w := fw.v.toNat
      let h := s.hnd a
      let sc := s.hnd sx
      let l := fw.l ||| h.lab ||| (if fwScale w = 0 then 0#8 else sc.lab) ||| b.lab ||| x.iss.lab
      if !fwValid w || (b.valid && (decide (b.bfmt ≠ fwB w) || decide (b.sch ≠ fwScale w)))
          || decide (tl.int ≠ fwInt w) then s.failM fFormatInvalid 0 (fw.l ||| x.iss.lab)
      else if !b.valid then s.failM fIllegalOperand 0 l
      else if chk ≠ fwChk w then s.failM fFormatInvalid 0 l
      else if !x.tileOk t.toNat then s.failM fIllegalOperand 0 l
      else if !h.okM (fmtLayA (fwA w)) true || !sc.okScale (fwScale w) then s.failM fIllegalOperand 0 l
      else s.modMe fun x =>
        let k := x.que.mnext
        let run : MRun := { (default : MRun) with
          issue := c, tile := t.toNat, slot := b2n slot, fw := w, rows := rows, ovw := ovw, lab := l, src := h, scl := sc }
        let x := x.addRun run
        let out := if h.box.mode = .stream then none else h.firstOut rows
        let x := recOut x h sc out (sc.scaleOut (scalePts false (fwScale w) rows)) l
        let x := x.due (c + 2) phSample lnM (.mscal k)
        let gap := groupGap w
        (List.range (groupsOf w rows)).foldl (fun x g =>
          (x.due (c + 2 + gap * g) phSample lnM (.msamp k g)).due (c + 14 + gap * g) phWrite lnM (.mrow k g)) x)

/-- The tile check of MZERO, MCOPY, MTYPE, MCHKV (R190, R193). -/
def tileWord (s : State) (ts : List Nat) (l : Label) (k : Unit → Unit) : State :=
  if ts.any (fun t => !s.me.tileOk t) then s.failM fIllegalOperand 0 l else s.modMe k

/-- MZERO (R193): performs at c + 8. -/
def execMzero (_h : Hdr) (t : BitVec 4) (s : State) : Out :=
  .next (tileWord s [t.toNat] s.me.iss.lab fun x => x.due (x.iss.cyc + 8) phWrite lnM (.mzero t.toNat x.iss.lab))

/-- MCOPY (R193): row pair k sampled and written at c + 4 + k; type at c + 4, checksum state at c + 67. -/
def execMcopy (_h : Hdr) (d t : BitVec 4) (s : State) : Out :=
  .next (tileWord s [d.toNat, t.toNat] s.me.iss.lab fun x =>
    let c := x.iss.cyc
    let x := x.due (c + 4) phWrite lnM (.mctype d.toNat t.toNat)
    let x := (List.range 64).foldl (fun x k => x.due (c + 4 + k) phSample lnM (.mcopy d.toNat t.toNat k x.iss.lab)) x
    x.due (c + 67) phWrite lnM (.mcsum d.toNat t.toNat))

/-- A pool entry of MCHKV as FP32, and whether it may stand there (R190). -/
def tolOk (v : Nat) : Bool :=
  match FP.f32.decode v with
  | .fin neg m _ => !neg || decide (m = 0)
  | _ => false

/-- MCHKV (R190): samples from c + 1, results at c + 136. -/
def execMchkv (_h : Hdr) (t : BitVec 4) (ka kr : BitVec 5) (rr cr : BitVec 8) (s : State) : Out :=
  .next (
    let x := s.me
    let tl := x.regs.tiles.get t.toNat
    let pa := x.pool ka.toNat
    let pr := x.pool kr.toNat
    let l := x.iss.lab ||| (if tl.int then 0#8 else pa.l ||| pr.l)
    let a := pa.v.toNat % 2 ^ 32
    let r := pr.v.toNat % 2 ^ 32
    if !x.tileOk t.toNat then s.failM fIllegalOperand 0 l
    else if !tl.int && !(tolOk a && tolOk r) then s.failM fIllegalOperand 0 l
    else if !x.tileOk (x.vplace rr).1 || !x.tileOk (x.vplace cr).1 || decide (x.vplace rr = x.vplace cr) then
      s.failM fIllegalOperand 0 l
    else s.modMe fun x =>
      let c := x.iss.cyc
      let k := x.que.mnext
      let run : MRun := { (default : MRun) with
        issue := c, tile := t.toNat, lab := l, int := tl.int, rr := x.vplace rr, cr := x.vplace cr, ka := a, kr := r }
      let x := x.addRun run
      let x := x.due (c + 1) phSample lnM (.mcst k)
      let x := (List.range 128).foldl (fun x i => x.due (c + 1 + i) phSample lnM (.mcs k i)) x
      x.due (c + 136) phWrite lnM (.mchk k))

/-- MTYPE (R193): for M words from c + 1; the checksums no longer describe the tile. -/
def execMtype (_h : Hdr) (t : BitVec 4) (int : Bool) (s : State) : Out :=
  .next (tileWord s [t.toNat] s.me.iss.lab fun x => x.due x.iss.cyc phNow lnM (.mtype t.toNat int))

/-- Tiles an effect still to come reads or writes, in the sense of R194. -/
def Unit.effTiles (x : Unit) (e : Eff) : List Nat :=
  match e with
  | .mrow w _ => [(x.que.mruns.get w).tile]
  | .mzero t _ => [t]
  | .mcopy d _ _ _ => [d]
  | .mcput d _ _ => [d]
  | .mctype d _ => [d]
  | .mcsum d _ => [d]
  | .mcs w _ | .mcst w => [(x.que.mruns.get w).tile]
  | .mchk w => let r := x.que.mruns.get w; [r.rr.1, r.cr.1]
  | _ => []

/-- A tile an M word before this one still works on (R194). -/
def Unit.tileBusy (x : Unit) (sel : Nat → Bool) : Bool := x.pend.any fun d => (x.effTiles d.eff).any sel

/-- ACCREL (R194, R59). -/
def execAccrel (_h : Hdr) (n : BitVec 5) (s : State) : Out :=
  .next (
    if s.me.tileBusy (fun t => decide (n.toNat ≤ t)) then s.failM fIllegalOperand 0 s.me.iss.lab
    else s.modMe fun x => x.due x.iss.cyc phNow lnM (.macc n.toNat))

/-- ACCWAKE (R194, R60): the tile may be used from c + 12. -/
def execAccwake (_h : Hdr) (t : BitVec 4) (s : State) : Out :=
  .next (s.modMe fun x =>
    let c := x.iss.cyc
    let on := match (x.regs.tiles.get t.toNat).pow with | .on => true | _ => false
    if on then x else (x.due c phNow lnM (.mwake t.toNat (c + 12))).due (c + 12) phSample lnM (.wake t.toNat))

/-- ACCGATE (R194, R60). -/
def execAccgate (_h : Hdr) (t : BitVec 4) (ret : Bool) (s : State) : Out :=
  .next (
    if s.me.tileBusy (fun k => decide (k = t.toNat)) then s.failM fIllegalOperand 0 s.me.iss.lab
    else s.modMe fun x => x.due x.iss.cyc phNow lnM (.mgate t.toNat ret))

end Sys2Proof.Machine
end

