-- ==== Sys2Proof/Machine/Region.lean ====
section
/-! DEFINITION. Regions of handles as copies take them (spec 08, R198; 10, R264, R265, R270): elements in region order,
their places, their bytes, and reading and writing them wherever the box lies. -/

namespace Sys2Proof.Machine

/-- Extents in copy units: elements, or groups in a ZMASK box (R198). -/
def Hnd.units (h : Hnd) : Quad Nat :=
  if layZmask h.box.layout then { h.desc.extQ with x0 := h.desc.extN 0 / layGroup h.box.layout } else h.desc.extQ

def Hnd.count (h : Hnd) : Nat := h.units.x0 * h.units.x1 * h.units.x2 * h.units.x3

/-- Bits of a unit (R198). -/
def Hnd.unitBits (h : Hnd) : Nat := if layZmask h.box.layout then 8 * h.box.cap else layWidth h.box.layout

/-- The byte count of a region (R198). -/
def Hnd.size (h : Hnd) : Nat := (h.count * h.unitBits + 7) / 8

/-- Region index of unit `e` (R198). -/
def Hnd.ix (h : Hnd) (e : Nat) : Quad Nat :=
  let u := h.units
  ⟨e % u.x0, e / u.x0 % u.x1, e / (u.x0 * u.x1) % u.x2, e / (u.x0 * u.x1 * u.x2)⟩

/-- Box coordinates of unit `e`. -/
def Hnd.coord (h : Hnd) (e : Nat) : Quad Int :=
  let i := h.ix e
  let i0 := if layZmask h.box.layout then i.x0 * layGroup h.box.layout else i.x0
  h.desc.at ⟨(i0 : Int), i.x1, i.x2, i.x3⟩

/-- Unit `e` lies in the box: for a read a packed group only with every element the region takes of it (R165, R273). -/
def Hnd.unitIn (h : Hnd) (rd : Bool) (e : Nat) : Bool :=
  let l := h.box.layout
  let c := h.coord e
  if layZmask l then h.box.has c && h.box.has (c.set 0 (c.x0 + (layGroup l : Int) - 1))
  else if rd && (layFp6 l || layFp4 l) then
    let k := packE l
    let i := h.ix e
    (List.range k).all fun j =>
      let n := i.x0 / k * k + j
      decide (n ≥ h.units.x0) || h.box.has (h.coord (e - i.x0 + n))
  else h.box.has c

/-- The place of unit `e`; none outside the box. -/
def Hnd.place (h : Hnd) (rd : Bool) (e : Nat) : Option Loc :=
  if h.unitIn rd e then
    let c := h.coord e
    if layZmask h.box.layout then some ⟨h.box.addr c, h.box.cap, 0, 8 * h.box.cap⟩ else some (h.box.loc c)
  else none

/-- The first unit outside the box, by its coordinates. -/
def Hnd.outside (h : Hnd) (rd : Bool) : Option (Quad Int) :=
  ((List.range h.count).find? fun e => !h.unitIn rd e).map h.coord

/-- Pieces of a region in which it may move: its bytes, or its elements where they are no whole bytes. -/
def Hnd.pieces (h : Hnd) : Nat := if h.unitBits % 8 = 0 then h.size else h.count

def Hnd.unitOf (h : Hnd) (j : Nat) : Nat := if h.unitBits % 8 = 0 then j / (h.unitBits / 8) else j

def Hnd.piece (h : Hnd) (rd : Bool) (j : Nat) : Option Loc :=
  if h.unitBits % 8 = 0 then
    (h.place rd (h.unitOf j)).map fun p => ⟨p.addr + j % (h.unitBits / 8), 1, 0, 8⟩
  else h.place rd j

/-- Piece `j` of a region's packed bytes (R16). -/
def Hnd.cut (h : Hnd) (bs : List Byte) (j : Nat) : Nat :=
  if h.unitBits % 8 = 0 then (bs.getD j 0#8).toNat
  else leNat ((bs.drop (j * h.unitBits / 8)).take 2) / 2 ^ (j * h.unitBits % 8) % 2 ^ h.unitBits

/-- Bits of a piece. -/
def Hnd.pieceBits (h : Hnd) : Nat := if h.unitBits % 8 = 0 then 8 else h.unitBits

/-- Places of the scales a region carries (R265, R270), one for each block in region order. -/
def Hnd.scales (h : Hnd) : List (Option Loc) :=
  let l := h.box.layout
  if layScaled l then
    let k := layBlock l
    (regionIx { h.desc.extQ with x0 := h.desc.extN 0 / k }).map fun i =>
      let c := h.desc.at (i.set 0 (i.x0 * k))
      if h.box.has c then some (h.box.scaleBox.loc (scaleCoord l (h.box.mapped c))) else none
  else []

/-- A handle covers whole groups (R198, R165, R169); the last may end at the box's end (DEDUCED, log 30). -/
def Hnd.whole (h : Hnd) : Bool :=
  let l := h.box.layout
  let n := if layZmask l then layGroup l else packE l
  if layZmask l || layFp6 l || layFp4 l then
    decide (h.desc.orgZ 0 % n = 0) && decide (h.desc.stepZ 0 = 1) &&
    (decide (h.desc.extN 0 % n = 0) || (!layZmask l && decide (h.desc.orgZ 0 + h.desc.extN 0 = (h.box.ext.x0 : Int))))
  else true

/-! ## Moving elements -/

/-- Byte ranges in the order of places, neighbours joined. -/
def joinRuns (ls : List Loc) : List (Nat × Nat) :=
  (ls.foldl (fun (acc : List (Nat × Nat)) l =>
    match acc with
    | (a, n) :: r => if a ≤ l.addr && l.addr ≤ a + n then (a, max n (l.addr + l.bytes - a)) :: r else (l.addr, l.bytes) :: acc
    | [] => [(l.addr, l.bytes)]) []).reverse

/-- Elements and their values as byte runs, each with the mask of the bits it writes (R16, R134). -/
def placeRuns (ps : List (Loc × Nat)) : List WRun :=
  let full := ps.all fun e => decide (e.1.width = 8 * e.1.bytes)
  let data := ps.foldl (fun (m : Mem) e => Mem.write m e.1.addr (e.1.into (Mem.bytes m e.1.addr e.1.bytes) e.2)) []
  let mask := ps.foldl (fun (m : Mem) e =>
    Mem.write m e.1.addr (e.1.into (Mem.bytes m e.1.addr e.1.bytes) (2 ^ e.1.width - 1))) []
  (joinRuns (ps.map (·.1))).map fun r => ⟨r.1, Mem.bytes data r.1 r.2, if full then [] else Mem.bytes mask r.1 r.2⟩

/-- What has been read: bytes by address, label of the pages, a CANCEL error met. -/
structure Got where
  mem    : Mem
  lab    : Label
  cancel : Nat
  deriving Inhabited

/-- The bytes of places read (R199, R322): a run whose label the box may not take raises LABEL_FLOW (R355). -/
def State.readRuns (s : State) (ctx : Ctx) (u : Nat) (b : Box) (into : Label) (rs : List (Nat × Nat)) :
    State × Except XErr Got :=
  match rs with
  | [] => (s, .ok ⟨[], 0#8, 0⟩)
  | (a, n) :: r =>
    match s.readBox ctx u b a n with
    | (s, .error e) => (s, .error e)
    | (s, .ok d) =>
      if !Label.sub d.lab into then (s, .error (.flt fLabelFlow 3 0 a))
      else match s.readRuns ctx u b into r with
        | (s, .error e) => (s, .error e)
        | (s, .ok g) => (s, .ok ⟨Mem.write g.mem a d.data, d.lab ||| g.lab, max d.cancel g.cancel⟩)

def State.readPlaces (s : State) (ctx : Ctx) (u : Nat) (b : Box) (into : Label) (ps : List (Option Loc)) :
    State × Except XErr (List Nat × Label × Nat) :=
  match s.readRuns ctx u b into (joinRuns (ps.filterMap id)) with
  | (s, .error e) => (s, .error e)
  | (s, .ok g) =>
    (s, .ok (ps.map (fun p => match p with | some l => l.of (Mem.bytes g.mem l.addr l.bytes) | none => 0), g.lab, g.cancel))

/-- A region's packed bytes as they stand in a scratchpad, scales behind them. -/
def Hnd.packed (h : Hnd) (m : Mem) : List Byte :=
  let val (p : Option Loc) : Nat := match p with | some l => l.of (Mem.bytes m l.addr l.bytes) | none => 0
  leBytes h.size (pack h.unitBits ((List.range h.count).map fun e => val (h.place true e)))

/-- The scales of a region as they stand in a scratchpad. -/
def Hnd.packedScales (h : Hnd) (m : Mem) : List Byte :=
  h.scales.flatMap fun p => match p with
    | some l => Mem.bytes m l.addr l.bytes
    | none => List.replicate (if h.box.layout = 0x18 then 4 else 1) 0#8

end Sys2Proof.Machine
end

