-- ==== Sys2Proof/Machine/Order.lean ====
section
/-! DEFINITION. What orders the accesses of C words (spec 17, R324-R332; 08, R212, R215): program order on SO pages and in
cluster stores, fences by scope, releases. -/

namespace Sys2Proof.Machine

/-- The context of an untimed word's accesses. -/
def State.xctx (s : State) (w : XWord) : Ctx :=
  ⟨.clane w.unit, dieOf w.unit, w.asid, (s.task w.task).taskid.toNat, w.mark, false, none, false⟩

/-- The same with the word's key: the word translates each page once (R318). -/
def State.wctx (s : State) (k : Nat) (w : XWord) : Ctx := { s.xctx w with word := some k }

/-- A word has effects beyond its core (R212, R215). -/
def XWord.beyond (w : XWord) : Bool :=
  let cnt := match w.cnt with | some (h, _, _) => decide (h.box.scope ≠ .scratch) | none => false
  match w.kind with
  | .cout _ | .csig _ | .ratom .. | .xsend .. | .txload _ | .cslice _ | .rrot _ => true
  | .cin | .cfill | .txrun _ => decide (w.dst.box.present) && decide (w.dst.box.scope ≠ .scratch) || cnt
  | _ => false

/-! ## Pieces of a word's moves -/

/-- Bytes a word has to write: a COUT's region, or what a TXRUN emitted. -/
def XWord.outBytes (w : XWord) : Nat :=
  match w.kind with
  | .txrun _ => w.data.length
  | _ => w.src.size

/-- Pieces of the destination that a COUT or TXRUN writes; the last may be there in part (R349). -/
def XWord.outPieces (w : XWord) : Nat := min w.dst.pieces ((8 * w.outBytes + w.dst.pieceBits - 1) / w.dst.pieceBits)

/-- The beat of 256 bytes in which the last bit of a destination piece lies. -/
def XWord.beatOf (w : XWord) (j : Nat) : Nat := ((j + 1) * w.dst.pieceBits - 1) / 2048

/-- A piece has moved, by itself, with its beat, or with its slice. -/
def XWord.gone (w : XWord) (j : Nat) : Bool :=
  w.moved.contains j || (match w.kind with
    | .cout _ | .txrun _ => decide (w.beatOf j < w.sent)
    | .cslice _ => decide (w.sent = 1)
    | _ => false)

/-- Beats a word has in all (R349): the last piece may end past the last whole beat. -/
def XWord.outBeats (w : XWord) : Nat := if w.outPieces = 0 then 0 else w.beatOf (w.outPieces - 1) + 1

/-- The member that fetches line `y` of a sliced region (R210). -/
def XWord.sliceOfLine (w : XWord) (n y : Nat) : Nat := y / (w.src.desc.extN 1 / n)

/-- The member that fetches piece `j` of a sliced region. -/
def XWord.sliceOf (w : XWord) (n j : Nat) : Nat := w.sliceOfLine n (w.src.ix (w.src.unitOf j)).x1

/-- Indices of the scales of the slice a CSLICE fetches: they move with its data (R270). `read` is its member's rank. -/
def XWord.sliceScales (w : XWord) (n : Nat) : List Nat :=
  let k := layBlock w.src.box.layout
  let ls := (regionIx { w.src.desc.extQ with x0 := w.src.desc.extN 0 / k }).map fun i => i.x1.toNat
  (List.range w.src.scales.length).filter fun i => decide (w.sliceOfLine n (ls.getD i 0) = w.read)

/-- Indices of the scales that move with a word (R270, R210). -/
def XWord.scaleIx (w : XWord) : List Nat :=
  match w.kind with
  | .cin | .cout _ => List.range w.src.scales.length
  | .cslice n => w.sliceScales n
  | _ => []

/-- The scales of a word have still to move: they come with its end. -/
def XWord.scalesLeft (w : XWord) : Bool :=
  !w.scaleIx.isEmpty && (match w.kind with
    | .cout _ => decide (w.sent ≤ w.outBeats)
    | _ => decide (w.sent = 0))

/-- How many pieces a word moves: bytes or elements, rows of a CFILL, one for an atomic. -/
def XWord.steps (w : XWord) : Nat :=
  match w.kind with
  | .cin | .cslice _ => w.dst.pieces
  | .cout _ | .txrun _ => w.outPieces
  | .cfill => w.src.desc.extN 1
  | .ratom .. => 1
  | .txload _ => w.src.pieces
  | _ => 0

/-- Pieces a word has still to move; of a CSLICE those of its own slice (R210). -/
def XWord.left (w : XWord) : List Nat :=
  (List.range w.steps).filter fun j => !w.gone j && (match w.kind with | .cslice n => decide (w.sliceOf n j = w.read) | _ => true)

/-- The destinations a word writes: of a CSLICE every member's (R210). -/
def State.dstsOf (s : State) (w : XWord) : List Hnd :=
  match w.kind with
  | .cslice _ => w.ring.map fun k => (s.xwords.get k).dst
  | _ => [w.dst]

/-- The box addresses that moving piece `j` touches. -/
def State.touches (s : State) (w : XWord) (j : Nat) : List (Box × Nat) :=
  let src (i : Nat) : List (Box × Nat) := (w.src.piece true i).toList.map fun p => (w.src.box, p.addr)
  let dst : List (Box × Nat) := (s.dstsOf w).flatMap fun h => (h.piece false j).toList.map fun p => (h.box, p.addr)
  match w.kind with
  | .cin | .cslice _ => src j ++ dst
  | .cout _ | .txrun _ | .ratom .. => dst
  | .txload _ => src j
  | .cfill => ((List.range 128).filter fun e => w.src.inside j e).map fun e => (w.src.box, w.src.box.addr (w.src.elem j e))
  | _ => []

/-- Places of a region's scales with the given indices. -/
def Hnd.scalesAt (h : Hnd) (is : List Nat) : List (Box × Nat) :=
  is.filterMap fun i => (h.scales.getD i none).map fun p => (h.box.scaleBox, p.addr)

/-- The box addresses that moving a word's scales touches (R265, R270). -/
def State.scaleTouches (s : State) (w : XWord) : List (Box × Nat) :=
  (match w.kind with | .cout _ => [] | _ => w.src.scalesAt w.scaleIx) ++ (s.dstsOf w).flatMap fun h => h.scalesAt w.scaleIx

/-! ## SO order (R326, R328, R329) -/

/-- A box address lies on an SO page or in a cluster store. -/
def State.soAt (s : State) (ctx : Ctx) (b : Box) (a : Nat) : Bool :=
  match b.scope with
  | .scratch => false
  | .clstore => true
  | _ => match s.pageFor ctx a with
    | some (p, _) => decide (p.kind = 0)
    | none => false

/-- Moving piece `j` makes an access in SO order; a TXRUN's source is read before its first piece. -/
def State.soPiece (s : State) (k : Nat) (w : XWord) (j : Nat) : Bool := (s.touches w j).any fun e => s.soAt (s.wctx k w) e.1 e.2

/-- The scales of a word move in SO order: each part of a copy is ordered by its own pages (R328). -/
def State.soScales (s : State) (k : Nat) (w : XWord) : Bool := (s.scaleTouches w).any fun e => s.soAt (s.wctx k w) e.1 e.2

/-- A TXRUN still has its source to read, in part from SO pages. -/
def State.soSource (s : State) (k : Nat) (w : XWord) : Bool :=
  match w.kind with
  | .txrun _ => decide (w.read ≠ 1) && w.src.box.scope.inDev && (List.range w.src.pieces).any fun j =>
      match w.src.piece true j with
      | some p => s.soAt (s.wctx k w) w.src.box p.addr
      | none => false
  | _ => false

/-- A word's counter lies where accesses are in SO order. -/
def State.soCount (s : State) (k : Nat) (w : XWord) : Bool :=
  match w.cnt with
  | some (h, i, _) => s.soAt (s.wctx k w) h.box (h.box.addr ⟨(i : Int), 0, 0, 0⟩)
  | none => false

/-- An access of a word to SO memory outside the package is on its way. -/
def State.soOnWay (s : State) (k : Nat) : Bool :=
  s.colQ.any (fun t => decide (t.word = some k) && t.so) || s.peers.any fun p => p.2.buf.any fun f => decide (f.word = some k) && f.so

/-- A word still has an access in SO order to perform; one deferred to a commit comes with the commit. -/
def State.soOwed (s : State) (k : Nat) (w : XWord) : Bool :=
  !w.dead && (s.soOnWay k
    || (!w.done && (s.soSource k w || (w.scalesLeft && s.soScales k w) || w.left.any fun j => s.soPiece k w j))
    || (w.cstat = .released && s.soCount k w))

/-- Every earlier word of the unit has performed its accesses in SO order (R326). -/
def State.soClear (s : State) (k : Nat) (w : XWord) : Bool :=
  s.xwords.all fun e => decide (e.2.unit ≠ w.unit) || decide (k ≤ e.1) || e.2.isFence || !s.soOwed e.1 e.2

/-- Piece `j` may move now as far as SO order goes: it is no such access, or every earlier one has performed. -/
def State.soOk (s : State) (k : Nat) (w : XWord) (j : Nat) : Bool :=
  !s.soPiece k w j || (s.soClear k w && !s.soOnWay k && !s.soSource k w
    && (w.left.filter (· < j)).all fun i => !s.soPiece k w i)

/-- The scales of a word may move now as far as SO order goes: they come after its data. -/
def State.soScalesOk (s : State) (k : Nat) (w : XWord) : Bool :=
  !w.scalesLeft || !s.soScales k w || (s.soClear k w && !s.soOnWay k)

/-! ## Fences and releases (R215, R238, R324, R332) -/

/-- The memory at a box address lies inside a scope narrower than PACKAGE around a unit (R324): a page by its own die. -/
def State.insideScope (s : State) (sc : Nat) (ctx : Ctx) (u : Nat) (b : Box) (a : Nat) : Bool :=
  match b.scope with
  | .scratch => true
  | .clstore => decide (sc ≥ 1) && decide (b.home = clusterOf u)
  | _ => decide (sc ≥ 2) && (match s.pageFor ctx a with
      | some (p, page) => decide (p.tgt = 0) && decide ((p.addr + (a - page)) / 2 ^ 37 = dieOf u)
      | none => true)

/-- What a word sends beyond its core has been read, so that it can have left (R324, R332). -/
def XWord.read_ (w : XWord) : Bool :=
  match w.kind with
  | .cout _ | .xsend .. => decide (w.data.length ≥ w.src.size)
  | .txrun _ | .ratom .. => decide (w.read = 1)
  | _ => false

/-- Pieces and scales of a destination that have not moved and lie inside a scope. -/
def State.owedInside (s : State) (sc k : Nat) (w : XWord) : Bool :=
  let inside (e : Box × Nat) : Bool := s.insideScope sc (s.wctx k w) w.unit e.1 e.2
  ((List.range w.dst.pieces).any fun j => !w.gone j && (match w.dst.piece false j with
    | some p => inside (w.dst.box, p.addr)
    | none => false))
  || (w.scalesLeft && (w.dst.scalesAt w.scaleIx).any inside)

/-- What a word writes has been written: it is complete, or it is a CSLICE whose own slice stands at every member (R210). -/
def XWord.wrote (w : XWord) : Bool := w.done || (match w.kind with | .cslice _ => decide (w.sent = 1) | _ => false)

/-- A word's effects beyond its core are performed at a scope (R324, R332): those inside it performed, those on their way
out of it gone, its addition among them. An addition deferred to a commit takes no part before it (DEDUCED, log 30). -/
def State.performedAt (s : State) (sc k : Nat) : Bool :=
  match Tab.find s.xwords k with
  | none => true
  | some w =>
    if sc ≥ 3 then
      w.wrote && !s.colQ.any (fun t => decide (t.word = some k)) && w.cstat ≠ .released
        && (decide (sc = 3) || !s.flitOpen k)
    else (w.wrote || (w.read_ && !s.owedInside sc k w)) && w.cstat ≠ .released

/-- The earlier words whose completion a CSIG waits for: those with effects beyond the core (R212); under phase protection,
where its token comes with it, every one (R200). -/
def State.waitsOf (s : State) (u : Nat) : List Nat :=
  if s.prot u then s.openWords u
  else (s.xwords.filter fun e => decide (e.2.unit = u) && !e.2.done && e.2.beyond).map (·.1)

/-- What the fences of a unit hold before a later effect beyond the core (R215, R238): earlier words, each with the scope at
which it has to be performed; those with an addition still to come (R225) among them. -/
def State.afterOf (s : State) (u : Nat) : List (Nat × Nat) :=
  let mine := s.xwords.filter fun e => decide (e.2.unit = u)
  mine.flatMap fun f => match f.2.kind with
    | .cfence sc => (mine.filter fun e => decide (e.1 < f.1) && e.2.beyond
        && (e.2.cstat = .pending || !s.performedAt (scopeN sc) e.1)).map
        fun e => (e.1, scopeN sc)
    | _ => []

/-- What a fence or a release holds before a word's effects beyond its core has been performed (R215, R331, R332). -/
def State.afterOk (s : State) (w : XWord) : Bool := w.after.all fun e => s.performedAt e.2 e.1

/-- An access of a word's stream, its own or an earlier word's, is stalled on a page: it waits (R320). -/
def State.streamStalled (s : State) (k : Nat) (w : XWord) : Bool :=
  s.stalls.any fun st => st.agent = .clane w.unit && decide (st.word ≤ k)

/-- The writes a released addition follows are complete (R331). -/
def State.relOk (s : State) (w : XWord) : Bool :=
  w.rel.all fun j => s.isDone j && !s.colQ.any fun t => decide (t.word = some j)

/-- The data of a word leaves its core, so that a fence before it holds the word back as a whole; else its addition alone. -/
def XWord.leaves (w : XWord) : Bool :=
  match w.kind with
  | .cin | .cfill | .txrun _ => w.dst.box.present && decide (w.dst.box.scope ≠ .scratch)
  | _ => w.beyond

end Sys2Proof.Machine
end

