-- ==== Sys2Proof/Machine/Segment.lean ====
section
/-! DEFINITION. Segment and phase words and the checks at a segment's end (spec 08, R219-R227; 09, R250-R255; 14,
R283, R284), and the return from a cancel (R252). -/

namespace Sys2Proof.Machine

/-! ## CRC (R222) -/

def crcBit (c : BitVec 64) : BitVec 64 :=
  if c.getLsbD 63 then (c <<< 1) ^^^ 0x42F0E1EBA9EA3693#64 else c <<< 1

def crcByte (c : BitVec 64) (b : Byte) : BitVec 64 :=
  let c := c ^^^ ((b.setWidth 64) <<< 56)
  crcBit (crcBit (crcBit (crcBit (crcBit (crcBit (crcBit (crcBit c)))))))

def crcBytes (c : BitVec 64) (bs : List Byte) : BitVec 64 := bs.foldl crcByte c

def crcInit : BitVec 64 := 0xFFFFFFFFFFFFFFFF#64

/-- The words of one issued instruction join the signature; SEGEND's literals do not (R222). -/
def crcWords (c : BitVec 64) (ws : List Word) : BitVec 64 :=
  ws.foldl (fun c w => crcBytes c (leBytes 8 w.toNat)) c

/-! ## SYNC (R219, R220, R254, R258, R415) -/

/-- The segment a SYNC at index `pc` opens: the fetch groups of cycles −2 and −1 are done with it (R239). -/
def State.openSeg (s : State) (u pc : Nat) : State :=
  let x := s.unit u
  let g : Seg := { (default : Seg) with
    npc := pc + 1, accF := x.regs.acc, accC := x.regs.acc, crc := crcWords crcInit [0x000D000000000000#64]
    tick := x.real, segno := min (x.seg.segno + 1) 0xFFFF, gl := (0, 0#8) }
  let fresh (b : BSlot) : BSlot := { b with ready := 0 }
  let awake (t : Tile) : Tile := { t with wake := 0 }
  let tiles := (x.regs.tiles.map fun e => (e.1, awake e.2)).filter fun e => decide (e.2 ≠ default)
  let x := { x with
    mode := .seg, order := false, real := none, seg := g, ring := none, segs := x.segs + 1
    regs := { x.regs with tiles := tiles }
    iss := ⟨pc, 1, 0, x.vol.lblpc, true, 0, none⟩
    vol := { x.vol with latIss := none, vlatIss := none }
    que := { x.que with slots := (x.que.slots.map fun e => (e.1, fresh e.2)), fmtq := [], afifo := [], ares := 0, arel := 0, toks := [], mruns := [], mwC := 0, mwR := [] } }
  let s := s.setUnit u x
  let s := match g.tick with
    | some t => { s with dies := s.dies.upd (dieOf u) fun d => { d with ticks := t :: d.ticks.filter (· ≠ t) } }
    | none => s
  let step (s : State) (first n : Nat) : State :=
    match s.fetchUpTo u first n with
    | (s, none) => s
    | (s, some (code, lane)) =>
      s.raise u { (s.unit u).flt lane code 0 (s.unit u).vol.lblpc with cyc := 2 ^ 32 + first - 2 } false
  let s := step s 0 3
  if (s.unit u).mode = .seg then step s 1 4 else s

/-- A unit whose SYNC could issue now: it stands at its SYNC, no timed effect is to come, no P-state change holds it. -/
def State.syncReady (s : State) (u : Nat) : Bool :=
  let x := s.unit u
  decide (x.mode = .sync) && x.pend.isEmpty && !(s.dies.get (dieOf u)).drain

/-- The SYNCs of a gang issue together, those of a unit alone at once; after REALIGN only at the tick (R254, R258). A
member that stands at its TEND has ended; while a member is saved off its core none issues (R255); a decode fault of one
member's first groups ends or cancels the others before they open. -/
def State.trySync (s : State) (u : Nat) : State :=
  let us := s.gangLive u
  let whole := match (s.unit u).task with
    | some k => (s.gangTasks k).all fun j => (s.task j).st = .running
    | none => true
  if whole && us.all (fun v => s.syncReady v && (match (s.unit v).real with | some t => decide (t ≤ s.frame.toNat) | none => true))
  then us.foldl (fun s v => if (s.unit v).mode = .sync then s.openSeg v (s.unit v).pc else s) s
  else s

/-- SYNC: in a segment it is ILLEGAL_OPERAND; past its tick it is a schedule miss (R227); else it stands ready and
issues as soon as it may. -/
def execSync (_h : Hdr) (s : State) : Out :=
  let x := s.me
  let u := s.active
  if x.iss.timed then .next (s.fail lanS fIllegalOperand 0 x.iss.lab)
  else
    match x.real with
    | some t =>
      if t ≤ s.frame.toNat then .next (s.fail lanS fScheduleMiss 9 x.iss.lab)
      else .next (s.modUnit u fun x => { x with mode := .sync, pc := x.iss.pc })
    | none =>
      let s := s.modUnit u fun x => { x with mode := .sync, pc := x.iss.pc }
      .next (s.trySync u)

/-- SEGEND (R100, R123, R219): fetch has stopped behind it; the checks come at Lseg − 1. -/
def execSegend (_h : Hdr) (sig : BitVec 64) (len : BitVec 32) (s : State) : Out :=
  let x := s.me
  if !x.iss.timed then .next (s.fail lanS fIllegalOperand 0 x.iss.lab)
  else if !x.vol.rstack.isEmpty then .next (s.fail lanS fIllegalOperand 0 x.iss.lab)
  else .next (s.modMe fun x => { x with seg := { x.seg with ended := some (sig, len), stopped := true } })

/-! ## Held faults and CANCEL errors (R203, R283) -/

/-- The held fault of a task's words found first. -/
def State.heldOf (s : State) (t : Nat) : Option Flt :=
  (s.xwords.foldl (fun (b : Option (Nat × Flt)) e =>
    match e.2.held with
    | some f =>
      if e.2.task = t then
        (match b with | some (n, _) => if e.2.found < n then some (e.2.found, f) else b | none => some (e.2.found, f))
      else b
    | none => b) none).map (·.2)

/-- The CANCEL memory error that stands at words (R283): the severest, the first of those; its record, if it comes to one, names the
word and the first element of its region (log 41). -/
def cancelFlt (ws : List XWord) : Option Flt :=
  let c := ws.foldl (fun m w => max m w.cancel) 0
  (ws.find? fun w => decide (c ≠ 0) && decide (w.cancel = c)).map fun w =>
    let h := if w.src.box.present && w.src.box.scope ≠ .scratch || !w.dst.box.present then w.src else w.dst
    { (default : Flt) with
      code := fCancel, sub := c, lane := lanC, cyc := w.issue, lab := w.lab, slot := h.desc.slot.toNat, bd := h.box.detail (h.coord 0) }

/-- CANCEL errors of a task are acted on once. -/
def State.clearCancel (s : State) (t : Nat) : State :=
  { s with xwords := s.xwords.map fun e => if e.2.task = t then (e.1, { e.2 with cancel := 0 }) else e }

/-- What stands at a raising point (R283): the held fault found first, else a CANCEL error. -/
def State.standing (s : State) (u : Nat) : Option Flt :=
  match (s.unit u).task with
  | none => none
  | some t =>
    match s.heldOf t with
    | some f => some f
    | none => cancelFlt ((s.xwords.filter fun e => decide (e.2.task = t)).map (·.2))

/-- A held fault that is raised is held no longer: the first word of a task that holds it is released. -/
def State.unhold (s : State) (t : Nat) (f : Flt) : State :=
  match s.xwords.find? fun e => decide (e.2.task = t) && e.2.held = some f with
  | some e => { s with xwords := s.xwords.put e.1 { e.2 with held := none } }
  | none => s

/-- A standing fault raised; with it the task's CANCEL errors are spent. -/
def State.raiseStanding (s : State) (u : Nat) (f : Flt) : State :=
  let s := match (s.unit u).task with | some t => (s.clearCancel t).unhold t f | none => s
  s.raise u f false

/-! ## The checks at Lseg − 1 (R221) -/

/-- SEGMENT_END_CHECK on a unit. -/
def State.endCheck (s : State) (u : Nat) (sig : BitVec 64) (len : BitVec 32) : State :=
  let x := s.unit u
  let lseg := x.seg.last + 1
  let crc := crcBytes x.seg.crc (leBytes 4 lseg)
  let s := s.modUnit u fun x => { x with iss := { x.iss with cyc := x.seg.last, timed := true } }
  let badS := decide (crc ≠ sig)
  let badL := decide (lseg ≠ len.toNat)
  let f (code sub det : Nat) : Flt := { (s.unit u).flt lanS code sub x.vol.lblpc with det := det }
  if badS || badL then
    s.raise u (f fSegmentCheck (if badS && badL then 3 else if badL then 2 else 1) lseg) false
  else
    match s.standing u with
    | some g => s.raiseStanding u g
    | none =>
      if s.strict u && x.vol.boxerr.getLsbD 0 then
        let e := x.vol.boxerr.toNat
        s.raise u { f fBoxRange (bits e 2 1) (bits e 49 41) with
          lane := bits e 4 3, lab := x.vol.boxerrL, slot := bits e 8 5, bd := x.vol.boxdet } false
      else s.modUnit u fun x => { x with
        mode := .code, pc := x.seg.npc, iss := { x.iss with timed := false }
        seg := { x.seg with ended := none, ctl := none } }

/-! ## Commits (R224, R225) -/

/-- Deferred CADD additions applied (R137). -/
def applyDefer (m : Mem) (l : List (Nat × Nat)) : Mem :=
  l.foldl (fun m e => Mem.write m e.1 (leBytes 8 (satAdd (Mem.nat m e.1 8) e.2))) m

/-- A released addition whose word has completed is applied at once (R225). -/
def State.applyDone (s : State) (t : Nat) (add : State → Nat → XWord → State) : State :=
  s.xwords.foldl (fun s e => if e.2.task = t && e.2.done && e.2.cstat = .released then add s e.1 e.2 else s) s

/-- The master of an untimed word has been frozen (R406). -/
def State.xfrozen (s : State) (w : XWord) : Bool := s.frozen.contains (.core w.unit w.asid)

/-- A task has ended, or only waits for its group. -/
def Task.over (t : Task) : Bool := t.st = .done || t.st = .none || t.st = .joining || t.st = .failing

/-- A fault found after a word's issue is held at it (R203), with the box access it names (R401); PERMISSION and
GATE_REFUSAL freeze its master (R405), with a record at once where the word's task has ended (R402). The word does nothing
more, and its addition is not made. A word holds the fault found first (R405): a freeze found after it has its record at
once. -/
def State.hold (s : State) (k code sub det slot : Nat) (bd : BoxDet) : State :=
  let w := s.xwords.get k
  let t := s.task w.task
  let f : Flt := { (default : Flt) with
    code := code, sub := sub, lane := lanC, cyc := w.issue, lab := w.lab, det := det, slot := slot, bd := bd }
  let s := if f.stays then s.freeze (.core w.unit w.asid) else s
  let first := match w.held with | some g => if g.stays then 2 else 1 | none => 0
  let s := if f.stays && (decide (first = 1) || (decide (first = 0) && t.over)) then
    s.post (.fault (s.launch t.lid).fn) (s.taskRec w.task f 2) else s
  let w := { w with
    held := if first ≠ 0 then w.held else if (w.void && !f.stays) || (f.stays && t.over) then none else some f
    found := if first ≠ 0 then w.found else s.founds, done := true, dead := true, cstat := .dropped }
  { s with xwords := s.xwords.put k w, founds := s.founds + 1 }

/-- A transaction of an untimed word. -/
def State.txnOf (s : State) (k : Nat) (w : XWord) (p : Pte) (layout addr size : Nat) (act : TxAct) : Txn :=
  { kind := if p.tgt = 1 then 0 else 2, port := p.port, fn := (s.launch (s.task w.task).lid).fn, asid := w.asid
    lab := w.lab, layout := layout, addr := addr, size := size, word := some k
    master := some (.core w.unit w.asid), na := (match w.kind with | .cout na => na | _ => false), so := decide (p.kind = 0), act := act }

/-- The addition of a completed word made at its counter (R201, R225): at once, or by way of the Col where the counter
lies outside the package (R359). It stays released while its page is not present or its stream is stalled (R320), or while what has to come before it has
not been performed: earlier accesses in SO order (R326, R329), what fences hold (R332), the writes before a commit (R331). -/
def State.xadd (s : State) (k : Nat) (w : XWord) : State :=
  let later : State := { s with xwords := s.xwords.put k w }
  match w.cnt with
  | none => s
  | some (h, idx, v) =>
    let c : Quad Int := ⟨idx, 0, 0, 0⟩
    let a := h.box.addr c
    let ctx := s.wctx k w
    let done : State := { s with xwords := s.xwords.put k { w with cstat := .none } }
    let here : State := match done.counterAdd ctx w.unit h.box w.lab a v with
      | (s, none) => s
      | (s, some (.flt code sub det _)) => s.hold k code sub det h.desc.slot.toNat (h.box.detail c)
      | (_, some (.absent _)) | (_, some .wait) => later
    if s.xfrozen w then { s with xwords := s.xwords.put k { w with cstat := .dropped } }
    else if s.streamStalled k w || !s.relOk w || !s.afterOk w || (s.soCount k w && (!s.soClear k w || s.soOnWay k)) then later
    else
      let out := if h.box.scope.inDev then s.pageFor ctx a else none
      match out with
      | some (p, page) =>
        if p.tgt ≠ 0 && p.allows .wr then
          let s := (done.xlate ctx a).1
          { s with colQ := s.colQ ++ [s.txnOf k w p 0x30 (p.addr + (a - page)) 8 (.add v)] }
        else here
      | none => here

/-- Additions that a commit is about to release follow the writes the task made before it (R331). -/
def State.relate (s : State) (t : Nat) : State :=
  let ws := (s.xwords.filter fun e => decide (e.2.task = t) && e.2.beyond && !e.2.done).map (·.1)
  { s with xwords := s.xwords.map fun e =>
      if e.2.task = t && e.2.cstat = .pending then (e.1, { e.2 with rel := ws.filter (· ≠ e.1) }) else e }

/-- A commit (R224 steps 2-5): staged boxes and registers snapshotted with the tag counter, deferred additions released, and
applied where nothing holds them, PHASE advanced. -/
def State.commit (s : State) (u : Nat) (order : Bool) : State :=
  let copies := s.stagedCopies u Box.allocBytes
  let s := s.modUnit u fun x => { x with
    snap := some x.regs, snapPc := x.pc, snapOrd := order, snapM := copies
    vol := { x.vol with commits := x.vol.commits + 1, attempt := 0 } }
  let s := s.modUnit u fun x => { x with spad := applyDefer x.spad x.defer, defer := [] }
  match (s.unit u).task with
  | some t => ((s.relate t).release t).applyDone t State.xadd
  | none => s

/-- A word waits for timed effects (R224 step 1, R312): it runs again once they have performed. -/
def State.again (s : State) : State := s.modMe fun x => { x with pc := x.iss.pc }

/-- PCOMMIT (R224): a standing fault is raised first (R283). -/
def execPcommit (_h : Hdr) (s : State) : Out :=
  let u := s.active
  let x := s.me
  if x.iss.timed || !s.prot u then .next (s.fail lanS fIllegalOperand 0 x.iss.lab)
  else if !x.pend.isEmpty then .next s.again
  else match s.standing u with
    | some f => .next (s.raiseStanding u f)
    | none => .next ((s.commit u false).modUnit u fun x => if x.saveNext then { x with mode := .parking } else x)

/-- PCANCEL (R226). -/
def execPcancel (_h : Hdr) (s : State) : Out :=
  let u := s.active
  let x := s.me
  if x.iss.timed || !s.prot u then .next (s.fail lanS fIllegalOperand 0 x.iss.lab)
  else if s.gangAttempt u ≥ 2 then .next (s.fail lanS fTrap 0x100 x.iss.lab)
  else .next (s.cancelGang u x.iss.cyc false)

/-- REALIGN (R227): the next SYNC issues at tick T + f; the next S word must be SYNC. -/
def execRealign (_h : Hdr) (f : BitVec 12) (s : State) : Out :=
  let u := s.active
  let x := s.me
  -- f is an immediate, and carries the code box's label (R78)
  if x.iss.timed then .next (s.fail lanS fIllegalOperand 0 (x.iss.lab ||| x.vol.codeL))
  else match s.standing u with
    | some g => .next (s.raiseStanding u g)
    | none => .next (s.modUnit u fun x => { x with real := some (s.frame.toNat + f.toNat), order := true })

/-- The counter of a WAITGE: its box and the address in it (R223). -/
def waitBox (s : State) (u slot idx : Nat) : Option (Box × Nat) :=
  let b := s.box u slot
  let c : Quad Int := ⟨idx, 0, 0, 0⟩
  if b.present && decide (b.layout = 0x30) && b.has c then some (b, b.addr c) else none

/-- WAITGE (R223, R283): it stands in any untimed code, also before a task's first segment (DESIGN CHOICE, log 91). Checks, a
standing fault, the commit under phase protection, then the wait. -/
def execWaitge (_h : Hdr) (slot : BitVec 4) (idx : BitVec 8) (a : SB) (s : State) : Out :=
  let u := s.active
  let x := s.me
  let v := x.readB a
  let l := v.l ||| x.iss.lab
  if x.iss.timed then .next (s.fail lanS fWaitOrder 0 l)
  else match waitBox s u slot.toNat idx.toNat with
    | none => .next (s.fail lanS fIllegalOperand 0 l)
    | some (b, _) =>
      if !x.pend.isEmpty && s.prot u then .next s.again
      else match s.standing u with
        | some f => .next (s.raiseStanding u f)
        | none =>
          let s := if s.prot u && !isSeq u then s.commit u true else s
          .next (s.modUnit u fun x => { x with
            mode := .wait slot.toNat idx.toNat v.v.toNat (b.lab ||| v.l), order := !isSeq u, since := s.frame.toNat })

/-- An access of a unit itself, a wait's look at its counter or a sequencer's word, is stalled on a page (R320). -/
def State.unitStalled (s : State) (u : Nat) : Bool := s.stalls.any fun e => decide (e.agent = .lane u) || decide (e.agent = .seq u)

/-- The wait of a task ends (R223 steps 2-4): WAITGE_SATISFIED. -/
def execWaitgeSatisfied (tid : Nat) (s : State) : Out :=
  match (s.task tid).unit with
  | none => noEvent s "the task holds no core or sequencer"
  | some u =>
    if s.unitStalled u then noEvent s "the access waits for its page"
    else match (s.unit u).mode with
    | .wait slot idx target l =>
      match waitBox s u slot idx with
      | none => noEvent s "no counter is waited on"
      | some (b, a) =>
        match s.counterGet (s.ctxOf u) u b a with
        | (t, .ok v) =>
          if v ≥ target then
            .next (t.modUnit u fun x => { x with mode := .code, vol := { x.vol with lblpc := x.vol.lblpc ||| l } })
          else noEvent s "the counter is below its target"
        | (t, .error (.flt code sub det _)) =>
          .next (t.raise u { (t.unit u).flt lanS code sub l with
            det := det, slot := slot, bd := b.detail ⟨(idx : Int), 0, 0, 0⟩ } false)
        | (_, .error _) => noEvent s "the counter's page is not present"
    | _ => noEvent s "the task is not waiting"

/-! ## The return from a cancel (R252) -/

/-- No timed effect is to come and every untimed word that writes the core has completed (R252 steps 3 and 4). -/
def State.quiet (s : State) (u : Nat) : Bool :=
  (s.unit u).pend.isEmpty && !(s.xwords.any fun e => decide (e.2.unit = u) && !e.2.dead && (
    (!e.2.done && (match e.2.kind with
      | .cin | .cslice _ | .txrun _ => decide (e.2.dst.box.scope = .scratch)
      | .ratom .. | .cfill => true
      | _ => false))
    || (e.2.cstat = .released && (match e.2.cnt with | some (h, _, _) => decide (h.box.scope = .scratch) | none => false))))

/-- A phase-protected task resumes after its last commit (R62, R252, R123). -/
def State.resume (s : State) (u : Nat) (count : Bool) : State :=
  s.modUnit u fun x =>
    let r := x.snap.getD x.regs
    let y := x.restore r x.snapM x.snapPc
    { y with defer := [], vol := { y.vol with attempt := y.vol.attempt + (if count then 1 else 0) } }

/-- A task leaves its unit to be placed again: a whole re-run from its inputs, from R61 with LBLPC as spawned (R253, R62). -/
def State.rerun (s : State) (u : Nat) (count : Bool) : State :=
  match (s.unit u).task with
  | none => s
  | some t =>
    let x := s.unit u
    let s := ((s.setUnit u { x with mode := .idle, task := none, pend := [], defer := [], real := none }).charge u).gain t
    s.modTask t fun k => { k with
      st := .spawned, unit := none, ready := false, saved := none, attempt := x.vol.attempt + (if count then 1 else 0)
      start := s.frame.toNat, lbl := k.lbl0, segno := 0 }

/-- The lowest place for `size` bytes beside ranges in use. -/
def firstFit (used : List (Nat × Nat)) (size limit al : Nat) : Option Nat :=
  let free (p : Nat) : Bool := decide (p + size ≤ limit) && used.all fun r => decide (p + size ≤ r.1) || decide (r.1 + r.2 ≤ p)
  ((0 :: used.map fun r => upTo (r.1 + r.2) al).filter free).foldl (fun (b : Option Nat) p => match b with
    | some q => some (min p q)
    | none => some p) none

/-- The state of R62 as bytes, each value followed by its label; how the save area is laid out is open (DESIGN CHOICE, log 31). -/
def Regs.image (r : Regs) : List Byte :=
  let put (n v : Nat) (l : Label) : List Byte := leBytes n v ++ [l]
  (List.range 32).flatMap (fun i => put 8 (r.s.get i).v.toNat (r.s.get i).l)
  ++ (List.range 64).flatMap (fun i => put 1 (b2n (r.p.get i).v) (r.p.get i).l)
  ++ (List.range 16).flatMap (fun i => (List.range 5).flatMap (fun w => leBytes 8 ((r.d.get i).word w).toNat) ++ [(r.d.get i).lab])
  ++ (List.range 8).flatMap (fun i => put 64 (r.m.get i).v.toNat (r.m.get i).l)
  ++ leBytes 4 r.lcnt.toNat ++ leBytes 2 r.dcnt.toNat ++ leBytes 1 r.rbase.toNat ++ leBytes 1 r.pbase.toNat
  ++ leBytes 8 r.vmode.toNat ++ r.gens.flatMap (fun g => leBytes 4 g.toNat) ++ [r.seedLab]
  ++ put 1 r.vstat.toNat r.vstatL ++ leBytes 1 r.acc ++ leBytes 2 r.tag.toNat
  ++ (List.range r.acc).flatMap fun i =>
    let t := r.tiles.get i
    leBytes 1 (match t.pow with | .on => 0 | .retain => 1 | .gated => 2) ++ leBytes 1 (b2n t.int) ++ leBytes 1 (b2n t.stale)
    ++ (List.range 128).flatMap (fun k => put 512 (t.rows.get k).v.toNat (t.rows.get k).l)
    ++ (List.range 128).flatMap fun k => leBytes 4 (t.xr.get k).toNat ++ leBytes 4 (t.xc.get k).toNat

/-- A saved task's state put into its context's save area (R306): a range of its own, where there is room for it; without room it is
kept in the task table alone (log 31). -/
def State.stashAway (s : State) (k : Nat) (bs : List Byte) : State :=
  let t := s.task k
  let asid := (s.launch t.lid).asid
  let a := s.asids.get asid
  let n := (bs.length + 65535) / 65536 * 65536
  match firstFit (a.stash.map fun r => (r.2.1 - a.save, r.2.2)) n a.saveN 65536 with
  | some p =>
    let s := { s with asids := s.asids.put asid { a with stash := (k, a.save + p, n) :: a.stash } }
    (s.writeVa ⟨.sched t.die, t.die, asid, 0xFFFFFFFF, 0, false, none, true⟩ .wr 0#8 (pagesOf bs.length) (a.save + p) bs).1
  | none => s

/-- A task saved off its unit (R306, R308) with registers `r`, to resume at `pc`: staged boxes by their committed copies
where there are such, the other boxes of its scratchpad as they stand. -/
def State.saveOff (s : State) (u : Nat) (st : TState) (r : Regs) (pc : Nat) : State :=
  match (s.unit u).task with
  | none => s
  | some t =>
    let x := s.unit u
    let boxes := ((s.task t).boxes.filter fun e => e.2.scope = .scratch && e.2.present && e.2.mode ≠ .stream).map fun e =>
      let com := (x.snapM.find? fun b => b.1 = e.2.base).map (·.2)
      (e.1, if e.2.staged then com.getD (Mem.bytes x.spad e.2.base e.2.allocBytes) else Mem.bytes x.spad e.2.base e.2.allocBytes)
    let s := (s.setUnit u { x with mode := .idle, task := none, pend := [], defer := [], real := none }).charge u
    let s := if st = .spawned then s.gain t else s
    (s.stashAway t (boxes.flatMap (·.2) ++ r.image)).modTask t fun k => { k with
      st := st, unit := none, ready := false, saved := some ⟨r, x.vol, boxes, pc, x.order⟩, attempt := x.vol.attempt
      commits := x.vol.commits, start := s.frame.toNat, lbl := x.vol.lblpc, segno := x.seg.segno }

/-- PHASE_RESTORE_COMPLETE (R252 steps 4, 5): the phase resumes, or the unprotected task is re-run whole. After a
quarantine the next attempt runs elsewhere, a timetabled one not at all, a gang once every member is off its core (R408); a
forced save takes the task off (R308), its attempt not counted. -/
def execPhaseRestoreComplete (tid : Nat) (s : State) : Out :=
  match (s.task tid).unit with
  | none => noEvent s "the task holds no core or sequencer"
  | some u =>
    if (s.unit u).mode ≠ .restoring then noEvent s "no restore is under way"
    else if !s.quiet u then noEvent s "effects of the cancelled phase are still to come"
    else
      let sv := (s.unit u).saving
      let count := sv = 0 || sv = 2
      let off : TState := if sv = 1 || (s.gangTasks tid).length > 1 then .parked else .spawned
      if (sv = 2 || sv = 4) && (s.task tid).timed.isSome then
        .next (s.raise u { (s.unit u).flt lanS fTaskLate 4 (s.unit u).vol.lblpc with cyc := 0xFFFFFFFF } false)
      else if s.prot u then
        let s := s.resume u count
        .next (if sv = 0 || sv = 3 then s.modUnit u fun x => { x with saving := 0 } else s.saveOff u off (s.unit u).regs (s.unit u).pc)
      else .next (s.rerun u count)

/-- SEGMENT_END_CHECK (R221): at Lseg − 1 on the active unit. -/
def execSegmentEndCheck (s : State) : Out :=
  let x := s.me
  match x.mode, x.seg.ended with
  | .seg, some (sig, len) =>
    if x.seg.sb.isEmpty && x.seg.vb.isEmpty && x.seg.mb.isEmpty && x.seg.cb.isEmpty then
      .next (s.endCheck s.active sig len)
    else noEvent s "words of the segment have not issued"
  | _, _ => noEvent s "no segment has reached its SEGEND"

/-- FETCH_GROUP (R239): the next group of the active unit, in its present cycle or later. -/
def execFetchGroup (s : State) : Out :=
  let x := s.me
  if x.mode = .seg && !x.fetchBlocked then .next (s.fetchAt s.active (max x.seg.fetchC x.seg.cyc))
  else noEvent s "fetch is stopped or blocked"

end Sys2Proof.Machine
end

