-- ==== Sys2Proof/Machine/Place.lean ====
section
/-! DEFINITION. Where boxes and staging areas lie (spec 10, R264-R268; 15, R230, R292, R300): scratchpads, cluster stores,
the arena. -/

namespace Sys2Proof.Machine

/-- SCOPE codes of R261. -/
def scopeCode (n : Nat) : BScope :=
  match n with
  | 0 => .scratch
  | 1 => .clstore
  | 2 => .diemem
  | _ => .devmem

/-! ## Memory for boxes -/

/-- Bytes a box takes: a staged box of a phase-protected task twice (R267). -/
def boxSpace (prot : Bool) (b : Box) : Nat := if b.staged && prot then 2 * b.allocBytes else b.allocBytes

/-- What stands in a core's scratchpad (R267, R300): boxes of the tasks on it, and the places that words of ended tasks
still read or write (R280). -/
def State.scratchUsed (s : State) (u : Nat) : List (Nat × Nat) :=
  let boxes := s.tasks.flatMap fun e =>
    if e.2.unit = some u && e.2.st ≠ .spawned then
      (e.2.boxes.filter fun b => b.2.scope = .scratch && b.2.mode ≠ .stream && b.2.present).map fun b =>
        (b.2.base, boxSpace ((s.launch e.2.lid).entryOf e.2.index).prot b.2)
    else []
  let words := s.xwords.flatMap fun e =>
    if e.2.unit = u && !e.2.done then
      ([e.2.src, e.2.dst].filter fun h => h.box.scope = .scratch && h.box.present).map fun h => (h.box.base, h.box.allocBytes)
    else []
  boxes ++ words

/-- 64 KiB pages of a box in the arena: those of its data and those of its scale part (R265, R292). -/
def Box.arenaPages (b : Box) : Nat × Nat :=
  ((b.dataBytes + 65535) / 65536, if layScaled b.layout then (b.scaleBox.dataBytes + 65535) / 65536 else 0)

/-- The address of the level-3 leaf entry of an address, as the tables stand (R314). -/
def State.leafFrom (s : State) (va tbl : Nat) (lv : List (Nat × Nat × Nat)) : Option Nat :=
  match lv with
  | [] => none
  | (sh, w, n) :: r =>
    let ea := entryAt tbl va sh w
    let e := leNat (s.seen 0 ea 16)
    if !e.testBit 0 then none
    else if e.testBit 1 then (if n = 3 then some ea else none)
    else s.leafFrom va (bits e 115 64) r

/-- A scheduler's accesses to the tables of an address space: page tables are control (R393). -/
def tableCtx (asid die : Nat) : Ctx := ⟨.sched die, die, asid, 0xFFFFFFFF, 0, false, none, true⟩

/-- The walk by which the scheduler of a die finds the leaf of an arena page: each entry read is judged (R393). -/
def State.arenaWalk (s : State) (asid die va : Nat) : State × Walk :=
  let a := s.asids.get asid
  s.walkMade (tableCtx asid die) a.fn va a.l0 walkLevels

/-- A page of the arena that is free and has a frame, on die `die` where one is asked for; a page whose tables cannot be read is
passed over (R292, log 14). `at_` is the die of the scheduler. -/
def State.arenaFree (s : State) (asid at_ : Nat) (die : Option Nat) (va : Nat) : Bool :=
  (s.asids.get asid).taken.all (fun r => decide (va < r.1) || decide (r.1 + r.2 ≤ va)) &&
  match (s.arenaWalk asid at_ va).2 with
  | .leaf p _ => decide (p.size = 0) && decide (p.tgt = 0) && !p.tx && s.physOk p.addr 65536
      && (match die with | some d => decide (p.addr / 2 ^ 37 = d) | none => true)
  | _ => false

/-- Where `n` pages of the arena are free one after another. -/
def State.arenaFit (s : State) (asid at_ : Nat) (die : Option Nat) (n : Nat) : Option Nat :=
  let a := s.asids.get asid
  let total := a.arenaN / 65536
  ((List.range total).find? fun i => decide (i + n ≤ total) &&
    (List.range n).all fun j => s.arenaFree asid at_ die (a.arena + 65536 * (i + j))).map fun i => a.arena + 65536 * i

/-- A leaf entry of the arena as the scheduler writes it (R292): the frame it has, KIND RC, POLCLASS 0, R, W and AT. The tables are
read and written at the controllers like any memory (R393, R397). -/
def State.arenaLeaf (s : State) (asid at_ va layout : Nat) (l : Label) : State :=
  let s := (s.arenaWalk asid at_ va).1
  match s.leafFrom va (s.asids.get asid).l0 walkLevels with
  | none => s
  | some ea =>
    let s := s.tlbDrop asid (some (va, 65536))
    s.writePhys (tableCtx asid at_) (.raw 0) 2 ea (leBytes 8 (1 + 2 + 4 + 8 + 16 + 32 + 1024 * layout + 2 ^ 20 * l.toNat)) (List.replicate 8 0xFF#8)

/-- Space for a box in a cluster store or in the arena, on die `die`, in cluster `c` (R268, R292); none when there is no
room. -/
def State.allot (s : State) (asid die c : Nat) (b : Box) : Option (State × Nat) :=
  match b.scope with
  | .scratch => none
  | .clstore =>
    (firstFit (s.clused.get c) b.allocBytes (2 ^ 24) 512).map fun p =>
      ({ s with clused := s.clused.upd c fun l => (p, b.allocBytes) :: l }, p)
  | sc =>
    let (n, m) := b.arenaPages
    (s.arenaFit asid die (if sc = .diemem then some die else none) (n + m)).map fun va =>
      let s := { s with asids := s.asids.upd asid fun a => { a with taken := (va, 65536 * (n + m)) :: a.taken } }
      ((List.range (n + m)).foldl (fun (s : State) i =>
        s.arenaLeaf asid die (va + 65536 * i) (if i < n then b.layout else if b.layout = 0x18 then 0x1C else 0x1D) b.lab) s, va)

/-- An argument that stays in the parent's memory is a view of the parent's region (R270, R293). -/
def viewBox (parent : Box) (b : Box) (h : Hop) : Box :=
  { b with
    scope := parent.scope, base := parent.base, home := parent.home, decl := parent.decl
    view := some (match parent.view with
      | none => h
      | some p => ⟨p.slot, Quad.ofFn (fun i => p.org.get i + h.org.get i * p.step.get i),
          Quad.ofFn (fun i => h.step.get i * p.step.get i)⟩) }

/-- The parent's box an argument came from. -/
def State.parentBox (s : State) (k : Nat) (b : Box) : Box :=
  match (s.task k).parent, b.path with
  | some p, h :: _ => (s.task p).boxes.get h.slot
  | _, _ => default

/-- A box with a place of its own: neither a root, a stream, nor an IN argument whose levels share a memory scope. -/
def State.ownPlace (s : State) (k : Nat) (b : Box) : Bool :=
  let same := match (s.task k).parent with | some p => decide ((s.levelE p).scope = (s.levelE k).scope) | none => false
  b.present && b.mode ≠ .root && b.mode ≠ .stream && !(b.mode = .in_ && same)

/-- The boxes of a task of a level whose scope is no scratchpad placed in cluster `c` as its SPAWN has it (R268, R292). -/
def State.placeFar (s : State) (k c : Nat) (bs : List (Nat × Box)) : Option State :=
  match bs with
  | [] => some s
  | (x, b) :: r =>
    let t := s.task k
    let put (s : State) (b : Box) : Option State := (s.modTask k fun t => { t with boxes := t.boxes.put x b }).placeFar k c r
    if s.ownPlace k b then
      let b := { b with scope := scopeCode (s.levelE k).scope, base := 0, home := c }
      match s.allot (s.launch t.lid).asid t.die c b with
      | some (s, a) => put s { b with base := a }
      | none => none
    else match b.path, b.mode with
      | h :: _, .in_ => put s (viewBox (s.parentBox k b) b h)
      | _, _ => put s b

/-- The boxes of a working task placed in the scratchpad beside the ranges in use (R267, R300). -/
def State.placeNear (s : State) (u k : Nat) (used : List (Nat × Nat)) (bs : List (Nat × Box)) : Option State :=
  match bs with
  | [] => some s
  | (x, b) :: r =>
    if s.ownPlace k b then
      let n := boxSpace ((s.launch (s.task k).lid).entryOf (s.task k).index).prot b
      match firstFit used n 393216 512 with
      | some p => (s.modTask k fun t => { t with
          boxes := t.boxes.put x { b with scope := .scratch, base := p, home := clusterOf u } }).placeNear u k ((p, n) :: used) r
      | none => none
    else s.placeNear u k used r

/-- Staging for the arguments of a task with SUM, MAX, MIN or ORDER, in its parent's scope (R230); the cluster is the
parent's. -/
def State.placeStages (s : State) (k p c : Nat) (bs : List (Nat × Box)) : Option State :=
  match bs with
  | [] => some s
  | (x, b) :: r =>
    if (b.mode = .out || b.mode = .inout) && b.merge ≠ .excl then
      let sc := scopeCode (s.levelE p).scope
      match s.allot (s.launch (s.task k).lid).asid (s.task p).die c { b with scope := sc } with
      | some (s, a) => (s.modTask k fun t => { t with stages := (x, sc, c, a) :: t.stages }).placeStages k p c r
      | none => none
    else s.placeStages k p c r

end Sys2Proof.Machine
end

