-- ==== Sys2Proof/Machine/Tasks.lean ====
section
/-! DEFINITION. Task words (spec 08, R228-R234; 04, R109; 10, R263, R270, R278, R279; 15, R293-R299). -/

namespace Sys2Proof.Machine

/-! ## Checks of arguments -/

/-- The region lies inside the parent box (R270). -/
def insideBox (b : Box) (d : Desc) : Bool :=
  (List.range b.rank).all fun i =>
    decide (0 ≤ d.orgZ i) && decide (d.orgZ i + ((d.extN i : Int) - 1) * d.stepZ i ≤ (b.ext.get i : Int) - 1)

/-- The scale region of an argument is aligned (R270). -/
def scaleAligned (b : Box) (d : Desc) : Bool :=
  !layScaled b.layout ||
    (decide (d.orgZ 0 % layBlock b.layout = 0) && decide (d.extN 0 % layBlock b.layout = 0) && decide (d.stepZ 0 = 1))

/-- The argument agrees with the child's declaration (R263, R278). -/
def fitsDecl (b : Box) (d : Desc) (e : DeclE) : Bool :=
  e.present && decide (e.layout = b.layout) && decide (e.rank = b.rank)
  && (List.range b.rank).all (fun i => decide (d.extN i ≠ 0) && decide (d.extN i ≤ e.decl.get i))
  && (!layZmask b.layout || decide (e.cap = b.cap))

def isWriter (m : AMode) : Bool := m = .out || m = .inout

/-- Two arguments of a group conflict (R230). -/
def argClash (m1 : AMode) (g1 : Merge) (m2 : AMode) (g2 : Merge) : Bool :=
  if isWriter m1 && isWriter m2 then g1 = .excl || g2 = .excl || decide (g1 ≠ g2)
  else if isWriter m1 then g1 = .excl
  else if isWriter m2 then g2 = .excl
  else false

/-- Modes that take part in the overlap check (R279, R294). -/
def inOverlap (m : AMode) : Bool := m = .in_ || m = .out || m = .inout

/-- A merge policy allowed on a layout (R297). -/
def mergeOk (g : Merge) (l : Nat) : Bool :=
  match g with
  | .excl => true
  | .order => decide (l ≠ 0x30)
  | _ => [0x01, 0x02, 0x03, 0x04, 0x08, 0x09, 0x0A].contains l

/-! ## ARG -/

/-- ARG (R229, R109). -/
def execArg (_h : Hdr) (x : BitVec 4) (d : BitVec 4) (mode : AMode) (merge : Merge) (g : POp) (s : State) : Out :=
  .next (guarded s g fun s =>
    let u := s.active
    let h := s.me.regs.d.get d.toNat
    let b := s.box u h.slot.toNat
    let l := h.lab ||| s.me.baseL g
    let t := s.taskOf u
    if !h.valid then s.fail lanS fIllegalOperand 0 l
    else if t.args.any (fun a => decide (a.slot = x.toNat)) then s.fail lanS fIllegalOperand 0 l
    else if isWriter mode && b.mode = .in_ then s.failBox lanS fPermission 0 l h.slot.toNat (b.detail (Quad.ofFn h.orgZ))
    else match s.me.task with
      | none => s
      | some k => s.modTask k fun t => { t with args := t.args ++ [⟨x.toNat, h, mode, merge, l⟩] })

/-! ## SPAWN and GSPAWN -/

/-- The child's box of an argument, before its memory is placed (R229, R270). -/
def childBox (parent : Box) (a : Arg) (e : DeclE) (child : Nat) : Box :=
  { present := true, layout := parent.layout, rank := parent.rank, mode := a.mode, merge := a.merge, lab := if a.mode = .loc then 0#8 else a.lab
    staged := e.staged, scope := .scratch, cap := parent.cap
    ext := Quad.ofFn fun i => if i < parent.rank then a.desc.extN i else 1
    decl := e.decl, base := 0, home := 0, owner := child
    root := if a.mode = .loc then none else parent.root
    local_ := if a.mode = .loc then (child, a.slot) else parent.local_
    path := if a.mode = .loc then [] else a.desc.hop :: parent.path, view := none }

/-- P of R208. -/
def gangP (n : Nat) : Nat := if n ≤ 1 then 1 else if n = 2 then 2 else if n ≤ 4 then 4 else 8

/-- The timetable rows of a gang's members place them as R208 does, all at one moment (R304; judged at the GSPAWN, log 40). -/
def gangTimed (lv : LevelE) (idx first n : Nat) : Bool :=
  let row (i : Nat) := lv.table.find? fun r => r.1 = idx && r.2.1 = first + i
  match row 0 with
  | none => false
  | some (_, _, c, f, y) => decide (c % 8 % gangP n = 0) && decide (c % 8 + n ≤ 8) &&
    (List.range n).all fun i => match row i with
      | some (_, _, d, g, z) => decide (d = c + i) && decide (g = f) && decide (z = y)
      | none => false

/-- The members of task `idx` that a timetable names can be those of gangs with a number of members among `ns`: every row lies in a
run of members that R208 places (R304). -/
def gangsPlaced (lv : LevelE) (idx : Nat) (ns : List Nat) : Bool :=
  lv.table.all fun r => r.1 ≠ idx || ns.any fun n => (List.range 64).any fun first =>
    decide (first ≤ r.2.1) && decide (r.2.1 < first + n) && gangTimed lv idx first n

/-- The checks of a spawn in order, for the children with indices from `first`: fault code and DETAIL (R230, R231,
R263, R297, R304). -/
def spawnBad (s : State) (u idx n : Nat) (gang : Bool) : Option (Nat × Nat) :=
  let t := s.taskOf u
  let l := s.launchOf u
  let first := t.group.length
  match l.tasks[idx]? with
  | none => some (fIllegalOperand, 0)
  | some e =>
    let lv := l.levelOf e.level
    if e.level ≠ t.level + 1 then some (fIllegalOperand, 0)
    else if gang && lv.domain ≠ 4 then some (fIllegalOperand, 0)
    else if first + n > 64 then some (fIllegalOperand, 0)
    else if lv.timed && (List.range n).any (fun i => !lv.table.any (fun r => r.1 = idx && r.2.1 = first + i)) then
      some (fIllegalOperand, 0)
    else if gang && lv.timed && !gangTimed lv idx first n then some (fIllegalOperand, 0)
    else if t.args.any (fun a => !mergeOk a.merge (s.box u a.desc.slot.toNat).layout) then some (fIllegalOperand, 0)
    else if t.args.any (fun a =>
        let b := s.box u a.desc.slot.toNat
        !fitsDecl b a.desc (e.decls.getD a.slot default)
          || (a.mode ≠ .loc && (!insideBox b a.desc || !scaleAligned b a.desc))) then some (fSpawnRange, first)
    else
      let mine := t.args.filter (fun a => inOverlap a.mode)
      let reg (a : Arg) := regionOf (s.box u a.desc.slot.toNat) a.desc
      let inner := mine.any fun a => mine.any fun b =>
        decide (a.slot < b.slot) && (reg a).meets (reg b) && argClash a.mode a.merge b.mode b.merge
      let self := gang && decide (n > 1) && mine.any fun a => isWriter a.mode && a.merge = .excl
      let outer := t.group.any fun k => (s.task k).boxes.any fun e2 =>
        inOverlap e2.2.mode && (match e2.2.path with
          | h :: _ => mine.any fun a =>
              (reg a).meets (regionOfBox e2.2 (s.box u h.slot)) && argClash a.mode a.merge e2.2.mode e2.2.merge
          | [] => false)
      if inner || self || outer then some (fSpawnOverlap, first) else none

/-- Free task-table entries of a die (R299). -/
def State.freeEntries (s : State) (die : Nat) : Nat :=
  4096 - (s.tasks.filter fun e => decide (e.2.die = die) && decide (e.2.st ≠ .none)).length

/-- A TASKID on a die: which free entry it takes is left to the scheduler (R63, R299), so the search for one begins at a free
value. -/
def State.freeTaskid (s : State) (die n : Nat) : BitVec 32 :=
  let id (i : Nat) : BitVec 32 := BitVec.ofNat 32 (die * 2 ^ 12 + (Config.choice n + i) % 4096)
  let used := (s.tasks.filter fun e => decide (e.2.die = die) && decide (e.2.st ≠ .none)).map (·.2.taskid)
  id (((List.range 4096).find? fun i => !used.contains (id i)).getD 0)

/-- The live dies of a launch on which new tasks are placed: no shrunk one unless all of them are (R421). -/
def State.openDies (s : State) (l : Launch) : List Nat :=
  let all := (List.range 8).filter fun d => l.dies.getLsbD d && s.dieLive d
  let open_ := all.filter fun d => !(s.dies.get d).shrink
  if open_.isEmpty then all else open_

/-- The die with the fewest queued directing tasks among dies in ascending order, the lowest number on a tie (R291). -/
def State.fewest (s : State) (ds : List Nat) : Option Nat :=
  let queued (d : Nat) : Nat := (s.tasks.filter fun e => e.2.seq && decide (e.2.die = d) &&
    (e.2.st = .spawned || e.2.st = .preparing || e.2.st = .ready || e.2.st = .parked)).length
  ds.foldl (fun (b : Option Nat) d => match b with
    | some c => if queued d < queued c then some d else some c
    | none => some d) none

/-- The die the arbiter places a task on (R291): among the open dies of the launch. -/
def State.arbiterDie (s : State) (l : Launch) : Nat := (s.fewest (s.openDies l)).getD 0

/-- The die of a child (R291, log 14): the arbiter's choice below a level it places, but for a timetable (R304), else the
parent's. -/
def State.childDie (s : State) (u : Nat) : Nat :=
  let t := s.taskOf u
  let l := s.launchOf u
  if (l.levelOf t.level).byArbiter && !(l.levelOf (t.level + 1)).timed then s.arbiterDie (s.launchOf u) else t.die

/-- The children of a spawn put into the task table (R230, R231). -/
def State.spawnMany (s : State) (u parent idx n : Nat) (gang : Option Nat) (lbl : Label) : State :=
  let die := s.childDie u
  let l := s.launchOf u
  let t := s.task parent
  let e := l.entryOf idx
  let lv := l.levelOf e.level
  (List.range n).foldl (fun s i =>
    let k := s.spawns
    let ci := (s.task parent).group.length
    let boxes := t.args.foldl (fun (m : Tab Box) a =>
      let pb := s.box u a.desc.slot.toNat
      let b := childBox pb a (e.decls.getD a.slot default) k
      m.put a.slot (if a.mode = .stream then viewBox pb b a.desc.hop else b)) []
    let timed := if lv.timed then (lv.table.find? fun r => r.1 = idx && r.2.1 = ci).map (fun r => (r.2.2.1, r.2.2.2.1, r.2.2.2.2)) else none
    let c : Task := { (default : Task) with
      st := .spawned, lid := t.lid, die := die, taskid := s.freeTaskid die k, index := idx, level := e.level
      start := s.frame.toNat, inst := t.inst
      seq := decide (lv.domain ≠ 4), parent := some parent, child := ci, boxes := boxes, lbl := lbl, lbl0 := lbl, prio := l.prio
      anchor := t.anchor
      timed := timed.map (fun r => (48 * t.die + r.1, t.anchor + r.2.1, r.2.2))
      gang := gang.map (fun g => (g, i, n)) }
    let s := { s with tasks := s.tasks.put k c, spawns := k + 1 }
    let s := match gang with
      | some g => { s with gangs := s.gangs.put g (s.gangs.get g ++ [k]) }
      | none => s
    (s.gain k).modTask parent fun p => { p with group := p.group ++ [k] }) s

/-- Where the boxes and staging areas of new children lie (R230, R268, R292); none when there is no room for all. A child of
a CLUSTER level gets the lowest cluster of its parent's instance that has the room (log 14). -/
def State.placeChildren (s : State) (p : Nat) (ks : List Nat) : Option State :=
  ks.foldl (fun (o : Option State) k => o.bind fun s =>
    let t := s.task k
    let far : Option State :=
      if (s.levelE k).scope = 0 then some s
      else
        let cs := match t.inst with | some c => [c] | none => (List.range 6).map fun i => 6 * t.die + i
        cs.findSome? fun c => s.placeFar k c t.boxes
    far.bind fun s => s.placeStages k p (match (s.task p).inst with | some c => c | none => 0) (s.task k).boxes) (some s)

/-- The children of a spawn before their boxes are placed; the first one sets the anchor of its group (R304). -/
def State.newChildren (s : State) (u p idx n : Nat) (gang : Bool) (lbl : Label) : State :=
  let gk := s.spawns
  let s := if (s.task p).group.isEmpty then s.modTask p (fun k => { k with anchor := s.frame.toNat }) else s
  s.spawnMany u p idx n (if gang then some gk else none) lbl

/-- A spawn word (R230, R231): a fault leaves the group as it was; without a free table entry, staging or space for its boxes
the sequencer holds. -/
def spawnWord (s : State) (i : TIdx) (n : Nat) (gang : Bool) (g : POp) : State :=
  guarded s g fun s =>
    let u := s.active
    let v := s.me.readT i
    let l := v.l ||| s.me.baseL g
    match s.me.task with
    | none => s.fail lanS fIllegalOperand 0 l
    | some p =>
      match spawnBad s u v.v.toNat n gang with
      | some (code, det) => s.raise u { s.me.flt lanS code 0 l with det := det } true
      | none =>
        let t := s.task p
        let lv := (s.launchOf u).levelOf (t.level + 1)
        let need := if lv.domain = 4 then n else n + 512
        if s.freeEntries (s.childDie u) < need then s.again
        else
          match (s.newChildren u p v.v.toNat n gang (s.me.vol.lblpc ||| l)).placeChildren p ((List.range n).map (s.spawns + ·)) with
          | none => s.again
          | some s => s.modTask p fun k => { k with args := [] }

/-- SPAWN (R230). -/
def execSpawn (_h : Hdr) (i : TIdx) (g : POp) (s : State) : Out := .next (spawnWord s i 1 false g)

/-- GSPAWN (R231). -/
def execGspawn (_h : Hdr) (i : TIdx) (n1 : BitVec 3) (g : POp) (s : State) : Out :=
  .next (spawnWord s i (n1.toNat + 1) true g)

/-! ## CONT, TEND, TFAIL -/

/-- CONT (R232, R109): the group is closed, the sequencer freed, the continuation starts at the target. -/
def execCont (_h : Hdr) (off : BitVec 24) (g : POp) (s : State) : Out :=
  .next (guarded s g fun s =>
    let u := s.active
    let l := s.me.baseL g
    match s.me.task with
    | none => s.fail lanS fIllegalOperand 0 l
    | some k =>
      if !(s.task k).args.isEmpty then s.fail lanS fIllegalOperand 0 l
      else
        let target := s.me.target off
        let lbl := s.me.vol.lblpc
        let s := (s.modUnit u fun x => { x with mode := .idle, task := none, vol := { x.vol with rstack := [] } }).charge u
        s.modTask k fun t => { t with
          st := .joining, closed := true, unit := none, contPc := target, lbl := lbl, lbl0 := lbl, how := .ok })

/-- The first OUT or INOUT box whose elements may not go out: its label is not within its parent's (R295). -/
def State.outLabelBad (s : State) (t : Task) : Option (Nat × Box) :=
  match t.parent with
  | none => none
  | some p => t.boxes.find? fun e =>
      isWriter e.2.mode && (match e.2.path with
        | h :: _ => !Label.sub e.2.lab ((s.task p).boxes.get h.slot).lab
        | [] => false)

/-- The end of a TEND (R233, R295): held faults, strict BOXERR, LABEL_FLOW of the outward copies, then RETURNING. -/
def State.returnTask (s : State) (u : Nat) : State :=
  match (s.unit u).task with
  | none => s
  | some k =>
    let x := s.unit u
    match s.heldOf k with
    | some f => (s.unhold k f).raise u f false
    | none =>
      if s.strict u && x.vol.boxerr.getLsbD 0 then
        let e := x.vol.boxerr.toNat
        let f : Flt := { x.flt lanS fBoxRange (bits e 2 1) x.vol.boxerrL with
          lane := bits e 4 3, cyc := 0xFFFFFFFF, det := bits e 49 41, slot := bits e 8 5, bd := x.vol.boxdet }
        s.raise u f false
      else match s.outLabelBad (s.task k) with
      | some (slot, b) => s.raise u { x.flt lanS fLabelFlow 4 x.vol.lblpc with
          cyc := 0xFFFFFFFF, slot := slot, bd := b.detail ⟨0, 0, 0, 0⟩ } false
      | none =>
        let bad := x.vol.boxerr.getLsbD 0
        let s := (s.setUnit u { x with mode := .idle, task := none, vol := { x.vol with rstack := [] } }).charge u
        s.modTask k fun t => { t with
          st := .returning, unit := some u, boxbad := bad, endL := x.vol.lblpc, attempt := x.vol.attempt, segno := x.seg.segno }

/-- No word of a task is still on its way (R233). -/
def State.wordsDone (s : State) (k : Nat) : Bool :=
  !(s.xwords.any fun e => decide (e.2.task = k) && !e.2.isFence &&
    (!e.2.done || e.2.cstat = .released || s.onWay e.1))

/-- Where TEND and TFAIL are not valid (R233). -/
def tendBad (s : State) : Bool :=
  let t := s.taskOf s.active
  s.me.iss.timed || !t.args.isEmpty || (!t.group.isEmpty && !t.closed)

/-- TEND (R233, R283, R312). -/
def execTend (_h : Hdr) (g : POp) (s : State) : Out :=
  .next (guarded s g fun s =>
    let u := s.active
    if tendBad s then s.fail lanS fIllegalOperand 0 (s.me.baseL g)
    else if !s.me.pend.isEmpty then s.again
    else match s.standing u with
      | some f => s.raiseStanding u f
      | none =>
        let s := if s.prot u then s.commit u false else s
        match s.me.task with
        | none => s.modMe fun x => { x with mode := .idle }
        | some k =>
          if s.wordsDone k then s.returnTask u
          else s.modMe fun x => { x with mode := .tending none })

/-- TFAIL (R234, R312): no fault record; the code goes to the parent. -/
def execTfail (_h : Hdr) (a : SB) (g : POp) (s : State) : Out :=
  .next (guarded s g fun s =>
    let u := s.active
    let v := s.me.readB a
    if tendBad s then s.fail lanS fIllegalOperand 0 (v.l ||| s.me.baseL g)
    else if !s.me.pend.isEmpty then s.again
    else s.failOne u s.me.iss.cyc false (.tfail (v.v.toNat % 2 ^ 16)) v.l)

end Sys2Proof.Machine
end

