-- ==== Sys2Proof/Machine/CLane.lean ====
section
/-! DEFINITION. C words at their issue (spec 08, R197-R218): what each checks, and the word it leaves under way. -/

namespace Sys2Proof.Machine

/-- A fault of an issuing C word. -/
def State.failC (s : State) (code sub : Nat) (l : Label) : State := s.fail lanC code sub l

/-- Kinds the copy engine counts (R202). -/
def XKind.counted (k : XKind) : Bool :=
  match k with
  | .cin | .cout _ | .cfill | .cslice _ | .ratom .. | .txload _ | .txrun _ | .xsend .. => true
  | _ => false

/-- Incomplete counted words of a unit. -/
def State.underWay (s : State) (u : Nat) : Nat :=
  (s.xwords.filter fun e => decide (e.2.unit = u) && e.2.kind.counted && !e.2.done).length

/-- A counter named by CE: a COUNTER64 box of the task, in the scratchpad or a STREAM argument (R201). -/
def counterOk (b : Box) : Bool :=
  b.present && decide (b.layout = 0x30) && (b.scope = .scratch || b.mode = .stream)

/-- The counter of a C word: its box, index and amount (R201, R212). -/
def State.counterOf (s : State) (cnt : Option (BitVec 4 × BitVec 8)) (amt : Nat) : Option (Hnd × Nat × Nat) :=
  cnt.map fun c => (⟨{ (default : Desc) with slot := c.1 }, s.box s.active c.1.toNat⟩, c.2.toNat, amt)

/-- A handle a copy may name (R198, R49). -/
def Hnd.okC (h : Hnd) : Bool :=
  h.box.present && h.desc.usable h.box.rank && decide (h.box.layout ≠ 0x30) && h.whole

/-- A source and a destination of one copy agree (R198, R270). -/
def copyOk (src dst : Hnd) : Bool :=
  src.okC && dst.okC && decide (src.box.layout = dst.box.layout) && decide (src.size = dst.size)
    && (!layZmask src.box.layout || decide (src.box.cap = dst.box.cap))
    && scaleAligned src.box src.desc && scaleAligned dst.box dst.desc

/-- A word under way, with what every C word records at its issue. -/
def State.newWord (s : State) (w : XWord) : State :=
  let u := s.active
  let x := s.me
  let w := { w with
    unit := u, task := x.task.getD 0, asid := s.asidOf u, issue := x.iss.cyc, segno := x.seg.segno, segs := x.segs
    phase := x.vol.commits, mark := x.unMark, tick := x.seg.tick.getD 0
    cstat := if w.cnt.isNone then .none else if s.prot u then .pending else .released }
  let w := { w with
    wait := (match w.kind with | .csig _ => s.waitsOf u | _ => [])
    after := if w.beyond then s.afterOf u else [] }
  { s with xwords := s.xwords.put s.xnext w, xnext := s.xnext + 1 }

/-- A handle advances for words issuing from c + 1 (R205). A sum outside the 30-bit field wraps (DESIGN CHOICE, log 83).
-/
def advanceC (x : Unit) (d : BitVec 4) (h : Hnd) (adv : Bool) : Unit :=
  if adv then
    let v : Nat × Int := if h.box.rank ≥ 2 then (1, h.desc.orgZ 1 + h.desc.stepZ 1)
      else (0, h.desc.orgZ 0 + h.desc.extN 0 * h.desc.stepZ 0)
    x.due (x.iss.cyc + 1) phWrite lnC (.dorg d.toNat v.1 (BitVec.ofInt 30 v.2))
  else x

/-- What a C word names at its issue: the checks of R198-R202 in order, then the word under way. -/
structure CWord where
  kind  : XKind
  src   : Option Hnd
  dst   : Option Hnd
  cnt   : Option (BitVec 4 × BitVec 8)
  amt   : Nat
  ok    : Bool
  late  : Option Nat
  extra : Label → Option (Nat × Hnd × Label)

/-- L of a C word (R199); CSIG's amount and XRECV's IMM are immediates (R78). -/
def State.labelC (s : State) (w : CWord) : Label :=
  let hl (h : Option Hnd) (box : Bool) : Label := match h with | some h => h.desc.lab ||| (if box then h.box.lab else 0#8) | none => 0#8
  let cl : Label := match s.counterOf w.cnt w.amt with | some (h, _, _) => h.box.lab | none => 0#8
  let imm : Label := match w.kind with | .csig _ | .xrecv .. => s.me.vol.codeL | _ => 0#8
  hl w.src true ||| hl w.dst false ||| cl ||| imm ||| s.me.iss.lab

/-- Sticky records of a C word (R198, R201): the first stays. -/
def recC (x : Unit) (l : Label) (h : Option Hnd) (rd : Bool) : Unit :=
  match h with
  | none => x
  | some h => match h.outside rd with
    | some c => x.stickyNow (if rd then kRead else kWrite) lanC (recLn lanC) h.desc.slot.toNat 0 l (h.box.detail c)
    | none => x

/-- The record of a CFILL: the first element of its rows outside the box (R207, R181). -/
def recFirst (x : Unit) (l : Label) (h : Hnd) (o : Option (Nat × Quad Int)) : Unit :=
  match o with
  | some (_, c) => x.stickyNow kRead lanC (recLn lanC) h.desc.slot.toNat 0 l (h.box.detail c)
  | none => x

/-- An element handle of RATOM: element `e` of the region. -/
def Hnd.one (h : Hnd) (e : Nat) : Hnd :=
  { h with desc := { h.desc with
      org := h.desc.org.set 0 (BitVec.ofInt 30 (h.desc.orgZ 0 + e * h.desc.stepZ 0)), ext := ⟨1, 1, 1, 1⟩ } }

/-- The records of a word's source and destination; a CAS reads the next source element too (R213, R274). -/
def recWord (x : Unit) (l : Label) (w : CWord) : Unit :=
  match w.kind, w.src with
  | .cfill, some h => recFirst x l h (h.firstOut (h.desc.extN 1))
  | .ratom .cas .., some h => recC (recC (recC x l (some h) true) l (some (h.one 1)) true) l w.dst false
  | _, _ => recC (recC x l w.src true) l w.dst false

/-- The box of a named counter, and its index as a coordinate. -/
def cntBox (c : Option (Hnd × Nat × Nat)) : Box := match c with | some (h, _, _) => h.box | none => default
def cntAt (c : Option (Hnd × Nat × Nat)) : Quad Int :=
  match c with | some (_, i, _) => ⟨(i : Int), 0, 0, 0⟩ | none => ⟨0, 0, 0, 0⟩

/-- The counter counts: none is named, or its index is inside its box (R201). -/
def cntIn (c : Option (Hnd × Nat × Nat)) : Bool := c.isNone || (cntBox c).has (cntAt c)

/-- The record of a counter index outside its box. -/
def recCnt (x : Unit) (l : Label) (w : CWord) (c : Option (Hnd × Nat × Nat)) : Unit :=
  if cntIn c then x
  else x.stickyNow kWrite lanC (recLn lanC) (match w.cnt with | some k => k.1.toNat | none => 0) 0 l
    ((cntBox c).detail (cntAt c))

/-- THE ISSUE OF A C WORD: `then_` goes on from the word's key. -/
def State.issueC (s : State) (w : CWord) (then_ : State → Nat → State) : State :=
  let u := s.active
  let l := s.labelC w
  let cnt := s.counterOf w.cnt w.amt
  let cbox := cntBox cnt
  let slotOf (h : Hnd) : Nat := h.desc.slot.toNat
  let det (h : Hnd) : BoxDet := h.box.detail (h.coord 0)
  if !w.ok || (cnt.isSome && !counterOk cbox) then s.failC fIllegalOperand 0 l
  else match w.late with
  | some sub => s.failC fScheduleMiss sub l
  | none =>
    if w.kind.counted && decide (s.underWay u ≥ 32) then s.failC fScheduleMiss 6 l
    else match w.dst with
    | some h =>
      if h.box.mode = .in_ then s.failBox lanC fPermission 0 l (slotOf h) (det h)
      else if cnt.isSome && cbox.mode = .in_ then s.failC fPermission 0 l
      else if !Label.sub l h.box.lab then s.failBox lanC fLabelFlow 1 l (slotOf h) (det h)
      else if cnt.isSome && !Label.sub l cbox.lab then s.failC fLabelFlow 1 l
      else match w.extra l with
        | some (code, h2, l2) => s.failBox lanC code (if code = fLabelFlow then 1 else 0) l2 (slotOf h2) (det h2)
        | none => go l cnt
    | none =>
      if cnt.isSome && cbox.mode = .in_ then s.failC fPermission 0 l
      else if cnt.isSome && !Label.sub l cbox.lab then s.failC fLabelFlow 1 l
      else go l cnt
where
  go (l : Label) (cnt : Option (Hnd × Nat × Nat)) : State :=
    let s1 := s.modMe fun x => recCnt (recWord x l w) l w cnt
    let s2 := s1.newWord { (default : XWord) with
      kind := w.kind, lab := l, src := w.src.getD default, dst := w.dst.getD default
      cnt := if cntIn cnt then cnt else none }
    then_ s2 s1.xnext

/-- No further check. -/
def noExtra (_ : Label) : Option (Nat × Hnd × Label) := none

/-- 256-byte beats of a region (R197). -/
def Hnd.beats (h : Hnd) : Nat := (h.size + 255) / 256

/-- Reads of a timed source: beat b at c + 3 + b (R198, R205). -/
def beatsOf (x : Unit) (k : Nat) (h : Hnd) : Unit :=
  (List.range h.beats).foldl (fun x b => x.due (x.iss.cyc + 3 + b) phSample lnC (.beat k b)) x

/-- CIN (R205). -/
def execCin (_h : Hdr) (f : CA) (s : State) : Out :=
  let src := s.hnd f.src
  let dst := s.hnd f.dst
  .next (s.issueC
    { kind := .cin, src := some src, dst := some dst, cnt := f.cnt, amt := 1
      ok := copyOk src dst && src.box.mode = .stream && dst.box.mode ≠ .stream, late := none, extra := noExtra }
    fun s _ => s.modMe fun x => advanceC (advanceC x f.dst dst f.advd) f.src src f.advs)

/-- COUT and COUT.NA (R205, R206). -/
def coutWord (s : State) (f : CA) (na : Bool) : State :=
  let src := s.hnd f.src
  let dst := s.hnd f.dst
  s.issueC
    { kind := .cout na, src := some src, dst := some dst, cnt := f.cnt, amt := 1
      ok := copyOk src dst && dst.box.mode = .stream && src.box.mode ≠ .stream, late := none, extra := noExtra }
    fun s k => s.modMe fun x => beatsOf (advanceC (advanceC x f.dst dst f.advd) f.src src f.advs) k src

/-- COUT (R205). -/
def execCout (_h : Hdr) (f : CA) (s : State) : Out := .next (coutWord s f false)

/-- COUT.NA (R205, R206). -/
def execCoutNa (_h : Hdr) (f : CA) (s : State) : Out := .next (coutWord s f true)

/-- Layouts some A format takes (R180, R207). -/
def streamLay (l : Nat) : Bool := (List.range 8).any fun c => (fmtLayA c).contains l

/-- CFILL (R207): its rows are reserved and take their places in the A FIFO. -/
def execCfill (_h : Hdr) (src : BitVec 4) (cnt : Option (BitVec 4 × BitVec 8)) (advs : Bool) (s : State) : Out :=
  let h := s.hnd src
  let n := h.desc.extN 1
  let rows : Hnd := { h with desc := { h.desc with ext := ⟨128, BitVec.ofNat 30 n, 1, 1⟩ } }
  let lay := h.box.layout
  let fits := if layZmask lay then
      decide (h.desc.orgZ 0 % 128 = 0) && decide (h.desc.stepZ 0 = 1) && decide (0 ≤ h.desc.orgZ 0) && decide (h.desc.orgZ 0 < (layGroup lay : Int))
    else rows.whole
  .next (s.issueC
    { kind := .cfill, src := some rows, dst := none, cnt := cnt, amt := 1
      ok := h.box.present && h.desc.usable h.box.rank && h.box.mode = .stream && streamLay lay && fits
      late := if n = 0 || n > 32 || s.me.que.ares + n > 32 then some 5 else none, extra := noExtra }
    fun s k => s.modMe fun x =>
      let q := x.que
      let new : List ARow := (List.range n).map fun i => ⟨k, i, [], 0#8, false⟩
      advanceC { x with que := { q with ares := q.ares + n, afifo := q.afifo ++ new } } src h advs)

/-- Members of the unit's gang and its rank among them (R208). -/
def State.gangSize (s : State) (u : Nat) : Nat :=
  match (s.taskOf u).gang with | some (_, _, n) => n | none => 0

/-- CSLICE (R210, R211): compared with every member's word in the cycle of its issue. -/
def execCslice (_h : Hdr) (f : CA) (n1 : BitVec 3) (s : State) : Out :=
  let src := s.hnd f.src
  let dst := s.hnd f.dst
  let n := n1.toNat + 1
  .next (s.issueC
    { kind := .cslice n, src := some src, dst := some dst, cnt := f.cnt, amt := 1
      ok := copyOk src dst && src.box.mode = .stream && dst.box.mode ≠ .stream
        && decide (src.desc.extN 1 % n = 0) && decide (n = s.gangSize s.active)
      late := none, extra := noExtra }
    fun s k => s.modMe fun x =>
      (advanceC (advanceC x f.dst dst f.advd) f.src src f.advs).due x.iss.cyc phNow lnC (.rmatch k))

/-- A region of whole 64-byte lines in the scratchpad (R209, R217). -/
def Hnd.lines64 (h : Hnd) : Bool := h.box.scope = .scratch && h.box.mode ≠ .stream && decide (h.size % 64 = 0) && decide (h.size > 0)

def Hnd.dense (h : Hnd) : Bool := (List.range 4).all fun i => decide (h.box.rank ≤ i) || decide (h.desc.step.get i = 1#8)

/-- Two regions of one box share an element (R209). -/
def Hnd.overlaps (a b : Hnd) : Bool :=
  decide (a.desc.slot = b.desc.slot) && (List.range 4).all fun i =>
    dimMeet (a.desc.orgZ i) (a.desc.stepZ i) (a.desc.extN i) (b.desc.orgZ i) (b.desc.stepZ i) (b.desc.extN i)

/-- RROT (R209, R211): unit t is read and written at c + 4 + t. -/
def execRrot (_h : Hdr) (dst src : BitVec 4) (advd advs prev : Bool) (s : State) : Out :=
  let hs := s.hnd src
  let hd := s.hnd dst
  .next (s.issueC
    { kind := .rrot prev, src := some hs, dst := some hd, cnt := none, amt := 0
      ok := copyOk hs hd && hs.lines64 && hd.lines64 && hs.dense && hd.dense && !hs.overlaps hd
        && decide (s.gangSize s.active ≥ 2)
      late := none, extra := noExtra }
    fun s k => s.modMe fun x =>
      let x := (advanceC (advanceC x dst hd advd) src hs advs).due x.iss.cyc phNow lnC (.rmatch k)
      (List.range ((hs.size + 511) / 512)).foldl (fun x t =>
        (x.due (x.iss.cyc + 4 + t) phSample lnC (.rrot k t)).due (x.iss.cyc + 4 + t) phWrite lnC (.rput k t)) x)

/-- CSIG (R212). -/
def execCsig (_h : Hdr) (slot : BitVec 4) (idx : BitVec 8) (amt : BitVec 14) (s : State) : Out :=
  .next (s.issueC
    { kind := .csig amt.toNat, src := none, dst := none, cnt := some (slot, idx), amt := amt.toNat, ok := true
      late := none, extra := noExtra }
    fun s _ => s)

/-- RATOM (R213, R214): the next tag is taken, the operands are read at c + 2. Of regions with more elements than one,
element 0 is meant (DESIGN CHOICE, log 102). -/
def execRatom (_h : Hdr) (op : AOp) (wide : Bool) (tgt src : BitVec 4) (cnt : Option (BitVec 4 × BitVec 8)) (s : State) :
    Out :=
  let ht := (s.hnd tgt).one 0
  let hs := (s.hnd src).one 0
  let lay := if wide then 0x04 else 0x03
  let tag := s.me.regs.tag
  .next (s.issueC
    { kind := .ratom op wide tag 0 0 0, src := some hs, dst := some ht, cnt := cnt, amt := 1
      ok := ht.okC && hs.okC && ht.box.mode = .stream && hs.box.mode ≠ .stream && decide (ht.box.layout = lay)
        && decide (hs.box.layout = lay)
      late := none
      extra := fun l =>
        if hs.box.mode = .in_ then some (fPermission, hs, l)
        else if !Label.sub (l ||| ht.box.lab) hs.box.lab then some (fLabelFlow, hs, l ||| ht.box.lab) else none }
    fun s k => s.modMe fun x =>
      { x with regs := { x.regs with tag := x.regs.tag + 1#16 } }.due (x.iss.cyc + 2) phSample lnC (.rsamp k))

/-- CFENCE (R215, R327): a word that is complete when the earlier ones are; issue is never delayed. -/
def execCfence (_h : Hdr) (sc : Scope) (s : State) : Out := .next (s.fence s.active sc).1

/-- TXLOAD (R216, R338). -/
def execTxload (_h : Hdr) (src : BitVec 4) (id : BitVec 8) (s : State) : Out :=
  let h := s.hnd src
  .next (s.issueC
    { kind := .txload id.toNat, src := some h, dst := none, cnt := none, amt := 0
      ok := h.okC && decide (h.box.layout = 0x00), late := none, extra := noExtra }
    fun s _ => s)

/-- TXRUN (R216, R349). -/
def execTxrun (_h : Hdr) (f : CA) (id : BitVec 8) (s : State) : Out :=
  let src := s.hnd f.src
  let dst := s.hnd f.dst
  .next (s.issueC
    { kind := .txrun id.toNat, src := some src, dst := some dst, cnt := f.cnt, amt := 1
      ok := src.okC && dst.okC && src.box.mode = .stream && src.box.scope.inDev && decide (src.box.layout = 0x00)
        && !layZmask dst.box.layout
      late := none, extra := noExtra }
    fun s _ => s.modMe fun x => advanceC (advanceC x f.dst dst f.advd) f.src src f.advs)

/-- A segment that opened at a frame tick, and another live die of the timing group that has opened one at the same tick
(R217, R258). A die whose SYNC missed the tick has opened none and does not count (DESIGN CHOICE, log 104). -/
def crossOk (s : State) (die : BitVec 3) : Bool :=
  let d := s.dies.get die.toNat
  match s.me.seg.tick with
  | some t => d.live && decide (die.toNat ≠ dieOf s.active) && d.group.isSome
      && decide (d.group = (s.dies.get (dieOf s.active)).group) && d.ticks.contains t
  | none => false

/-- XSENDs of one tick's segments from one die to another on a channel so far (R217). -/
def State.sentCount (s : State) (src dst ch tick : Nat) : Nat :=
  (s.xin.filter fun m => decide (m.src = src) && decide (m.dst = dst) && decide (m.ch = ch) && decide (m.tick = tick)).length

/-- XRECVs of one tick's segments likewise. -/
def State.recvCount (s : State) (src dst ch tick : Nat) : Nat :=
  (s.xwords.filter fun e => decide (e.2.tick = tick) && (match e.2.kind with
    | .xrecv d c _ _ => decide (d = src) && decide (c = ch) && decide (dieOf e.2.unit = dst)
    | _ => false)).length

/-- What the XSEND an XRECV pairs with has left in the receive buffer, once it has issued. -/
def State.senderOf (s : State) (src dst ch seq tick : Nat) : Option XMsg :=
  s.xin.find? fun m => decide (m.src = src) && decide (m.dst = dst) && decide (m.ch = ch) && decide (m.seq = seq)
    && decide (m.tick = tick)

/-- XSEND (R217). -/
def execXsend (_h : Hdr) (src : BitVec 4) (die : BitVec 3) (ch : BitVec 6) (advs : Bool) (s : State) : Out :=
  let h := s.hnd src
  let me := dieOf s.active
  let tick := s.me.seg.tick.getD 0
  let seq := s.sentCount me die.toNat ch.toNat tick
  .next (s.issueC
    { kind := .xsend die.toNat ch.toNat seq, src := some h, dst := none, cnt := none, amt := 0
      ok := h.okC && h.lines64 && decide (h.size ≤ 512) && crossOk s die, late := none, extra := noExtra }
    fun s k =>
      let m : XMsg := ⟨me, die.toNat, ch.toNat, seq, tick, k, s.me.iss.cyc, h.beats, h.size, (s.xwords.get k).lab, [], false, false, s.fnOf s.active⟩
      ({ s with xin := s.xin ++ [m] } : State).modMe fun x => beatsOf (advanceC x src h advs) k h)

/-- XRECV (R217, R218): the write is performed at segment cycle t. -/
def execXrecv (_h : Hdr) (dst : BitVec 4) (die : BitVec 3) (ch : BitVec 6) (at_ : BitVec 32) (advd : Bool) (s : State) :
    Out :=
  let h := s.hnd dst
  let me := dieOf s.active
  let tick := s.me.seg.tick.getD 0
  let seq := s.recvCount die.toNat me ch.toNat tick
  let sizes := match s.senderOf die.toNat me ch.toNat seq tick with
    | some m => decide (m.size = h.size)
    | none => true
  .next (s.issueC
    { kind := .xrecv die.toNat ch.toNat seq at_.toNat, src := none, dst := some h, cnt := none, amt := 0
      ok := h.okC && h.lines64 && decide (h.size ≤ 512) && crossOk s die && decide (at_.toNat > s.me.iss.cyc) && sizes
      late := none, extra := noExtra }
    fun s k => s.modMe fun x => (advanceC x dst h advd).due at_.toNat phWrite lnC (.xrecv k))

end Sys2Proof.Machine
end

