-- ==== Sys2Proof/Machine/Effects.lean ====
section
/-! DEFINITION. What each timed effect does when its cycle arrives (spec 02, R39, R54-R56; 05, R128-R139; 06, R142,
R166-R170; 07, R176-R194). Effects of C words that reach beyond the core stand in CEffects. -/

namespace Sys2Proof.Machine

/-! ## Rows -/

/-- Row entries of this cycle's M writes (R55): none of an earlier cycle. -/
def Unit.mwNow (x : Unit) (c : Nat) : List (Nat × Nat × Label × Bool × Lv 4096) := if x.que.mwC = c then x.que.mwR else []

/-- The tile changed. -/
def Unit.modTile (x : Unit) (t : Nat) (f : Tile → Tile) : Unit :=
  { x with regs := { x.regs with tiles := x.regs.tiles.upd t f } }

def Unit.setRow (x : Unit) (t r : Nat) (v : Lv 4096) : Unit := x.modTile t fun k => { k with rows := k.rows.put r v }

/-- A tile a write still reaches (R194): allotted and ON. -/
def Unit.tileOn (x : Unit) (t : Nat) : Bool :=
  decide (t < x.regs.acc) && (match (x.regs.tiles.get t).pow with | .on => true | _ => false)

/-- A row pushed onto the vector queue (R54). -/
def Unit.pushRow (x : Unit) (issue : Nat) (v : Lv 4096) : Unit :=
  let take := match x.vol.vlatIss with | some i => decide (i ≤ issue) | none => true
  { x with vol := { x.vol with
      vq := (v :: x.vol.vq).take 8
      vlat := if take then v else x.vol.vlat
      vlatIss := if take then some issue else x.vol.vlatIss } }

/-- V_ROW_WRITE (R142, R54-R56): kept bits and, unless the write is whole, the old label stay; where an M write has
reached the row in this cycle the row keeps it. A write whose tile was released or gated meanwhile is dropped with its
flags (DESIGN CHOICE, log 97). -/
def Unit.rowWrite (x : Unit) (c issue t r : Nat) (v : Lv 4096) (keep : Nat) (whole : Bool) (fl : Flags) : Unit :=
  if x.tileOn t then
    let mw := (x.mwNow c).find? fun e => decide (e.1 = t) && decide (e.2.1 = r)
    let now := x.rowAt t r
    -- V comes before M in lane order: what it keeps is the row as it stood before the M write
    let old := match mw with | some e => e.2.2.2.2 | none => now
    let k := BitVec.ofNat 4096 keep
    let w : Lv 4096 := ⟨(v.v &&& ~~~k) ||| (old.v &&& k), if whole then v.l else old.l ||| v.l⟩
    let x := x.addVstat fl v.l
    let x := x.pushRow issue w
    match mw with
    | some e =>
      -- the M write stays; its label joins the V label unless it overwrote the row
      let mws := (x.mwNow c).map fun g => if g.1 = t && g.2.1 = r then (g.1, g.2.1, g.2.2.1, g.2.2.2.1, w) else g
      let x := { x with que := { x.que with mwR := mws } }
      if e.2.2.2.1 then x else x.setRow t r ⟨now.v, w.l ||| e.2.2.1⟩
    | none => x.setRow t r w
  else x

/-- An M write of a row (R56, R176): noted for the V writes of its cycle, with the row as it stood before. -/
def Unit.mWrite (x : Unit) (c t r : Nat) (v : BitVec 4096) (l : Label) (ovw : Bool) : Unit :=
  let old := x.rowAt t r
  let first := match (x.mwNow c).find? fun e => decide (e.1 = t) && decide (e.2.1 = r) with | some e => e.2.2.2.2 | none => old
  let l := if ovw then l else old.l ||| l
  let x := x.setRow t r ⟨v, l⟩
  { x with que := { x.que with mwC := c, mwR := (t, r, l, ovw, first) :: x.mwNow c } }

/-- A mask write (R148, R162). -/
def Unit.maskWrite (x : Unit) (i : Nat) (v : Lv 512) (keep : Nat) (whole : Bool) : Unit :=
  let old := x.regs.m.get i
  let k := BitVec.ofNat 512 keep
  { x with regs := { x.regs with
      m := x.regs.m.put i ⟨(v.v &&& ~~~k) ||| (old.v &&& k), if whole then v.l else old.l ||| v.l⟩ } }

/-! ## Scratchpad -/

/-- Elements replaced bit for bit. -/
def writeBits (m : Mem) (ws : List (Loc × Nat)) : Mem :=
  ws.foldl (fun m e => Mem.write m e.1.addr (e.1.into (Mem.bytes m e.1.addr e.1.bytes) e.2)) m

/-- Bits of a row gathered from memory. -/
def gatherBits (m : Mem) (items : List (Nat × Loc)) : Nat :=
  items.foldl (fun v e => v ||| (e.2.of (Mem.bytes m e.2.addr e.2.bytes)) <<< e.1) 0

/-- A record made at a sampling or store cycle, in its lane's place (R274), of the word that issued at `iss`. -/
def Unit.stickyAt (x : Unit) (c iss kind lane slot elem : Nat) (l : Label) (det : BoxDet) : Unit :=
  { x with pend := insertDue ⟨c, phNow, recLn lane, iss, .boxrec kind lane slot c elem l det⟩ x.pend }

/-- An effect an effect sets going, of the same word. -/
def Unit.after (x : Unit) (d : Due) (cyc phase : Nat) (e : Eff) : Unit :=
  { x with pend := insertDue ⟨cyc, phase, d.lane, d.iss, e⟩ x.pend }

/-- A packed ZMASK group as R169 stores it: its bytes, or the header alone of an overrun. -/
def zPack (els : List Nat) (cap g w : Nat) : List Byte × Bool :=
  let nz := els.filterMap (fun v => if v = 0 then none else some v)
  let cnt := nz.length
  if 8 + g / 8 + cnt * (w / 8) ≤ cap then
    let body := leBytes 2 cnt ++ leBytes 6 0 ++ leBytes (g / 8) (fieldMask 1 (els.map fun v => decide (v ≠ 0)))
      ++ nz.flatMap (leBytes (w / 8))
    (body ++ List.replicate (cap - body.length) 0#8, false)
  else (leBytes 2 cnt ++ leBytes 2 1 ++ leBytes 4 0, true)

/-! ## Matrix engine -/

def Unit.run (x : Unit) (w : Nat) : MRun := x.que.mruns.get w

def Unit.setRun (x : Unit) (w : Nat) (r : MRun) : Unit := { x with que := { x.que with mruns := x.que.mruns.put w r } }

/-- Rows of group `k` of an MMA (R184). -/
def MRun.group (r : MRun) (k : Nat) : List Nat :=
  let g := groupRows r.fw
  (List.range g).filterMap fun i => if k * g + i < r.rows then some (k * g + i) else none

/-- One A row from the scratchpad (R181): its codes, and whether its ZMASK group was corrupt. -/
def MRun.aRow (r : MRun) (m : Mem) (i : Nat) : List Nat × Bool :=
  let l := r.src.box.layout
  if layZmask l then
    if r.src.groupIn i then
      let (els, bad) := zExpand (Mem.bytes m (r.src.box.addr (r.src.group i)) r.src.box.cap) r.src.box.cap (layGroup l)
        (layWidth l)
      ((els.drop (r.src.desc.orgZ 0).toNat).take 128, bad)
    else (List.replicate 128 0, false)
  else (r.src.codes m i, false)

/-- Samples of a row group from the scratchpad (R184). The PACK record of a corrupt group names the first element of the
group and ELEM 0 (DESIGN CHOICE, log 99). -/
def Unit.sampleGroup (x : Unit) (c w k : Nat) : Unit :=
  (x.run w |>.group k).foldl (fun x i =>
    let r := x.run w
    let (els, bad) := r.aRow x.spad i
    let x := x.setRun w { r with el := r.el.put i (els, 0#8) }
    if bad then x.stickyAt c r.issue kPack lanM r.src.desc.slot.toNat 0 r.lab (r.src.box.detail (r.src.group i)) else x) x

/-- The elements of a stored A row (R185). -/
def ARow.codes (a : ARow) (fw : Nat) : List Nat := unpack (etyW (fmtTy (fwA fw))) 128 (leNat a.data)

/-- A row group taken out of the A FIFO (R185); none when a row is not there. -/
def Unit.takeGroup (x : Unit) (w k : Nat) : Option Unit :=
  let r := x.run w
  let rows := r.group k
  let got := x.que.afifo.take rows.length
  if got.length = rows.length && got.all (·.full) then
    let el := (rows.zip got).foldl (fun (t : Tab (List Nat × Label)) e => t.put e.1 (e.2.codes r.fw, e.2.lab)) r.el
    let x := x.setRun w { r with el := el }
    some { x with que := { x.que with afifo := x.que.afifo.drop rows.length, ares := x.que.ares - rows.length } }
  else none

/-- The scale bits of row `i` of an MMA as sampled (R182). -/
def MRun.rowScale (r : MRun) (i : Nat) : List Nat := if fwScale r.fw = 1 then (r.sc.drop i).take 1 else (r.sc.drop (4 * i)).take 4

/-- T[i][·] summed over its sub-chunks (R189). -/
def chunkTotal (ts : List (List XVal)) : List XVal := (columns 128 ts).map (XVal.sum .rne)

def MRun.chunks (r : MRun) (b : BSlot) (i : Nat) : List (List XVal) := rowChunks r.fw (r.el.get i).1 b (r.rowScale i)

/-- The columns' expected sums, at the last group of a checking MMA (R189). -/
def Unit.columnSums (x : Unit) (r : MRun) (b : BSlot) : Tab (BitVec 32) :=
  let tl := x.regs.tiles.get r.tile
  let int := fwInt r.fw
  let ts := (List.range r.rows).map fun i => chunkTotal (r.chunks b i)
  let rest := ((List.range 128).drop r.rows).map fun i => (unpack 32 128 (x.rowAt r.tile i).v.toNat).map (tileVal int)
  let base : List (List XVal) := if r.ovw then rest
    else [(List.range 128).map fun j => tileVal int (tl.xc.get j).toNat]
  ((columns 128 (base ++ ts)).zipIdx).foldl (fun (t : Tab (BitVec 32)) e =>
    t.put e.2 (BitVec.ofNat 32 (checkSum int e.1))) []

/-- M_ROW_GROUP_ACCUMULATE (R184, R189, R176). -/
def Unit.accumulateGroup (x : Unit) (c w k : Nat) : Unit :=
  let r := x.run w
  let b := x.que.slots.get r.slot
  let int := fwInt r.fw
  let chk := fwChk r.fw
  let x := if chk then x else x.modTile r.tile fun t => { t with stale := true }
  let x := (r.group k).foldl (fun x i =>
    let ts := r.chunks b i
    let old := if r.ovw then List.replicate 128 0 else unpack 32 128 (x.rowAt r.tile i).v.toNat
    let x := x.mWrite c r.tile i (BitVec.ofNat 4096 (pack 32 (accRow int (fwSat r.fw) old ts))) (r.lab ||| (r.el.get i).2) r.ovw
    if chk then
      let xr := (x.regs.tiles.get r.tile).xr.get i
      let base := if r.ovw then XVal.fin false 0 0 else tileVal int xr.toNat
      x.modTile r.tile fun t => { t with xr := t.xr.put i (BitVec.ofNat 32 (checkSum int (base :: chunkTotal ts))) }
    else x) x
  if chk && decide (k + 1 = groupsOf r.fw r.rows) then
    let xc := x.columnSums r b
    x.modTile r.tile fun t => { t with xc := xc }
  else x

/-- MLOADB_SLOT_READY (R183). -/
def Unit.slotReady (x : Unit) (w : Nat) : Unit :=
  let r := x.run w
  let s : BSlot :=
    { valid := true, lines := (List.range 128).map fun k => (r.el.get k).1, sb := r.sc.headD 0, xb := r.sc
      bfmt := fwB r.fw, sch := fwScale r.fw, lab := r.lab, ready := (x.que.slots.get r.slot).ready }
  { x with que := { x.que with slots := x.que.slots.put r.slot s } }

/-- A residue and whether it is a mismatch or not finite (R190). -/
def residue (r : MRun) (sum x : Nat) : Nat × Bool × Bool :=
  if r.int then
    let d := unsigned 32 (signed 32 sum - signed 32 x)
    (d, decide (d ≠ 0), false)
  else
    let d := (FP.f32.round .rne false 0 (XVal.sum .rne [FP.f32.decode sum, (FP.f32.decode x).neg])).pat
    let dv := FP.f32.decode d
    let bad := dv.isNan || dv.isInf
    let lim := XVal.sum .rne [FP.f32.decode r.ka, (FP.f32.decode r.kr).mul (FP.f32.decode x).abs]
    (d, bad || lim.isNan || decide (dv.abs.cmp lim > 0), bad)

/-- The MSTAT summary (R191). -/
def mstatWord (rows cols : List Bool) (stale int nonfin : Bool) : Nat :=
  let n (l : List Bool) := (l.filter id).length
  let f (l : List Bool) := if l.any id then l.findIdx id else 0
  n rows + 2 ^ 8 * n cols + 2 ^ 16 * f rows + 2 ^ 23 * b2n (rows.any id) + 2 ^ 24 * f cols + 2 ^ 31 * b2n (cols.any id)
    + 2 ^ 32 * b2n (!stale) + 2 ^ 33 * b2n int + 2 ^ 34 * b2n nonfin

/-- MCHKV_RESULT (R190, R191). -/
def Unit.checkResult (x : Unit) (c w : Nat) : Unit :=
  let r := x.run w
  let rows := (List.range 128).map fun i => ((r.el.get i).1.map (tileVal r.int), (r.el.get i).2)
  let l := rows.foldl (fun l e => l ||| e.2) r.lab
  let dr := rows.zipIdx.map fun e => residue r (checkSum r.int e.1.1) (r.xr.get e.2).toNat
  let dc := ((columns 128 (rows.map (·.1))).zipIdx).map fun e => residue r (checkSum r.int e.1) (r.xc.get e.2).toNat
  let put (x : Unit) (p : Nat × Nat) (d : List (Nat × Bool × Bool)) : Unit :=
    x.mWrite c p.1 p.2 (BitVec.ofNat 4096 (pack 32 (d.map (·.1)))) l true
  let x := put (put x r.rr dr) r.cr dc
  let st := mstatWord (dr.map (·.2.1)) (dc.map (·.2.1)) r.stale r.int ((dr ++ dc).any (·.2.2))
  { x with vol := { x.vol with mstat := BitVec.ofNat 64 st, mstatL := l } }

/-- MZERO's effect (R193). -/
def Unit.zeroTile (x : Unit) (c t : Nat) (l : Label) : Unit :=
  let x := (List.range 128).foldl (fun x r => x.mWrite c t r 0#4096 l true) x
  x.modTile t fun k => { k with xr := [], xc := [], stale := false }

/-- ACCREL's effect (R194): released tiles lose everything. -/
def Unit.release (x : Unit) (n : Nat) : Unit :=
  { x with regs := { x.regs with acc := n, tiles := x.regs.tiles.filter fun e => decide (e.1 < n) } }

/-- A tile fresh from ACCWAKE (R60, R188, R194). -/
def Tile.woken (t : Tile) (c : Nat) : Tile :=
  match t.pow with
  | .gated => { (default : Tile) with wake := c }
  | _ => { t with pow := .on, wake := c }

/-! ## One effect -/

/-- An effect on the unit alone. A source tile of an MCOPY that is taken away before a sample, or before the checksum state is
copied, gives zero rows and the state of a zeroed tile (DESIGN CHOICE, log 100). -/
def Unit.perform (x : Unit) (d : Due) : Unit :=
  let c := d.cyc
  match d.eff with
  | .sres i v => x.arrive i v
  | .sname p v => x.setS p v
  | .pred p v => x.setP p v
  | .dset i f v l => x.setD i ((x.regs.d.get i).setFld f v l)
  | .dput i v => x.setD i v
  | .dorg i k v => x.setD i { x.regs.d.get i with org := (x.regs.d.get i).org.set k v }
  | .sys n v => x.sysSet n v
  | .raise l => { x with vol := { x.vol with lblpc := x.vol.lblpc ||| l } }
  | .lcnt n => x.setCnt n x.regs.dcnt
  | .dcnt n => x.setCnt x.regs.lcnt n
  | .base r p => x.setBase r p
  | .sload nw loc sx l =>
    let v : Lv 64 := ⟨extendElem sx loc.width (loc.of (Mem.bytes x.spad loc.addr loc.bytes)), l⟩
    let x := x.after d (d.iss + 6) phWrite (.sres d.iss v)
    match nw with
    | some p => x.after d (d.iss + 7) phWrite (.sname p v)
    | none => x
  | .sbits ws => { x with spad := writeBits x.spad ws }
  | .store ws => { x with spad := Mem.writes x.spad ws }
  | .defer a v => { x with defer := x.defer ++ [(a, v)] }
  | .cadd a v => { x with spad := Mem.write x.spad a (leBytes 8 (satAdd (Mem.nat x.spad a 8) v)) }
  | .vrow i t r v k w f => x.rowWrite c i t r v k w f
  | .vmask i v k w => x.maskWrite i v k w
  | .vload i t r two items drop keep w l =>
    let v := gatherBits x.spad items
    let cut (v : Nat) : Nat := v ^^^ (v &&& drop)
    let x := x.after d (d.iss + 7) phWrite (.vrow i t r ⟨BitVec.ofNat 4096 (cut (v % 2 ^ 4096)), l⟩ keep w 0#5)
    if two then x.after d (d.iss + 7) phWrite (.vrow i t (r + 1) ⟨BitVec.ofNat 4096 (cut (v / 2 ^ 4096)), l⟩ keep w 0#5)
    else x
  | .vzload i t r a cap g w drop keep wh l slot det =>
    let (els, bad) := zExpand (Mem.bytes x.spad a cap) cap g w
    let v := pack w els
    let x := if bad then x.stickyAt c d.iss kPack lanV slot 0 l det else x
    x.after d (d.iss + 7) phWrite (.vrow i t r ⟨BitVec.ofNat 4096 (v ^^^ (v &&& drop)), l⟩ keep wh 0#5)
  | .vzstore a cap g w els slot l det =>
    let (bs, ovr) := zPack els cap g w
    let x := { x with spad := Mem.write x.spad a bs }
    if ovr then x.stickyAt c d.iss kPack lanV slot 0 l det else x
  | .vwin p q =>
    let vm := x.regs.vmode.toNat
    let vm := match p with | some n => vm - 2 ^ 4 * bits vm 7 4 + 2 ^ 4 * n | none => vm
    let vm := match q with | some n => vm - 2 ^ 8 * bits vm 11 8 + 2 ^ 8 * n | none => vm
    { x with regs := { x.regs with vmode := BitVec.ofNat 64 vm } }
  | .vmode rm seed =>
    let vm := x.regs.vmode.toNat
    let vm := match rm with | some n => vm - bits vm 2 0 + n | none => vm
    let x := { x with regs := { x.regs with vmode := BitVec.ofNat 64 vm } }
    match seed with
    | some s => x.setVmode ⟨BitVec.ofNat 64 (vm % 2 ^ 32 + 2 ^ 32 * (s.v.toNat % 2 ^ 32)), s.l⟩
    | none => x
  | .mscal w =>
    let r := x.run w
    let pts := scalePts (decide (r.rows = 0)) (fwScale r.fw) r.rows
    x.setRun w { r with sc := pts.map fun p => r.scl.scale x.spad p.1 p.2 }
  | .msamp w k => x.sampleGroup c w k
  | .mrow w k => x.accumulateGroup c w k
  | .mload w t =>
    (List.range 4).foldl (fun x i =>
      let r := x.run w
      x.setRun w { r with el := r.el.put (4 * t + i) (r.src.codes x.spad (4 * t + i), 0#8) }) x
  | .mslot w => x.slotReady w
  | .mzero t l => x.zeroTile c t l
  | .mcopy dt st k l =>
    (List.range 2).foldl (fun x i =>
      let v := x.rowAt st (2 * k + i)
      x.after d c phWrite (.mcput dt (2 * k + i) ⟨v.v, v.l ||| l⟩)) x
  | .mcput t r v => x.mWrite c t r v.v v.l true
  | .mctype dt st => x.modTile dt fun t => { t with int := (x.regs.tiles.get st).int }
  | .mcsum dt st =>
    let k := x.regs.tiles.get st
    x.modTile dt fun t => { t with xr := k.xr, xc := k.xc, stale := k.stale }
  | .mcst w =>
    let r := x.run w
    let k := x.regs.tiles.get r.tile
    x.setRun w { r with xr := k.xr, xc := k.xc, stale := k.stale }
  | .mcs w i =>
    let r := x.run w
    let v := x.rowAt r.tile i
    x.setRun w { r with el := r.el.put i (unpack 32 128 v.v.toNat, v.l) }
  | .mchk w => x.checkResult c w
  | .macc n => x.release n
  | .mwake t n => x.modTile t fun k => k.woken n
  | .mgate t ret => x.modTile t fun k =>
      if ret then (match k.pow with | .gated => k | _ => { k with pow := .retain })
      else { (default : Tile) with pow := .gated }
  | .mtype t int => x.modTile t fun k => { k with int := int, stale := true }
  | .boxrec kind lane slot cyc elem l det => x.sticky kind lane slot cyc elem l det
  | _ => x

end Sys2Proof.Machine
end

