-- ==== Sys2Proof/Machine/CEffects.lean ====
section
/-! DEFINITION. C words after their issue (spec 08, R200-R218; 17, R326, R332-R335; 18, R349, R350; 19, R359): how the moves
of an untimed word are made, what they may wait for, and how the word completes or is found faulty. -/

namespace Sys2Proof.Machine

/-- How an attempt at an untimed word's moves ends: all made; something before it is still to come; a page is not
present (R320); a fault is found at an address (R203). -/
inductive XTry
  | ok
  | later
  | absent (va acc : Nat)
  | flt (code sub det va : Nat)
  deriving DecidableEq, Repr, Inhabited

def XTry.ofErr (e : XErr) (acc : Nat) : XTry :=
  match e with
  | .wait => .later
  | .absent va => .absent va acc
  | .flt c s d va => .flt c s d va

def State.setWord (s : State) (k : Nat) (w : XWord) : State := { s with xwords := s.xwords.put k w }

def State.word (s : State) (k : Nat) : XWord := s.xwords.get k

/-- A CANCEL error of severity `c` met by a word's read stands at the word (R283, R284), unless its phase has been
cancelled. -/
def State.noteCancel (s : State) (k : Nat) (w : XWord) (c : Nat) : State :=
  if c = 0 || w.void then s else s.setWord k { s.word k with cancel := max (s.word k).cancel c }

/-- A word's own translations are dropped: it makes no access any more (R318). -/
def State.dropPages (s : State) (k : Nat) : State := { s with wpages := s.wpages.put k [] }

/-- The element of a region whose place holds an address of device memory, by its handle's slot and coordinates (R401). -/
def Hnd.covers (h : Hnd) (rd : Bool) (va : Nat) : Option (Nat × BoxDet) :=
  if h.box.present && h.box.scope.inDev then
    ((List.range h.count).find? fun e => match h.place rd e with
      | some p => decide (p.addr ≤ va) && decide (va < p.addr + p.bytes)
      | none => false).map fun e => (h.desc.slot.toNat, h.box.detail (h.coord e))
  else none

/-- The box access a fault of a word is about (R401): the element at the address, in the source, the destination or the
counter; else the first element of its destination or source. -/
def XWord.access (w : XWord) (va : Nat) : Nat × BoxDet :=
  match w.src.covers true va, w.dst.covers false va, w.cnt with
  | some r, _, _ => r
  | _, some r, _ => r
  | none, none, some (h, i, _) =>
    if w.dst.box.present then (w.dst.desc.slot.toNat, w.dst.box.detail (w.dst.coord 0))
    else if w.src.box.present then (w.src.desc.slot.toNat, w.src.box.detail (w.src.coord 0))
    else (h.desc.slot.toNat, h.box.detail ⟨(i : Int), 0, 0, 0⟩)
  | none, none, none =>
    let h := if w.dst.box.present then w.dst else w.src
    (h.desc.slot.toNat, h.box.detail (h.coord 0))

/-- A fault found at an address, held at its word (R203, R401). -/
def State.holdAt (s : State) (k code sub det va : Nat) : State :=
  let (slot, bd) := (s.word k).access va
  (s.hold k code sub det slot bd).dropPages k

/-! ## What holds a word back -/

/-- Pages of 64 KiB a region of device memory touches. -/
def Hnd.pages (h : Hnd) : List Nat :=
  if h.box.present && h.box.scope.inDev then
    uniq ((List.range h.count).filterMap fun e => (h.place true e).map fun p => p.addr / 65536)
  else []

/-- A word may go on (R212, R215, R320): nothing it waits for is incomplete, what fences hold before it has been performed,
and no earlier access of its stream is stalled. SO order is kept piece by piece. -/
def State.mayMove (s : State) (k : Nat) (w : XWord) : Bool :=
  w.wait.all (fun j => s.isDone j && !s.colQ.any (fun t => decide (t.word = some j)))
  && (!w.leaves || s.afterOk w)
  && (match w.kind with
    | .txrun _ => !s.stalls.any fun st => decide (st.word = k) && (match st.agent with | .fst _ => true | _ => false)
    | _ => !s.streamStalled k w)

/-- The FST lane a TXRUN takes (R337, R349): beside the channel of its first source byte, on the die that holds it. -/
def channelOf (pa : Nat) : Nat := 64 * (pa / 2 ^ 37) + Config.channel pa % 64

def State.fstCtx (s : State) (k : Nat) (w : XWord) : Ctx :=
  let n := match w.src.place true 0 with
    | some p => match s.pageFor (s.wctx k w) p.addr with
      | some (t, page) => if t.tgt = 0 then channelOf (t.addr + (p.addr - page)) else 64 * dieOf w.unit
      | none => 64 * dieOf w.unit
    | none => 64 * dieOf w.unit
  { s.wctx k w with agent := .fst n, die := n / 64 }

/-- Who makes a word's accesses: its C lane, or the FST lane of a TXRUN. -/
def State.moveCtx (s : State) (k : Nat) (w : XWord) : Ctx :=
  match w.kind with
  | .txrun _ => s.fstCtx k w
  | _ => s.wctx k w

/-- The page outside the package in which a box address lies (R359). -/
def State.outsidePage (s : State) (ctx : Ctx) (b : Box) (a : Nat) : Option (Pte × Nat) :=
  if b.scope.inDev then
    match s.pageFor ctx a with
    | some (p, page) => if p.tgt = 0 then none else some (p, page)
    | none => none
  else none

/-- The page outside the package in which piece `j` of a word's destination lies. -/
def State.pieceOut (s : State) (k : Nat) (w : XWord) (j : Nat) : Option (Pte × Nat) :=
  match w.dst.piece false j with
  | some p => s.outsidePage (s.moveCtx k w) w.dst.box p.addr
  | none => none

/-- Pieces `js`, in region order, may move in one step as far as SO order goes (R326): the first in SO order may, and what
leaves the package in SO order is one transaction, with nothing in SO order after it. -/
def State.soRun (s : State) (k : Nat) (w : XWord) (js : List Nat) : Bool :=
  match js.filter (s.soPiece k w) with
  | [] => true
  | j :: r =>
    let out (i : Nat) : Option (Pte × Nat) := s.pieceOut k w i
    let tail := (j :: r).dropWhile fun i => (out i).isNone
    s.soOk k w j && tail.all fun i => decide (out i = out (tail.headD j))

/-! ## Moves into a destination -/

/-- A run cut at every 256 bytes of address. -/
def WRun.cut (r : WRun) (fuel : Nat) : List WRun :=
  match fuel with
  | 0 => [r]
  | fuel + 1 =>
    let n := 256 - r.a % 256
    if r.bs.length ≤ n then [r]
    else ⟨r.a, r.bs.take n, r.mask.take n⟩ :: WRun.cut ⟨r.a + n, r.bs.drop n, r.mask.drop n⟩ fuel

/-- Runs no longer than a beat. -/
def cutRuns (rs : List WRun) : List WRun := rs.flatMap fun r => r.cut (r.bs.length / 256 + 1)

/-- Bits that runs write. -/
def runBits (ws : List WRun) : Nat :=
  ws.foldl (fun n x => n + (if x.mask.isEmpty then 8 * x.bs.length
    else x.mask.foldl (fun n (m : Byte) => n + ((List.range 8).filter fun i => m.getLsbD i).length) 0)) 0

/-- What has been gathered for one page outside the package sent to the Col as a transaction (R359). -/
def State.sendTxn (s : State) (k : Nat) (w : XWord) (l : Label) (out : Option (Pte × Nat × List WRun)) : State :=
  match out with
  | some (p, _, ws) =>
    let n := (runBits ws + 7) / 8
    let a := (ws.head?.map (·.a)).getD 0
    { s with colQ := s.colQ ++ [s.txnOf k { w with lab := l } p w.src.box.layout a n (.wr ws)] }
  | none => s

/-- Runs sent to where their pages lie (R199, R206, R359): written, or gathered as transactions of at most 256 bytes of
what is written, each in one page: a beat of packed elements is one transaction though it ends inside a byte. -/
def State.sendRuns (s : State) (k : Nat) (w : XWord) (b : Box) (l : Label) (rs : List WRun)
    (out : Option (Pte × Nat × List WRun)) : State × XTry :=
  match rs with
  | [] => (s.sendTxn k w l out, .ok)
  | r :: rest =>
    let ctx := s.moveCtx k w
    match s.outsidePage ctx b r.a with
    | some (p, page) =>
      if !p.allows .wr then (s, .flt fPermission 0 0 r.a)
      else
        let s := (s.xlate ctx r.a).1
        let x : WRun := { r with a := p.addr + (r.a - page) }
        match out with
        | some (q, pg, ws) =>
          if pg = page && runBits (x :: ws) ≤ 2048 then s.sendRuns k w b l rest (some (q, pg, ws ++ [x]))
          else (s.sendTxn k w l out).sendRuns k w b l rest (some (p, page, [x]))
        | none => s.sendRuns k w b l rest (some (p, page, [x]))
    | none =>
      match s.writeBox ctx w.unit b l r.a r.bs r.mask with
      | (s, some e) => (s, .ofErr e 1)
      | (s, none) => s.sendRuns k w b l rest out

/-- Places of a box written with their values; bits beside them keep their content. -/
def State.putPieces (s : State) (k : Nat) (w : XWord) (b : Box) (l : Label) (ps : List (Option Loc × Nat)) : State × XTry :=
  s.sendRuns k w b l (cutRuns (placeRuns (ps.filterMap fun e => e.1.map fun p => (p, e.2)))) none

/-! ## Copies -/

/-- Chosen pieces of a source read and written into a destination region, with the scales of indices `sc` (R198, R270). -/
def State.copyPieces (s : State) (rctx : Ctx) (k : Nat) (w : XWord) (js sc : List Nat) : State × XTry :=
  let into := w.dst.box.lab
  match s.readPlaces rctx w.unit w.src.box into (js.map fun j => w.src.piece true j) with
  | (s, .error e) => (s, .ofErr e 0)
  | (s, .ok (vs, _, c1)) =>
    match s.readPlaces rctx w.unit w.src.box.scaleBox into (sc.map fun i => w.src.scales.getD i none) with
    | (s, .error e) => (s, .ofErr e 0)
    | (s, .ok (xs, _, c2)) =>
      let s := s.noteCancel k w (max c1 c2)
      match s.putPieces k w w.dst.box w.lab (List.zipWith (fun j v => (w.dst.piece false j, v)) js vs) with
      | (s, .ok) => s.putPieces k w w.dst.box.scaleBox w.lab (List.zipWith (fun i v => (w.dst.scales.getD i none, v)) sc xs)
      | r => r

/-- CIN: what is left of the region (R205). -/
def State.tryCin (s : State) (k : Nat) (w : XWord) : State × XTry :=
  if !s.soRun k w w.left || !s.soScalesOk k w then (s, .later)
  else s.copyPieces (s.wctx k w) k w w.left w.scaleIx

/-! ## COUT and TXRUN: data on its way out -/

/-- Pieces of beat `b` of a destination that have not moved: those whose last bit lies in it. -/
def XWord.beatPieces (w : XWord) (b : Nat) : List Nat :=
  (List.range w.outPieces).filter fun j => decide (w.beatOf j = b) && !w.moved.contains j

/-- A piece of a destination and its value; a piece short of its last bits writes those it has (R349). -/
def XWord.outPiece (w : XWord) (j : Nat) : Option Loc × Nat :=
  let n := w.dst.pieceBits
  let have_ := 8 * w.outBytes - j * n
  let v := w.dst.cut w.data j
  if have_ = 0 then (none, 0)
  else ((w.dst.piece false j).map fun p => if have_ < n then { p with width := have_ } else p, v)

/-- Peer ports a COUT's destination reaches with pieces that have not gone (R206). -/
def State.peersLeft (s : State) (k : Nat) (w : XWord) : List Nat :=
  uniq (w.left.filterMap fun j => (s.pieceOut k w j).bind fun e => if e.1.tgt = 2 then some e.1.port else none)

/-- Peer ports a COUT's destination reaches at all. -/
def State.peersOf (s : State) (k : Nat) (w : XWord) : List Nat :=
  uniq ((List.range w.outPieces).filterMap fun j => (s.pieceOut k w j).bind fun e => if e.1.tgt = 2 then some e.1.port else none)

/-- Every earlier COUT.NA of the core to a peer that the word reaches has left for its port (R206). -/
def State.naClear (s : State) (k : Nat) (w : XWord) : Bool :=
  let earlier := s.xwords.filter fun e => decide (e.2.unit = w.unit) && decide (e.1 < k) && !e.2.done && !e.2.dead
    && (match e.2.kind with | .cout na => na | _ => false)
  earlier.isEmpty || (let mine := s.peersOf k w
    earlier.all fun e => (s.peersLeft e.1 e.2).all fun p => !mine.contains p)

/-- The same, and nothing of it waits at the Col or is still to be accepted by the peer (R206). -/
def State.naTaken (s : State) (k : Nat) (w : XWord) : Bool :=
  let before (j : Option Nat) : Bool := match j with | some j => decide (j < k) && decide ((s.word j).unit = w.unit) | none => false
  s.naClear k w
  && ((s.colQ.all fun t => !(t.na && decide (t.kind = 2) && before t.word)) || (let mine := s.peersOf k w
    s.colQ.all fun t => !(t.na && decide (t.kind = 2) && before t.word) || !mine.contains t.port))
  && ((s.peers.all fun p => p.2.buf.all fun f => !(f.na && before f.word)) || (let mine := s.peersOf k w
    s.peers.all fun p => !mine.contains p.1 || p.2.buf.all fun f => !(f.na && before f.word)))

/-- A COUT.NA to a peer leaves in issue order (R206): pieces `js` come next. -/
def State.naTurn (s : State) (k : Nat) (w : XWord) (js : List Nat) : Bool :=
  match w.kind with
  | .cout na => !na || (s.naClear k w && w.left.take js.length = js)
  | _ => true

/-- Beat `b` of a COUT or TXRUN sent on (R206, R359). -/
def State.sendBeat (s : State) (k b : Nat) : State × XTry :=
  let w := s.word k
  let js := w.beatPieces b
  if !s.soRun k w js || !s.naTurn k w js then (s, .later)
  else match s.putPieces k w w.dst.box w.lab (js.map w.outPiece) with
  | (s, .ok) => (s.setWord k { s.word k with sent := b + 1 }, .ok)
  | r => r

/-- The bytes of beat `b` have been read (R198). -/
def XWord.haveBeat (w : XWord) (b : Nat) : Bool := decide (w.data.length ≥ min w.outBytes (256 * (b + 1)))

/-- Beats from the next one on. -/
def State.sendBeats (s : State) (k n : Nat) : State × XTry :=
  match n with
  | 0 => (s, .ok)
  | n + 1 =>
    let w := s.word k
    if w.sent ≥ w.outBeats then (s, .ok)
    else if !w.haveBeat w.sent then (s, .later)
    else match s.sendBeat k w.sent with
      | (s, .ok) => s.sendBeats k n
      | r => r

/-- COUT: every beat sent, then the scales that ride with the last (R270). It completes when what it sent has been performed
or has left, and after every earlier COUT.NA to the same peer (R201, R206). -/
def State.tryCout (s : State) (k : Nat) : State × XTry :=
  match s.sendBeats k (s.word k).outBeats with
  | (s, .ok) =>
    let w := s.word k
    let sw := if w.src.box.layout = 0x18 then 4 else 1
    let vals := (List.range w.src.scales.length).map fun i =>
      leNat ((w.data.drop (w.src.size + sw * i)).take sw)
    let ends (s : State) : Bool := match w.kind with
      | .cout true => !s.onWay k && s.naClear k w
      | _ => !s.onWay k && s.naTaken k w
    let end_ (s : State) : XTry := if ends s then .ok else .later
    if w.sent ≥ w.outBeats + 1 || w.src.scales.isEmpty then (s, end_ s)
    else if !s.soScalesOk k w then (s, .later)
    else match s.putPieces k w w.dst.box.scaleBox w.lab (List.zipWith (fun p v => (p, v)) w.dst.scales vals) with
      | (s, .ok) => (s.setWord k { s.word k with sent := w.outBeats + 1 }, end_ s)
      | r => r
  | r => r

/-! ## Transducer runs -/

/-- The bytes of a whole region read. -/
def State.regionBytes (s : State) (ctx : Ctx) (k : Nat) (w : XWord) (into : Label) : State × Except XErr (List Byte × Label) :=
  match s.readPlaces ctx w.unit w.src.box into ((List.range w.src.count).map fun e => w.src.place true e) with
  | (s, .error e) => (s, .error e)
  | (s, .ok (vs, l, c)) =>
    let s := s.noteCancel k w c
    (s, .ok (leBytes w.src.size (pack w.src.unitBits vs), l))

/-- TXLOAD (R338): the image, which is control (R393), checked and installed. -/
def State.tryTxload (s : State) (k id : Nat) (w : XWord) : State × XTry :=
  if !s.soRun k w w.left then (s, .later)
  else match s.regionBytes { s.wctx k w with ctl := true } k w w.src.box.lab with
  | (s, .error e) => (s, .ofErr e 0)
  | (s, .ok (bs, _)) =>
    match fstImage bs with
    | none => (s, .flt fTxstream txTable 0 0)
    | some (es, n, st) =>
      let a := s.asids.get w.asid
      ({ s with asids := s.asids.put w.asid { a with fst := a.fst.put id (some (es, n, st, w.src.box.lab)) } }, .ok)

/-- Bytes read over a time in which some were written: each is an old one or a new one, freely (R348). -/
def State.mixed (s : State) (old new : List Byte) : State × List Byte :=
  if old = new then (s, new)
  else ({ s with frees := s.frees + new.length },
    (List.zip old new).zipIdx.map fun e => if Config.freeBit (s.frees + e.2) then e.1.1 else e.1.2)

/-- A TXRUN's decode begins (R348): with the table installed now, and the source as it stands, of which a byte written before the
decode ends may be read old. -/
def State.txBegin (s : State) (k id : Nat) (w : XWord) : State × XTry :=
  if s.soSource k w && !s.soClear k w then (s, .later)
  else match (if w.tab.isSome then w.tab else (s.asids.get w.asid).fst.get id),
      (s.regionBytes (s.fstCtx k w) k w (if w.dst.box.present then w.dst.box.lab else 0xFF#8)).2 with
  | some t, .ok (bs, _) => (s.setWord k { w with tab := some t, peek := some bs }, .ok)
  | _, _ => (s, .later)

/-- TXRUN's decode from its last restart point (R349, R350), with the table it began with (R348): the emitted bytes stand ready, with
the label of R349; a fault of the stream stays with the word. -/
def State.txDecode (s : State) (k id : Nat) (w : XWord) : State × XTry :=
  if s.soSource k w && !s.soClear k w then (s, .later)
  else match (if w.tab.isSome then w.tab else (s.asids.get w.asid).fst.get id) with
  | none => (s, .flt fTxstream txNoprog 0 0)
  | some t =>
    let tab := fstOf t
    match s.regionBytes (s.fstCtx k w) k w (if w.dst.box.present then w.dst.box.lab else 0xFF#8) with
    | (s, .error e) => (s, .ofErr e 0)
    | (s, .ok (bs, _)) =>
      let l := w.lab ||| tab.lab
      let (s, bs) := match w.peek with | some old => s.mixed old bs | none => (s, bs)
      if !Label.sub l w.dst.box.lab then (s, .flt fLabelFlow 2 0 0)
      else
        let m := w.marks.getLast?.getD (0, 0, tab.start)
        let (out, err) := fstDecode tab bs w.dst.size m w.data
        let more := fstMarks tab bs w.dst.size (8 * bs.length + w.dst.size + 2) m.2.1 m.2.2 m.1 (m.1 / 4096)
        (s.setWord k { s.word k with
          data := out, read := 1, err := err.getD 0, lab := l, marks := w.marks.dropLast ++ more
          tab := some t, peek := none }, .ok)

/-- A TXRUN goes back to its last restart point (R350): what it emitted from there on is discarded, decoded again and written
again. -/
def XWord.rewind (w : XWord) : XWord :=
  let at_ := (w.left.headD w.outPieces) * w.dst.pieceBits / 8
  let ms := w.marks.filter fun m => decide (m.1 ≤ at_)
  let n := (ms.getLast?.getD (0, 0, 0)).1
  { w with
    read := 0, data := w.data.take n, marks := ms, sent := n / 256, peek := none
    moved := (List.range w.outPieces).filter fun j => decide ((j + 1) * w.dst.pieceBits ≤ 8 * n) }

/-- TXRUN (R216, R349). -/
def State.tryTxrun (s : State) (k id : Nat) : State × XTry :=
  match (if (s.word k).read = 1 then (s, .ok) else s.txDecode k id (s.word k)) with
  | (s, .ok) =>
    match s.sendBeats k ((s.word k).outBeats) with
    | (s, .ok) =>
      if s.onWay k then (s, .later)
      else if (s.word k).err ≠ 0 then (s, .flt fTxstream (s.word k).err 0 0)
      else (s, .ok)
    | r => r
  | r => r

/-! ## CFILL -/

/-- A row read as the FIFO stores it (R185, R170): its codes, and whether its ZMASK group was corrupt. -/
def State.fillRow (s : State) (k : Nat) (w : XWord) (i : Nat) : State × Except XErr (List Nat × Bool) :=
  let b := w.src.box
  let ctx := s.wctx k w
  if layZmask b.layout then
    if w.src.groupIn i then
      match s.readRuns ctx w.unit b b.lab [(b.addr (w.src.group i), b.cap)] with
      | (s, .error e) => (s, .error e)
      | (s, .ok g) =>
        let (els, bad) := zExpand (Mem.bytes g.mem (b.addr (w.src.group i)) b.cap) b.cap (layGroup b.layout) (layWidth b.layout)
        (s.noteCancel k w g.cancel, .ok ((els.drop (w.src.desc.orgZ 0).toNat).take 128, bad))
    else (s, .ok (List.replicate 128 0, false))
  else
    let ps := (List.range 128).map fun e => if w.src.inside i e then some (b.loc (w.src.elem i e)) else none
    match s.readPlaces ctx w.unit b b.lab ps with
    | (s, .error e) => (s, .error e)
    | (s, .ok (vs, _, c)) => (s.noteCancel k w c, .ok (vs, false))

/-- The row arrives in its place of the A FIFO (R207); a FIFO emptied since has none. -/
def Unit.rowArrives (x : Unit) (k i w : Nat) (els : List Nat) (l : Label) : Unit :=
  let put (a : ARow) : ARow :=
    if a.word = k && a.idx = i then { a with data := leBytes (16 * w) (pack w els), lab := l, full := true } else a
  { x with que := { x.que with afifo := x.que.afifo.map put } }

/-- One row of a CFILL. -/
def State.oneRow (s : State) (k i : Nat) : State × XTry :=
  let w := s.word k
  match s.fillRow k w i with
  | (s, .error e) => (s, .ofErr e 0)
  | (s, .ok (els, bad)) =>
    let s := s.modUnit w.unit fun x => x.rowArrives k i (layWidth w.src.box.layout) els w.lab
    let s := if bad then s.modUnit w.unit fun x =>
        x.sticky kPack lanC w.src.desc.slot.toNat w.issue 0 w.lab (w.src.box.detail (w.src.group i))
      else s
    (s.setWord k { s.word k with moved := i :: (s.word k).moved }, .ok)

def State.fillRows (s : State) (k : Nat) (is : List Nat) : State × XTry :=
  match is with
  | [] => (s, .ok)
  | i :: r => match s.oneRow k i with
    | (s, .ok) => s.fillRows k r
    | e => e

/-! ## CSLICE -/

/-- Pieces `js` and scales `sc` of a region written into one member's destination by the word that fetched them. -/
def State.sliceInto (s : State) (k : Nat) (w v : XWord) (js sc : List Nat) (vs xs : List Nat) : State × XTry :=
  let job : XWord := { w with dst := v.dst, unit := if v.dst.box.scope = .scratch then v.unit else w.unit }
  match s.putPieces k job v.dst.box w.lab (List.zipWith (fun j x => (v.dst.piece false j, x)) js vs) with
  | (s, .ok) => s.putPieces k job v.dst.box.scaleBox w.lab (List.zipWith (fun i x => (v.dst.scales.getD i none, x)) sc xs)
  | r => r

def State.sliceAll (s : State) (k : Nat) (w : XWord) (vs : List Nat) (js sc : List Nat) (ds xs : List Nat) : State × XTry :=
  match vs with
  | [] => (s, .ok)
  | v :: r => match s.sliceInto k w (s.word v) js sc ds xs with
    | (s, .ok) => s.sliceAll k w r js sc ds xs
    | e => e

/-- Pieces of the slice a word fetches, read once and written at every member (R210). -/
def State.slicePieces (s : State) (k : Nat) (w : XWord) (js sc : List Nat) : State × XTry :=
  let ctx := s.wctx k w
  let into := w.dst.box.lab
  match s.readPlaces ctx w.unit w.src.box into (js.map fun j => w.src.piece true j) with
  | (s, .error e) => (s, .ofErr e 0)
  | (s, .ok (vs, _, c1)) =>
    match s.readPlaces ctx w.unit w.src.box.scaleBox into (sc.map fun i => w.src.scales.getD i none) with
    | (s, .error e) => (s, .ofErr e 0)
    | (s, .ok (xs, _, c2)) => (s.noteCancel k w (max c1 c2)).sliceAll k w w.ring js sc vs xs

/-- What is left of the slice a word fetches, its scales with it. A frozen master's word moves nothing more (R406). -/
def State.fetchSlice (s : State) (k : Nat) : State × XTry :=
  let w := s.word k
  if w.sent = 1 || w.dead || s.xfrozen w then (s, .ok)
  else if !s.mayMove k w || !s.soRun k w w.left || !s.soScalesOk k w then (s, .later)
  else match s.slicePieces k w w.left w.scaleIx with
    | (s, .ok) => (s.setWord k { s.word k with sent := 1 }, .ok)
    | r => r

/-- The slices of the other members, as far as they can all be moved now. -/
def State.otherSlices (s : State) (ks : List Nat) : State × XTry :=
  match ks with
  | [] => (s, .ok)
  | k :: r => match s.fetchSlice k with
    | (s, .ok) => s.otherSlices r
    | _ => (s, .later)

/-- CSLICE (R210): the word fetches its own slice, and is complete when every member's slice stands in its destination. One
that a member will never fetch, its word ended by a fault or dropped, leaves it without its token and its addition. -/
def State.tryCslice (s : State) (k : Nat) (w : XWord) : State × XTry :=
  if w.ring.isEmpty then (s, .later)
  else match s.fetchSlice k with
  | (s, .ok) => match s.otherSlices (w.ring.filter (· ≠ k)) with
    | (s, .ok) =>
      let lost := w.ring.any fun j => decide ((s.word j).sent ≠ 1)
      (if lost then s.setWord k { s.word k with dead := true, cstat := .dropped } else s, .ok)
    | r => r
  | r => r

/-! ## RATOM (R213, R214, R334) -/

/-- The old value's successor (R213). -/
def atomNew (op : AOp) (w old v x : Nat) : Nat :=
  match op with
  | .add => (old + v) % 2 ^ w
  | .swap => v
  | .cas => if old = v then x else old
  | .mins => if signed w old ≤ signed w v then old else v
  | .maxs => if signed w old ≥ signed w v then old else v
  | .and => Nat.land old v
  | .or => Nat.lor old v
  | .xor => Nat.xor old v

/-- The controller a RATOM's target belongs to (R214): of a cluster store, of a channel of device memory, or of a peer. -/
def State.atomAt (s : State) (k : Nat) (w : XWord) : Nat :=
  match w.dst.box.scope, w.dst.place false 0 with
  | .clstore, _ => 2048 + w.dst.box.home
  | _, some p => match s.pageFor (s.wctx k w) p.addr with
    | some (t, page) => if t.tgt = 2 then 1024 + t.port else channelOf (t.addr + (p.addr - page))
    | none => 0
  | _, none => 4096

/-- A tag's recorded answer at a controller (R214). -/
def State.tagAnswer (s : State) (u c : Nat) (tag : BitVec 16) : Option Nat :=
  (s.ratoms.find? fun e => decide (e.1 = u) && decide (e.2.1 = c) && decide (e.2.2.1 = tag)).map (·.2.2.2)

/-- The window of a controller has passed a tag by: it holds 4,096 of the requester's, all of them later. -/
def State.tagPassed (s : State) (u c : Nat) (tag : BitVec 16) : Bool :=
  let mine := s.ratoms.filter fun e => decide (e.1 = u) && decide (e.2.1 = c)
  decide (mine.length ≥ 4096) && mine.all fun e => decide ((e.2.2.1 - tag).toNat < 32768)

/-- An answer recorded; a controller keeps a requester's last 4,096. -/
def State.tagRecord (s : State) (u c : Nat) (tag : BitVec 16) (old : Nat) : State :=
  let mine (e : Nat × Nat × BitVec 16 × Nat) : Bool := decide (e.1 = u) && decide (e.2.1 = c)
  { s with ratoms := (u, c, tag, old) :: (s.ratoms.filter mine).take 4095 ++ s.ratoms.filter fun e => !mine e }

/-- The atomic performed at its target (R213, R333, R334), unless it has been: by way of the Col into a peer. -/
def State.atomPerform (s : State) (k : Nat) (w : XWord) : State × XTry :=
  match w.kind with
  | .ratom op wide tag v x _ =>
    let bits_ := if wide then 64 else 32
    let c := s.atomAt k w
    if (s.tagAnswer w.unit c tag).isSome then (s, .ok)
    else if s.tagPassed w.unit c tag then (s, .flt fRemote 1 0 0)
    else if w.sent = 1 then (s, .later)
    else match w.dst.place false 0 with
      | none => (s.tagRecord w.unit c tag 0, .ok)
      | some p =>
        let b := w.dst.box
        if b.scope = .clstore then
          let m := s.clstore.get b.home
          let old := Mem.nat m p.addr p.bytes
          let m := Mem.write m p.addr (leBytes p.bytes (atomNew op bits_ old v x))
          (({ s with clstore := s.clstore.put b.home m } : State).tagRecord w.unit c tag old, .ok)
        else
          let ctx := { s.wctx k w with atom := true }
          match s.xlate ctx p.addr with
          | (s, .leaf t page) =>
            if !t.allows .atom then (s, .flt fPermission 0 0 p.addr)
            else if t.tgt = 0 && s.shut ctx t then (s, .later)
            else if !Label.sub t.lab w.src.box.lab then (s, .flt fLabelFlow 3 0 p.addr)
            else if t.tgt = 2 then
              let q := s.txnOf k w t b.layout (t.addr + (p.addr - page)) p.bytes .atom
              (({ s with colQ := s.colQ ++ [q] } : State).setWord k { w with sent := 1 }, .later)
            else if !Label.sub w.lab t.lab then (s, .flt fLabelFlow 2 0 p.addr)
            else if !s.inMemory t page p.addr p.bytes then (s, .flt fTranslation 3 (vaDet p.addr) p.addr)
            else match s.readPage ctx t page p.addr p.bytes true with
              | (s, .error e) => (s, .ofErr e 2)
              | (s, .ok r) =>
                let old := leNat r.data
                ((s.writePage ctx t page p.addr (leBytes p.bytes (atomNew op bits_ old v x))).tagRecord w.unit c tag old, .ok)
          | (s, r) => (s, .ofErr (walkErr r p.addr) 2)
  | _ => (s, .later)

/-- The answer arrives: the old value into the source element (R213). -/
def State.tryRatom (s : State) (k : Nat) (w : XWord) : State × XTry :=
  if w.read = 0 || (w.sent = 0 && w.moved.isEmpty && !s.soOk k w 0) then (s, .later)
  else match s.atomPerform k w with
    | (s, .ok) =>
      match w.kind with
      | .ratom _ _ tag _ _ _ =>
        match w.src.place false 0, s.tagAnswer w.unit (s.atomAt k w) tag with
        | some p, some old =>
          match s.writeBox (s.wctx k w) w.unit w.src.box (w.lab ||| w.dst.box.lab) p.addr (leBytes p.bytes old) with
          | (s, none) => (s, .ok)
          | (s, some e) => (s, .ofErr e 1)
        | _, _ => (s, .ok)
      | _ => (s, .ok)
    | r => r

/-! ## Completion -/

/-- An attempt at what a word has still to do; a frozen master's words are dropped (R406). -/
def State.tryWord (s : State) (k : Nat) : State × XTry :=
  let w := s.word k
  if w.done then (s, .later)
  else if s.xfrozen w then (s.setWord k { w with dead := true, cstat := .dropped }, .ok)
  else if !s.mayMove k w then (s, .later)
  else match w.kind with
    | .cin => s.tryCin k w
    | .cout _ => s.tryCout k
    | .cfill => if s.soRun k w w.left then s.fillRows k w.left else (s, .later)
    | .cslice _ => s.tryCslice k w
    | .csig _ => (s, .ok)
    | .ratom .. => s.tryRatom k w
    | .txload id => s.tryTxload k id w
    | .txrun id => s.tryTxrun k id
    | _ => (s, .later)

/-- A word completes (R201): a released addition is made. -/
def State.completeWord (s : State) (k : Nat) : State :=
  let w := { s.word k with done := true, moved := [] }
  let s := (s.setWord k w).dropPages k
  if w.cstat = .released then s.xadd k w else s

/-- A task that stands at TEND returns once its words are done (R233). -/
def State.tendCheck (s : State) (u : Nat) : State :=
  let x := s.unit u
  match x.mode, x.task with
  | .tending _, some t => if s.wordsDone t then s.returnTask u else s
  | _, _ => s

/-- UNTIMED_WORD_COMPLETE: the word's remaining moves are made and it completes (R200, R201); or an addition that had to wait
is made at last. RATOM completes by its answer, XSEND by its arrival. -/
def execUntimedWordComplete (k : Nat) (s : State) : Out :=
  match Tab.find s.xwords k with
  | none => noEvent s "no such word"
  | some w =>
    if w.done then
      if w.cstat = .released then
        let t := s.xadd k w
        if (t.word k).cstat = .released then noEvent s "the addition has to wait" else .next (t.tendCheck w.unit)
      else noEvent s "the word has completed"
    else match w.kind with
      | .ratom .. | .xsend .. | .xrecv .. | .rrot _ | .cfence _ => noEvent s "the word completes otherwise"
      | _ =>
        match s.tryWord k with
        | (t, .ok) => .next ((t.completeWord k).tendCheck w.unit)
        | _ => noEvent s "the word cannot complete yet"

/-- HELD_FAULT_FOUND (R203): the attempt finds a fault, which is held at the word. -/
def execHeldFaultFound (k : Nat) (s : State) : Out :=
  match s.tryWord k with
  | (t, .flt code sub det va) => .next ((t.holdAt k code sub det va).tendCheck (s.word k).unit)
  | _ => noEvent s "no fault is found at the word"

/-- RATOM_ANSWER (R213, R214). -/
def execRatomAnswer (k : Nat) (s : State) : Out :=
  match (s.word k).kind with
  | .ratom .. =>
    match s.tryWord k with
    | (t, .ok) => .next ((t.completeWord k).tendCheck (s.word k).unit)
    | _ => noEvent s "no answer is there"
  | _ => noEvent s "the word is no RATOM"

/-- RATOM_RETRY_TIMEOUT (R214): no answer within 20 µs. Whether the operation has been performed by then is open, a free
value; the request is made again with its tag, and after three failed retries the word holds REMOTE_INDETERMINATE. -/
def execRatomRetryTimeout (k : Nat) (s : State) : Out :=
  let w := s.word k
  match w.kind with
  | .ratom op wide tag v x tries =>
    if w.done || w.read = 0 || !s.mayMove k w || !s.soOk k w 0 || s.xfrozen w then noEvent s "no request is open"
    else
      let did := Config.freeBit s.frees
      let s := { s with frees := s.frees + 1 }
      let t := if did then s.atomPerform k w else (s, .ok)
      let s1 := match t with | (t, .ok) => t | _ => s
      if tries ≥ 3 then .next ((s1.holdAt k fRemote 1 0 0).tendCheck w.unit)
      else .next (s1.setWord k { s1.word k with kind := .ratom op wide tag v x (tries + 1), sent := if s1.onWay k then 1 else 0 })
  | _ => noEvent s "the word is no RATOM"

/-- Every beat of an XSEND has been read and has left. -/
def XMsg.sent (m : XMsg) : Bool := decide (m.data.length ≥ m.size)

/-- Two messages travel on one circuit (R379). -/
def XMsg.along (a b : XMsg) : Bool := decide (a.src = b.src) && decide (a.dst = b.dst)

/-- A message may come into its receive buffer (R379-R381): its circuit carries packets, those sent before it on the circuit have
come, and its channel has room in its 512 bytes. Data of another tick, which no XRECV can take any more, holds no room, and a
message without room waits at its sender (DESIGN CHOICE, log 73). -/
def State.mayArrive (s : State) (m : XMsg) : Bool :=
  let before := s.xin.takeWhile fun e => decide (e.word ≠ m.word)
  let kept := (s.xin.filter fun e => e.along m && decide (e.ch = m.ch) && decide (e.tick = m.tick) && e.full && !e.taken).foldl
    (fun n e => n + e.size) 0
  !s.cut m.src m.dst && before.all (fun e => !(e.along m && e.sent && !e.full)) && decide (kept + m.size ≤ 512)

/-- Data comes into the receive buffer, and its XSEND is complete (R218). -/
def State.sendIn (s : State) (k : Nat) : State :=
  let s := { s with xin := s.xin.map fun m => if m.word = k then { m with full := true } else m }
  match Tab.find s.xwords k with
  | some w => s.setWord k { w with done := true }
  | none => s

/-- XSEND_DATA_ARRIVE (R218, R259): the last beat has left and the data comes into the receive buffer. -/
def execXsendDataArrive (k : Nat) (s : State) : Out :=
  let w := s.word k
  match w.kind, s.xin.find? (fun m => decide (m.word = k)) with
  | .xsend .., some m =>
    if w.done || w.data.length < w.src.size || !m.sent then noEvent s "the data has not left or has arrived"
    else if !s.mayArrive m then noEvent s "the data waits for its circuit or for room"
    else .next ((s.sendIn k).tendCheck w.unit)
  | _, _ => noEvent s "the word is no XSEND"

/-! ## The small moves (R204): pieces early, beats on their way -/

/-- The sector of device memory a piece of a destination begins in. -/
def XWord.sectorOf (w : XWord) (j : Nat) : Option Nat :=
  if w.dst.box.scope.inDev then (w.dst.piece false j).map fun p => p.addr / 64 else none

/-- Pieces of a destination that move with piece `j`, among `js`: those in its sector, since what covers a whole sector is one write
of it (R397); alone elsewhere. -/
def XWord.mates (w : XWord) (js : List Nat) (j : Nat) : List Nat :=
  match w.sectorOf j with
  | some a => js.filter fun i => decide (w.sectorOf i = some a)
  | none => [j]

/-- Pieces that move with piece `j` of a COUT or TXRUN: inside the package those of its beat in the same sector; outside it all of
its beat that lies in the same page, since a beat is one transaction (R359, R364). -/
def State.partOf (s : State) (k : Nat) (w : XWord) (j : Nat) : List Nat :=
  match s.pieceOut k w j with
  | some pg => (w.beatPieces (w.beatOf j)).filter fun i => decide (s.pieceOut k w i = some pg)
  | none => w.mates (w.beatPieces (w.beatOf j)) j

/-- Part of a COUT's or TXRUN's data early. -/
def State.outPart (s : State) (k : Nat) (w : XWord) (j : Nat) : State × XTry :=
  let js := s.partOf k w j
  let have_ := if js = [j] then decide (8 * w.data.length ≥ min (8 * w.outBytes) ((j + 1) * w.dst.pieceBits)) else w.haveBeat (w.beatOf j)
  if j ≥ w.outPieces || !have_ || !s.soRun k w js || !s.naTurn k w js then (s, .later)
  else match s.putPieces k w w.dst.box w.lab (js.map w.outPiece) with
    | (s, .ok) => (s.setWord k { s.word k with moved := js ++ (s.word k).moved }, .ok)
    | r => r

/-- One piece of an untimed word early: old and new bytes then stand side by side. -/
def State.onePiece (s : State) (k j : Nat) : State × XTry :=
  let w := s.word k
  let marks (js : List Nat) (r : State × XTry) : State × XTry :=
    match r with
    | (s, .ok) => (s.setWord k { s.word k with moved := js ++ (s.word k).moved }, .ok)
    | r => r
  let mark := marks [j]
  if w.done || s.xfrozen w || w.gone j || !s.mayMove k w then (s, .later)
  else match w.kind with
    | .cin => if j < w.steps && s.soOk k w j then mark (s.copyPieces (s.wctx k w) k w [j] []) else (s, .later)
    | .cslice _ =>
      let js := w.mates w.left j
      if w.left.contains j && !w.ring.isEmpty && s.soRun k w js then marks js (s.slicePieces k w js []) else (s, .later)
    | .cfill => if j < w.steps && s.soOk k w j then s.oneRow k j else (s, .later)
    | .txrun id => if w.read ≠ 0 then s.outPart k w j else if w.peek.isNone then s.txBegin k id w else s.txDecode k id w
    | .cout _ => s.outPart k w j
    | .ratom _ _ tag _ _ _ =>
      if w.read = 0 then (s, .later)
      else match s.tagAnswer w.unit (s.atomAt k w) tag with
        | none => if s.soOk k w 0 then s.atomPerform k w else (s, .later)
        | some old =>
          match w.src.place false 0 with
          | some p =>
            if j < p.bytes then
              mark (match s.writeBox (s.wctx k w) w.unit w.src.box (w.lab ||| w.dst.box.lab) (p.addr + j) [BitVec.ofNat 8 (old / 256 ^ j)] with
                | (s, none) => (s, .ok)
                | (s, some e) => (s, .ofErr e 1))
            else (s, .later)
          | none => (s, .later)
    | _ => (s, .later)

/-- A piece as a move of the machine: none when it is not due. -/
def State.movePiece (s : State) (k j : Nat) : Option State :=
  match s.onePiece k j with
  | (t, .ok) => some t
  | (t, .later) => if (t.word k).sent ≠ (s.word k).sent then some t else none
  | _ => none

/-- The next beat of a word sent on: none when it is not due. -/
def State.emitBeat (s : State) (k : Nat) : Option State :=
  let w := s.word k
  let ready : Bool := match w.kind with | .cout _ => true | .txrun _ => decide (w.read = 1) | _ => false
  if w.done || s.xfrozen w || !s.mayMove k w || !ready || w.sent ≥ w.outBeats || !w.haveBeat w.sent then none
  else match s.sendBeat k w.sent with
    | (t, .ok) => some t
    | _ => none

/-! ## Timed effects of C words (R205, R209, R211, R217, R218) -/

/-- The header of an instruction as fetched; SEGEND's literals are none (R100). -/
def hdrOf (ws : List Word) : Hdr :=
  match ws with
  | [] => default
  | w :: r => decHdr w (Ext.gather (if isSegend w then [] else r))

/-- The queue of a lane. -/
def Seg.queue (g : Seg) (lane : Nat) : List QWord :=
  match lane with
  | 0 => g.sb
  | 1 => g.vb
  | 2 => g.mb
  | _ => g.cb

/-- P of a lane (R68). -/
def Seg.before (g : Seg) (lane : Nat) : Nat :=
  match lane with
  | 0 => g.ps
  | 1 => g.pv
  | 2 => g.pm
  | _ => g.pc

/-- The computed cycle (R68, R244). -/
def Seg.computed (g : Seg) (lane : Nat) (ws : List Word) : Nat :=
  let h := hdrOf ws
  let p := g.before lane
  match h.stamp with
  | some t => if t.toNat ≤ p then p + 1 else t.toNat
  | none => p + 1 + h.idle.toNat

/-- A fault at a cycle of an open segment, not of a word issuing in it. -/
def State.raiseAt (s : State) (u c lane code sub : Nat) (l : Label) (cut : Bool) : State :=
  let s := s.modUnit u fun x => { x with iss := { x.iss with cyc := c, timed := true } }
  s.raise u ((s.unit u).flt lane code sub l) cut

/-- SCHEDULE_MISS of a word not deposited (R243): at its computed cycle, or after the issues of the cycle in which it
becomes known (R241). -/
def State.missAt (s : State) (u c lane : Nat) (late : Bool) : State :=
  let l := ((s.unit u).seg.queue lane).head?.map (·.lab) |>.getD (s.unit u).vol.lblpc
  s.raiseAt u c lane fScheduleMiss 1 l (!late)

/-- A lane before `n` whose next word is known at cycle `c` to have missed: held behind a control word that issued then and
was not taken (R241). Its miss comes before one of a later lane in that cycle (R243). -/
def State.lateLane (s : State) (u c n : Nat) : Option Nat :=
  let g := (s.unit u).seg
  [1, 2, 3].find? fun v => decide (v < n) && (match g.queue v with
    | q :: _ => let k := g.computed v q.words
      decide (k < q.first) && decide (k < c)
    | [] => false)

/-- A beat read (R198): scales with the last; an XSEND's goes on to the receive buffer. -/
def State.readBeat (s : State) (u k b : Nat) : State :=
  let w := s.word k
  let all := w.src.packed (s.unit u).spad
  let part := (all.drop (256 * b)).take 256
  let sc := if b + 1 = w.src.beats then w.src.packedScales (s.unit u).spad else []
  let s := s.setWord k { w with data := w.data ++ part ++ sc }
  { s with xin := s.xin.map fun m => if m.word = k then { m with data := m.data ++ part } else m }

/-- Unit t of a RROT read (R209). -/
def State.rotRead (s : State) (u k t : Nat) : State :=
  let w := s.word k
  let part := ((w.src.packed (s.unit u).spad).drop (512 * t)).take 512
  let sc := if t + 1 = (w.src.size + 511) / 512 then w.src.packedScales (s.unit u).spad else []
  s.setWord k { w with data := w.data ++ part ++ sc }

/-- Unit t of the neighbour's RROT written (R209). -/
def State.rotWrite (s : State) (u k t : Nat) : State :=
  let w := s.word k
  let from_ := s.word (w.ring.headD k)
  let last := decide (t + 1 = (w.src.size + 511) / 512)
  let js := (List.range w.dst.pieces).filter fun j =>
    let lastBit := (j + 1) * w.dst.pieceBits - 1
    decide (lastBit / 4096 = t)
  let ps := js.map fun j => (w.dst.piece false j, w.dst.cut from_.data j)
  let sw := if w.dst.box.layout = 0x18 then 4 else 1
  let ss := if last then w.dst.scales.zipIdx.map fun e =>
      (e.1, leNat ((from_.data.drop (w.src.size + sw * e.2)).take sw)) else []
  let wr (m : Mem) (l : List (Option Loc × Nat)) : Mem :=
    writeBits m (l.filterMap fun e => e.1.map fun p => (p, e.2))
  let s := s.modUnit u fun x => { x with spad := wr (wr x.spad ps) ss }
  if last then s.setWord k { w with done := true } else s

/-- The word of another member that issued in the same cycle of the present segment and matches (R211). -/
def State.mateOf (s : State) (v c : Nat) (w : XWord) : Option (Nat × XWord) :=
  s.xwords.find? fun e =>
    decide (e.2.unit = v) && decide (e.2.issue = c) && decide (e.2.segs = (s.unit v).segs)
    && some e.2.task = (s.unit v).task && decide (e.2.kind = w.kind)
    && (match w.kind with
      | .rrot _ => decide (e.2.src.size = w.src.size)
      | _ => decide (e.2.src.desc.extN 1 = w.src.desc.extN 1))

/-- The comparison of R211 at an issue: a mismatch aborts the gang. What a member sends has to fit the label of every box it
is written into (R355). -/
def State.matchRing (s : State) (u c k : Nat) : State :=
  let w := s.word k
  let us := s.gangOf u
  let mates := us.filterMap fun v => s.mateOf v c w
  if mates.length < s.gangSize u then
    match s.lateLane u c 3 with
    | some v => s.missAt u c v true
    | none => s.raiseAt u c lanC fScheduleMiss 8 w.lab true
  else
    let me := us.findIdx (· = u)
    let n := us.length
    match w.kind with
    | .rrot prev =>
      let src := mates.getD ((if prev then me + 1 else me + n - 1) % n) (k, w)
      let next := mates.getD ((if prev then me + n - 1 else me + 1) % n) (k, w)
      if !Label.sub w.lab next.2.dst.box.lab then s.raiseAt u c lanC fLabelFlow 1 w.lab true
      else s.setWord k { w with ring := [src.1] }
    | _ =>
      if mates.any fun m => !Label.sub w.lab m.2.dst.box.lab then s.raiseAt u c lanC fLabelFlow 1 w.lab true
      else s.setWord k { w with ring := mates.map (·.1), read := me }

/-- D[s][d] in P0 cycles (R259): 200 to 400, 0 on the diagonal and for dies that are not live (R371). -/
def State.dlatOf (s : State) (a b : Nat) : Nat :=
  if a = b || !s.dieLive a || !s.dieLive b then 0 else 200 + Config.dlat a b % 201

/-- A fault of cycle `c` that is found before the issues of the cycle, of lane `lane`: it waits its turn in lane order
(R243). -/
def Unit.faultAt (x : Unit) (c lane code sub : Nat) (l : Label) : Unit :=
  { x with pend := insertDue ⟨c, phIssue, 2 * lane + 1, 0, .dfault code sub lane l true⟩ x.pend }

/-- What was sent on a message's circuit before it and could have come by now comes first (R379). -/
def State.sendEarlier (s : State) (m : XMsg) : State :=
  ((s.xin.takeWhile fun e => decide (e.word ≠ m.word)).filter fun e => e.along m && e.sent && !e.full).foldl
    (fun s e => if s.mayArrive e then s.sendIn e.word else s) s

/-- XRECV_PERFORM (R218): at t the data is there, or the receiver has missed it. What it takes leaves the buffer (R380). A
sender that issued after the XRECV with a region of another size is found here, and is ILLEGAL_OPERAND as at the issue (DESIGN
CHOICE, log 73). -/
def State.recvAt (s : State) (u c k : Nat) : State :=
  let w := s.word k
  match w.kind with
  | .xrecv die ch seq _ =>
    let stop (code sub : Nat) (l : Label) : State :=
      (s.setWord k { w with done := true, dead := true }).modUnit u fun x => x.faultAt c lanC code sub l
    match s.senderOf die (dieOf u) ch seq w.tick with
    | none => stop fScheduleMiss 7 w.lab
    | some m =>
      let s0 := s
      let s := if m.full then s else s.sendEarlier m
      let sure := m.sent && decide (c ≥ m.issue + 3 + m.beats + s.dlatOf die (dieOf u)) && s.mayArrive m
      let stop (code sub : Nat) (l : Label) : State :=
        (s0.setWord k { w with done := true, dead := true }).modUnit u fun x => x.faultAt c lanC code sub l
      if !m.full && !sure then stop fScheduleMiss 7 w.lab
      else if m.size ≠ w.dst.size then stop fIllegalOperand 0 w.lab
      else if !Label.sub (m.lab ||| w.lab) w.dst.box.lab then stop fLabelFlow 1 (m.lab ||| w.lab)
      else
        let ps := (List.range w.dst.pieces).map fun i => (w.dst.piece false i, w.dst.cut m.data i)
        let ws := ps.filterMap fun e => e.1.map fun p => (p, e.2)
        let s := s.modUnit u fun x => { x with spad := writeBits x.spad ws }
        let s := (if m.full then s else s.sendIn m.word).setWord k { w with done := true }
        { s with xin := s.xin.map fun e => if e.word = m.word then { e with taken := true, data := [] } else e }
  | _ => s

/-! ## One due effect of a unit -/

/-- A unit's segment, or the task that ran it, still goes on, so that a fault of a timed effect is taken. -/
def Unit.faultable (x : Unit) : Bool :=
  match x.mode with
  | .restoring | .idle | .held => false
  | _ => true

/-- A row group that is missing ends its MMA (R185): its later groups neither sample nor accumulate. -/
def Unit.dropGroups (x : Unit) (w k : Nat) : Unit :=
  { x with pend := x.pend.filter fun d => match d.eff with | .msamp v j | .mrow v j => decide (v ≠ w) || decide (j < k) | _ => true }

/-- A due effect performed. -/
def State.performDue (s : State) (u : Nat) (d : Due) : State :=
  match d.eff with
  | .fpush v =>
    if (s.unit u).que.fmtq.length ≥ 16 then
      (if (s.unit u).faultable then s.raiseAt u d.cyc lanS fFormatOverflow 0 v.l false else s)
    else s.modUnit u fun x => { x with que := { x.que with fmtq := x.que.fmtq ++ [v] } }
  | .dfault code sub lane l cut =>
    if !(s.unit u).faultable then s
    else match (if code = fScheduleMiss then s.lateLane u d.cyc (lane + 1) else none) with
      | some v => s.missAt u d.cyc v true
      | none => s.raiseAt u d.cyc lane code sub l cut
  | .msamp w k =>
    let x := s.unit u
    if (x.run w).src.box.mode = .stream then
      match x.takeGroup w k with
      | some y => s.setUnit u y
      | none => s.setUnit u ((x.dropGroups w k).faultAt d.cyc lanM fScheduleMiss 4 (x.run w).lab)
    else s.modUnit u fun x => x.perform d
  | .beat k b => s.readBeat u k b
  | .rrot k t => s.rotRead u k t
  | .rput k t => s.rotWrite u k t
  | .rmatch k => s.matchRing u d.cyc k
  | .xrecv k => s.recvAt u d.cyc k
  | .rsamp k =>
    let w := s.word k
    let val (e : Nat) : Nat := match (w.src.one e).place true 0 with
      | some p => p.of (Mem.bytes (s.unit u).spad p.addr p.bytes)
      | none => 0
    match w.kind with
    | .ratom op wide tag _ _ t => s.setWord k { w with kind := .ratom op wide tag (val 0) (val 1) t, read := 1 }
    | _ => s
  | _ => s.modUnit u fun x => x.perform d

/-- The first due effect of a unit performed and taken off its list. -/
def State.performFirst (s : State) (u : Nat) : State :=
  match (s.unit u).pend with
  | [] => s
  | d :: r => (s.modUnit u fun x => { x with pend := r }).performDue u d

end Sys2Proof.Machine
end

