-- ==== Sys2Proof/Machine/Issue.lean ====
section
/-! DEFINITION. What a unit does next (spec 09, R239-R247; 03, R68, R98; 05, R113, R126; 07, R174, R187, R192; 08,
R197): the candidates of a segment's cycles in order, the issue of a word with its token checks, and untimed S code. -/

namespace Sys2Proof.Machine

/-! ## Words and queues -/

/-- A special function of R151 (R145). -/
def isSpecial (i : Instr) : Bool :=
  match i with
  | .vrcp .. | .vrsq .. | .vsqrt .. | .vdiv .. | .vexp2 .. | .vlog2 .. | .vtanh .. | .vsigm .. => true
  | _ => false

/-- The cycle to which a lane's occupancy makes a word slip (R242). -/
def Unit.slipTo (x : Unit) (lane : Nat) (ws : List Word) : Nat :=
  let i : Option Instr := match decode ws with | .ok r => some r.1 | .error _ => none
  match lane with
  | 1 => if (match i with | some i => isSpecial i | none => false) then x.seg.vfree else 0
  | 2 =>
    let slot : Nat := match i with
      | some (.mma _ _ b ..) | some (.mloadb _ b ..) => (x.que.slots.get (b2n b)).ready
      | _ => 0
    max x.seg.mfree slot
  | 3 => x.seg.cfree
  | _ => 0

/-- The next word of a lane that the path certainly reaches: fetch has still to come to it (R241, R243). -/
def State.scan (s : State) (u lane acc pc fuel : Nat) : Option (Nat × List Word) :=
  match fuel with
  | 0 => none
  | fuel + 1 =>
    let x := s.unit u
    let ws := x.fetchWords pc
    match decode ws with
    | .error _ => none
    | .ok (i, n) =>
      let l := laneOf (ws.headD 0#64)
      if (s.segBad u pc l acc i).isSome then none
      else if l = lane then some (pc, ws.take n)
      else if isControl i || (match i with | .segend .. => true | _ => false) then none
      else s.scan u lane (accAfter acc i) (pc + n) fuel

/-- A lane's next word: at the head of its queue, or still to be fetched on a path no control word leaves open. -/
def State.peek (s : State) (u lane : Nat) : Option QWord :=
  let g := (s.unit u).seg
  match g.queue lane with
  | q :: _ => some q
  | [] =>
    if g.ctl.isSome || g.stopped then none
    else (s.scan u lane g.accF g.npc (s.unit u).codeN).map fun r => ⟨r.1, r.2, 2 ^ 40, 0#8, none⟩

/-! ## Candidates -/

/-- What a unit may do at a point of its time. -/
inductive Cand
  | eff
  | issue (lane : Nat)
  | miss (lane : Nat) (late : Bool)
  | over (lane : Nat)
  | fetch
  | flip
  | ends
  deriving DecidableEq, Repr

/-- A candidate with its cycle, place in the cycle and lane, which counts double: a fault found for a lane before the issues
of the cycle stands behind the issue of that lane (R243). -/
structure At where
  cyc   : Nat
  phase : Nat
  lane  : Nat
  what  : Cand
  deriving DecidableEq, Repr

def At.before (a b : At) : Bool :=
  decide (a.cyc < b.cyc) || (decide (a.cyc = b.cyc) &&
    (decide (a.phase < b.phase) || (decide (a.phase = b.phase) && decide (a.lane ≤ b.lane))))

/-- The earlier of two candidates. -/
def At.min (a b : Option At) : Option At :=
  match a, b with
  | some x, some y => if x.before y then some x else some y
  | some x, none => some x
  | none, y => y

/-- The largest segment cycle (R244). -/
def lastCycle : Nat := 2 ^ 32 - 1

/-- The cycle in which a word of a lane issues: its computed one, past what makes it slip (R242); the S lane slips to its
deposit and past a taken control word. -/
def Unit.when (x : Unit) (lane : Nat) (q : QWord) : Nat :=
  let k := x.seg.computed lane q.words
  if lane = 0 then max (max k q.first) x.seg.taken else max k (x.slipTo lane q.words)

/-- The S lane's next issue. -/
def Unit.sCand (x : Unit) : Option At :=
  match x.seg.sb with
  | [] => none
  | q :: _ => some ⟨min lastCycle (x.when 0 q), phIssue, 0, .issue 0⟩

/-- The next issue or schedule miss of the V, M or C lane (R241-R243). -/
def State.laneCand (s : State) (u lane : Nat) : Option At :=
  match s.peek u lane with
  | none => none
  | some q =>
    let x := s.unit u
    let k := x.seg.computed lane q.words
    if k > lastCycle && q.first = 2 ^ 40 then some ⟨lastCycle, phIssue, 2 * lane, .over lane⟩
    else if k < q.first && k ≤ lastCycle then
      if k < x.seg.cyc then some ⟨x.seg.cyc, phPush, 2 * lane, .miss lane true⟩
      else some ⟨min lastCycle k, phIssue, 2 * lane, .miss lane false⟩
    else some ⟨min lastCycle (x.when lane q), phIssue, 2 * lane, .issue lane⟩

/-- An armed flip that the segment has not passed (R192). -/
def Unit.flipCand (x : Unit) : Option At :=
  let v := x.vol.accinj.v.toNat
  let c := bits v 54 23
  if v.testBit 63 && decide (c ≥ x.seg.cyc) then some ⟨c, phFlip, 0, .flip⟩ else none

/-- The checks at Lseg − 1 (R221). -/
def Unit.endCand (x : Unit) : Option At :=
  let g := x.seg
  if g.ended.isSome && g.sb.isEmpty && g.vb.isEmpty && g.mb.isEmpty && g.cb.isEmpty then some ⟨g.last, phEnd, 0, .ends⟩
  else none

def Unit.effCand (x : Unit) : Option At := x.pend.head?.map fun d => ⟨d.cyc, d.phase, d.lane, .eff⟩

def Unit.fetchCand (x : Unit) : Option At :=
  if x.fetchBlocked then none else some ⟨max x.seg.fetchC x.seg.cyc, phFetch, 0, .fetch⟩

/-- What a unit does next in its segment. In the cycle in which a fault aborts the segment nothing more happens, so an
armed flip of that cycle stays armed (DESIGN CHOICE, log 101). -/
def State.nextOf (s : State) (u : Nat) : Option At :=
  let x := s.unit u
  let l := [x.sCand, s.laneCand u 1, s.laneCand u 2, s.laneCand u 3, x.fetchCand, x.flipCand, x.endCand]
  l.foldl At.min x.effCand

/-! ## Issue -/

/-- The head of a lane's queue taken, and the cycle as the lane's P (R242). -/
def Seg.take (g : Seg) (lane c : Nat) : Seg :=
  match lane with
  | 0 => { g with sb := g.sb.tail, ps := c }
  | 1 => { g with vb := g.vb.tail, pv := c }
  | 2 => { g with mb := g.mb.tail, pm := c }
  | _ => { g with cb := g.cb.tail, pc := c }

/-- A word begins to issue at cycle c: signature and Lseg count it (R221, R222), and it is the unit's present word. -/
def Unit.begin (x : Unit) (lane c : Nat) (q : QWord) : Unit :=
  let ws := if (match q.words with | w :: _ => isSegend w | [] => false) then q.words.take 1 else q.words
  let isEnd := decide (ws.length < q.words.length)
  let g := x.seg.take lane c
  let g := { g with
    cyc := c, crc := crcWords g.crc ws, last := if lane ≠ 0 || isEnd then max g.last c else g.last }
  { x with seg := g, iss := ⟨q.pc, q.words.length, c, q.lab, true, q.first, (hdrOf q.words).dep⟩ }

/-- The C word a token names. -/
def Tok.word? (t : Tok) : Option Nat :=
  match t with
  | .none => Option.none
  | .timed _ _ k => k
  | .word _ k => some k

/-- The fault a consumed token raises at its consumer's issue beside those held (R245): none when it is complete. -/
def State.tokFault (s : State) (u lane n : Nat) : Option Flt :=
  let x := s.unit u
  let miss (issue : Nat) : Flt := { x.flt lane fScheduleMiss 2 x.iss.lab with det := (n + 64 * issue) % 2 ^ 32 }
  match x.que.toks.get n with
  | .none => some (x.flt lane fIllegalOperand 0 x.iss.lab)
  | .timed i d _ => if x.iss.cyc ≤ d then some (miss i) else none
  | .word i k => if s.tokDone k then none else some (miss i)

/-- What stands at the words that consumed tokens name (R203, R283): the held fault found first, else a CANCEL error. -/
def State.tokStanding (s : State) (u : Nat) (ns : List Nat) : Option Flt :=
  let ws := ns.filterMap fun n => ((s.unit u).que.toks.get n).word?.bind fun k => Tab.find s.xwords k
  let first := ws.foldl (fun (b : Option (Nat × Flt)) w => match w.held, b with
    | some f, some (n, _) => if w.found < n then some (w.found, f) else b
    | some f, none => some (w.found, f)
    | none, _ => b) none
  match first with
  | some (_, f) => some f
  | none =>
    cancelFlt ws

/-- CANCEL errors of the words that consumed tokens name are acted on (R283). -/
def State.spendToks (s : State) (u : Nat) (ns : List Nat) : State :=
  let ks := ns.filterMap fun n => ((s.unit u).que.toks.get n).word?
  { s with xwords := s.xwords.map fun e => if ks.contains e.1 then (e.1, { e.2 with cancel := 0 }) else e }

/-- Tokens a word consumes. -/
def consumedBy (h : Hdr) : List Nat :=
  match h.dep with
  | none => []
  | some d => ([d.c0, d.c1, d.c2].filter fun c => decide (c ≠ 0#6)).map (·.toNat)

/-- A VST into a ZMASK box. -/
def State.zStore (s : State) (u : Nat) (i : Instr) : Bool :=
  match i with
  | .vst _ _ f _ => layZmask (s.box u ((s.unit u).regs.d.get f.d.toNat).slot.toNat).layout
  | _ => false

/-- The completion point of a V or M word (R246); `z` marks a store into a ZMASK box. -/
def Unit.doneAt (x : Unit) (lane : Nat) (i : Instr) (z : Bool) : Nat :=
  let c := x.iss.cyc
  let mine := x.pend.filter fun d => decide (d.iss = c) && decide (d.lane = (if lane = 1 then lnV else lnM)) && decide (d.phase ≠ phNow)
  let last (l : List Due) : Nat := l.foldl (fun m d => max m d.cyc) c
  match i with
  | .vst .. | .vsct .. => if z then c + 7 else c + 5
  | .vcmp .. | .vicmp .. | .vmand .. | .vmor .. | .vmxor .. | .vmnot .. => c + 2
  | .vld .. | .vgth .. => c + 7
  | .mloadb .. => c + 33
  | .accwake .. => c
  | _ => last (mine.filter fun d => match d.eff with | .dorg .. | .vwin .. | .vmode .. => false | _ => true)

/-- The token a C word leaves (R200): its own completion point where it is timed, else the word itself. -/
def State.tokC (s : State) (u : Nat) : Tok :=
  let c := (s.unit u).iss.cyc
  let k := s.xnext - 1
  let w := s.xwords.get k
  match w.kind with
  | .cout _ | .xsend .. => .timed c (c + 2 + w.src.beats) (some k)
  | .rrot _ => .timed c (c + 3 + (w.src.size + 511) / 512) none
  | .xrecv _ _ _ t => .timed c t none
  | _ => .word c k

/-- Occupancies after an issue (R145, R195, R197). -/
def State.occupy (s : State) (u lane : Nat) (i : Instr) : State :=
  let x := s.unit u
  let c := x.iss.cyc
  match lane with
  | 1 => if isSpecial i then s.setUnit u { x with seg := { x.seg with vfree := c + 4 } } else s
  | 2 =>
    let occ := match i with
      | .mloadb .. => 32
      | .mma _ _ _ _ _ rows1 _ _ _ => mmaOcc (x.que.mruns.get (x.que.mnext - 1)).fw (rows1.toNat + 1)
      | .mcopy .. => 64
      | .mchkv .. => 128
      | _ => 1
    s.setUnit u { x with seg := { x.seg with mfree := c + occ } }
  | 3 =>
    let w := s.xwords.get (s.xnext - 1)
    let occ := match i with
      | .cout .. | .coutNa .. | .xsend .. => max 1 w.src.beats
      | .rrot .. => max 1 ((w.src.size + 511) / 512)
      | _ => 1
    s.setUnit u { x with seg := { x.seg with cfree := c + occ } }
  | _ => s

/-- What follows an issue that did not fault: occupancy and the token produced (R245). -/
def State.endIssue (s : State) (u lane : Nat) (i : Instr) : State :=
  if (s.unit u).mode ≠ .seg then s
  else
    let s := s.occupy u lane i
    match (s.unit u).iss.toks with
    | some d =>
      if d.prod = 0#6 || lane = 0 then s
      else
        let t := if lane = 3 then s.tokC u else .timed (s.unit u).iss.cyc ((s.unit u).doneAt lane i (s.zStore u i)) none
        s.modUnit u fun x => { x with que := { x.que with toks := x.que.toks.put d.prod.toNat t } }
    | none => s

/-- A word begins to issue on a unit, which is the active one. -/
def State.beginAt (s : State) (u lane c : Nat) (q : QWord) : State :=
  { s.modUnit u (fun x => x.begin lane c q) with active := u }

/-- A word issues in a segment: `ex` is the meaning of instructions. -/
def State.issueAt (s : State) (ex : Instr → State → Out) (u lane c : Nat) : Out :=
  match (s.unit u).seg.queue lane with
  | [] => .next s
  | q :: _ =>
    let over_ := decide ((s.unit u).when lane q > lastCycle)
    let s := s.beginAt u lane c q
    if over_ then .next (s.fail lane fIllegalOperand 0 q.lab)
    else match decode q.words with
    | .error _ => .next (s.fail lane fIllegalWord 0 q.lab)
    | .ok (i, _) =>
      let ns := consumedBy (hdrOf q.words)
      match s.tokStanding u ns, ns.findSome? fun n => s.tokFault u lane n with
      | some f, _ =>
        -- the words of these tokens alone are spent: what stands at others waits for its own point (R283)
        let s := match (s.unit u).task with | some t => (if f.code = fCancel then s.spendToks u ns else s).unhold t f | none => s
        .next (s.raise u f true)
      | none, some f => .next (s.raise u f true)
      | none, none => match ex i s with
        | .next t => .next (t.endIssue u lane i)
        | r => r

/-- ACCINJ's flip (R192): of a tile allotted and ON; ARM is cleared. -/
def Unit.flipBit (x : Unit) : Unit :=
  let v := x.vol.accinj.v.toNat
  let t := bits v 3 0
  let r := bits v 10 4
  let b := bits v 22 11
  let y := { x with vol := { x.vol with accinj := ⟨x.vol.accinj.v &&& 0x7FFFFFFFFFFFFFFF#64, x.vol.accinj.l⟩ } }
  if y.tileOn t then
    let old := y.rowAt t r
    y.setRow t r ⟨old.v ^^^ (1#4096 <<< b), old.l⟩
  else y

/-- A candidate carried out. -/
def State.perform (s : State) (ex : Instr → State → Out) (u : Nat) (a : At) : Out :=
  let s := s.modUnit u fun x => { x with seg := { x.seg with cyc := max x.seg.cyc a.cyc } }
  match a.what with
  | .eff => .next (s.performFirst u)
  | .issue lane =>
    match s.issueAt ex u lane a.cyc, s.lateLane u a.cyc lane with
    | .next t, some v => if (t.unit u).mode = .seg then .next t else .next (s.missAt u a.cyc v true)
    | r, _ => r
  | .miss lane late =>
    match (if late then none else s.lateLane u a.cyc lane) with
    | some v => .next (s.missAt u a.cyc v true)
    | none => .next (s.missAt u a.cyc lane late)
  -- a word still to be fetched whose cycle lies beyond the last one (R244)
  | .over lane => .next (s.raiseAt u a.cyc lane fIllegalOperand 0 (s.unit u).vol.lblpc true)
  | .fetch => .next (s.fetchAt u a.cyc)
  | .flip => .next (s.modUnit u Unit.flipBit)
  | .ends => match (s.unit u).seg.ended with
    | some (sig, len) => .next (s.endCheck u sig len)
    | none => .next s

/-! ## Units that move on one clock -/

/-- Units whose segments share cycles with a unit's (R248, R254, R258): its gang, and the cores of a timing group in
segments opened at the same tick. -/
def State.domain (s : State) (u : Nat) : List Nat :=
  let g := s.gangOf u
  match (s.unit u).seg.tick with
  | none => g
  | some t => g ++ ((s.units.filter fun e => e.2.seg.tick = some t &&
      (s.dies.get (dieOf e.1)).group = (s.dies.get (dieOf u)).group).map (·.1))

/-- The point of shared time a unit stands before: its next candidate, or an effect still to come. -/
def State.front (s : State) (u : Nat) : Option (Nat × Nat) :=
  match (s.unit u).mode with
  | .seg => (s.nextOf u).map fun a => (a.cyc, a.phase)
  | _ => (s.unit u).effCand.map fun a => (a.cyc, a.phase)

/-- No unit of the domain stands before an earlier point. -/
def State.firstOf (s : State) (u : Nat) : Bool :=
  match s.front u with
  | none => true
  | some p => (s.domain u).all fun v => match s.front v with
    | none => true
    | some q => decide (p.1 < q.1) || (decide (p.1 = q.1) && decide (p.2 ≤ q.2))

/-! ## Moves of a unit -/

/-- One move of a unit in an open segment; none when another unit of its domain has to move first. -/
def State.moveSeg (s : State) (ex : Instr → State → Out) (u : Nat) : Option Out :=
  if s.firstOf u then (s.nextOf u).map fun a => s.perform ex u a else none

/-- A fault of an untimed word. -/
def State.codeFault (s : State) (u lane code : Nat) : State :=
  s.raise u ((s.unit u).flt lane code 0 (s.unit u).vol.lblpc) false

/-- A unit takes up the untimed word of `n` words at its pc: it is the active unit and the word its present one. -/
def State.takeUp (s : State) (u n : Nat) : State :=
  { s.modUnit u (fun x => { x with iss := ⟨x.pc, n, 0, x.vol.lblpc, false, 0, none⟩ }) with active := u }

/-- The pc of a unit moved past `n` words. -/
def State.skip (s : State) (u n : Nat) : State := s.modUnit u fun x => { x with pc := x.pc + n }

/-- WAIT_ORDER: after REALIGN or WAITGE the next word has to be SYNC (R108). -/
def outOfOrder (x : Unit) (i : Instr) : Bool := x.order && (match i with | .sync _ => false | _ => true)

/-- One word of untimed S code, on a core between segments or on a sequencer (R42, R114, R126). -/
def State.moveCode (s : State) (ex : Instr → State → Out) (u : Nat) : Out :=
  let x := s.unit u
  let ws := x.fetchWords x.pc
  match decode ws with
  | .error _ => .next ((s.takeUp u 1).codeFault u (laneOf (ws.headD 0#64)) fIllegalWord)
  | .ok (i, n) =>
    let lane := laneOf (ws.headD 0#64)
    let s := s.takeUp u n
    match s.wordBad u x.pc lane x.regs.acc i with
    | some code => .next (s.codeFault u lane code)
    | none =>
      if lane ≠ 0 then .next (s.codeFault u lane fIllegalOperand)
      else if outOfOrder x i then .next (s.codeFault u lanS fWaitOrder)
      else ex i (s.skip u n)

/-- One move of a unit, when it has one: the next point of its segment, a word of untimed code, a task that can return,
a SYNC that can open. -/
def State.moveUnit (s : State) (ex : Instr → State → Out) (u : Nat) : Option Out :=
  let x := s.unit u
  match x.mode with
  | .seg => s.moveSeg ex u
  | .code => some (s.moveCode ex u)
  | .sync =>
    let t := s.trySync u
    if (t.unit u).mode = .sync then none else some (.next t)
  | .tending _ =>
    let t := s.tendCheck u
    if (t.unit u).mode = x.mode then none else some (.next t)
  | _ => none

/-- A timed effect of a segment that has ended performs at its own cycle (R43, R113, R221). -/
def State.drainUnit (s : State) (u : Nat) : Option State :=
  let x := s.unit u
  if x.mode ≠ .seg && !x.pend.isEmpty && s.firstOf u then some (s.performFirst u) else none

/-! ## Rows of the table that are effects of a unit -/

/-- The active unit's first due effect when it is of the class a row names. -/
def dueRow (s : State) (sel : Eff → Bool) (why : String) : Out :=
  match s.me.pend with
  | d :: _ => if sel d.eff then .next (s.performFirst s.active) else noEvent s why
  | [] => noEvent s why

/-- S_RESULT_ARRIVE (R39). -/
def execSResultArrive (s : State) : Out :=
  dueRow s (fun e => match e with | .sres .. | .sname .. | .pred .. => true | _ => false) "no scalar result is due"

/-- V_ROW_WRITE (R142). -/
def execVRowWrite (s : State) : Out :=
  dueRow s (fun e => match e with | .vrow .. => true | _ => false) "no row write is due"

/-- TIMED_STORE_PERFORM (R136, R166). -/
def execTimedStorePerform (s : State) : Out :=
  dueRow s (fun e => match e with | .sbits _ | .store _ | .cadd .. | .vzstore .. => true | _ => false) "no store is due"

/-- M_ROW_GROUP_ACCUMULATE (R184). -/
def execMRowGroupAccumulate (s : State) : Out :=
  dueRow s (fun e => match e with | .mrow .. => true | _ => false) "no row group is due"

/-- MLOADB_SLOT_READY (R183). -/
def execMloadbSlotReady (s : State) : Out :=
  dueRow s (fun e => match e with | .mslot _ => true | _ => false) "no slot load is due"

/-- MCHKV_RESULT (R190). -/
def execMchkvResult (s : State) : Out :=
  dueRow s (fun e => match e with | .mchk _ => true | _ => false) "no check result is due"

/-- XRECV_PERFORM (R218). -/
def execXrecvPerform (s : State) : Out :=
  dueRow s (fun e => match e with | .xrecv _ => true | _ => false) "no receive is due"

/-- ACCINJ_FLIP (R192): the active unit's armed flip, when its segment has come to that cycle. -/
def execAccinjFlip (s : State) : Out :=
  let x := s.me
  match x.mode, x.flipCand with
  | .seg, some a =>
    let s := s.modMe fun x => { x with seg := { x.seg with cyc := max x.seg.cyc a.cyc } }
    .next (s.modMe Unit.flipBit)
  | _, _ => noEvent s "no flip is armed for the segment"

end Sys2Proof.Machine
end

