-- ==== Sys2Proof/Machine/Sched.lean ====
section
/-! DEFINITION. The schedulers of the dies and the package arbiter (spec 15, R292-R308; 10, R267, R268; 22, R406, R408,
R409): placing boxes, picking, copying in, starting, parking and saving tasks. -/

namespace Sys2Proof.Machine

/-! ## Levels, clocks and priorities -/

/-- At least `us` microseconds may have passed since the tick numbered `t` (ticks come every 4 µs, R257). -/
def State.elapsed (s : State) (t us : Nat) : Bool := decide (us < 4 * (s.frame.toNat - t + 1))

/-- Fault at a task that is not running: PERMISSION and GATE_REFUSAL freeze the master of the unit it is queued for. -/
def State.failPrepared (s : State) (k u : Nat) (f : Flt) : State :=
  let s := if f.stays then s.freeze (masterOf u (s.launch (s.task k).lid).asid) else s
  s.failTask k f (if f.stays then 2 else 1)

/-! ## Order of picking -/

/-- Order of picking (R301, R302): weighted functions first, then class, virtual time, older spawn. -/
def State.pickedBefore (s : State) (a b : Nat) : Bool :=
  let fn (k : Nat) := (s.launch (s.task k).lid).fn
  let z (k : Nat) := b2n (decide (s.weight (fn k) = 0))
  let v (k : Nat) := if z k = 1 then 0 else (s.fns.get (fn k)).vt.get (s.schedOf k)
  let p (k : Nat) := (s.task k).prio
  decide (z a < z b) || (decide (z a = z b) && (decide (p a > p b) || (decide (p a = p b) &&
    (decide (v a < v b) || (decide (v a = v b) && decide (a ≤ b))))))

def State.best (s : State) (ks : List Nat) : Option Nat :=
  ks.foldl (fun (b : Option Nat) k => match b with
    | some j => if s.pickedBefore j k then some j else some k
    | none => some k) none

/-! ## Picking a task to prepare (R300, R301, R305) -/

/-- Dispatch on a die is not frozen and the die is live (R409, R410). -/
def State.dispatches (s : State) (die : Nat) : Bool :=
  s.dieLive die && !(s.cps.get die).frozen && !(s.cps.get die).dead

/-- A unit takes tasks of an address space (R406, R408-R410), once its die is awake (R420). -/
def State.unitUp (s : State) (u asid : Nat) : Bool :=
  !(s.unit u).quar && !s.frozen.contains (masterOf u asid) && s.dispatches (dieOf u)

/-- Units of a die that a task could run on. -/
def unitsOf (die : Nat) (seq : Bool) : List Nat :=
  if seq then (List.range 6).map fun i => 384 + 6 * die + i else (List.range 48).map fun i => 48 * die + i

/-- A task that may be placed on another die than its own (R291, R306, R307): its domain instance has more, and its boxes lie on none.
One that has run on a die which new tasks are kept off stays on it (R421). -/
def State.roams (s : State) (k : Nat) : Bool :=
  let t := s.task k
  let above := match t.parent with | some p => (s.levelE p).byArbiter | none => true
  above && t.timed.isNone && t.inst.isNone && decide ((s.levelE k).scope = 0 ∨ (s.levelE k).scope = 3)
    && !(t.began && (s.dies.get t.die).shrink)

/-- Some unit of a die takes a task of an address space. -/
def State.someUp (s : State) (die : Nat) (seq : Bool) (asid : Nat) : Bool := (unitsOf die seq).any fun v => s.unitUp v asid

/-- Open dies beside its own on which a task finds a unit and an entry of the task table (R299, R307). -/
def State.otherDies (s : State) (k : Nat) : List Nat :=
  let t := s.task k
  let l := s.launch t.lid
  if s.roams k then (s.openDies l).filter fun d =>
    d ≠ t.die && s.someUp d t.seq l.asid && decide ((if t.seq && !t.cont then 512 else 0) < s.freeEntries d)
  else []

/-- The die a task is placed on at its pick: its own, or where no unit of its own can take it or no new task goes there, the one the
arbiter chooses among the others (R291, R307, R421). -/
def State.pickDie (s : State) (k : Nat) : Nat :=
  let t := s.task k
  let l := s.launch t.lid
  if !s.someUp t.die t.seq l.asid || !(s.openDies l).contains t.die then (s.fewest (s.otherDies k)).getD t.die else t.die

/-- A task may be placed on a die; a gang on every die of its parent's instance (R305). -/
def State.dieOk (s : State) (k die : Nat) : Bool :=
  decide (die = s.pickDie k) || ((s.task k).gang.isSome && (s.otherDies k).contains die)

/-- The clusters in whose stores a task's boxes lie (R268). -/
def Task.homes (t : Task) : List Nat :=
  (t.boxes.filter fun e => e.2.scope = .clstore && e.2.view.isNone && e.2.mode ≠ .root).map fun e => e.2.home

/-- A task may be placed on a unit as far as its domain, its unit and its master go (R291, R406, R408), after the wake of a die that
sleeps (R420). Boxes placed in a cluster store keep a task there, unless it has not started and its sequencer cannot take it. -/
def State.fitsUnit (s : State) (u k : Nat) : Bool :=
  let t := s.task k
  let asid := (s.launch t.lid).asid
  decide (t.seq = isSeq u) && s.dieOk k (dieOf u)
  && (match t.inst with | some c => decide (clusterOf u = c) | none => true)
  && (match t.timed with | some (c, _, _) => decide (c = u) | none => true)
  && (!t.seq || t.homes.all fun c => decide (c = clusterOf u) || (!t.cont && t.saved.isNone && !s.unitUp (384 + c) asid))
  && !(s.asids.get asid).off && s.unitUp u asid && decide ((s.dies.get (dieOf u)).ccur = 0)
  && (!(s.levelE k).byArbiter || !((s.cps.get 8).frozen || (s.cps.get 8).dead))

/-- Tasks in PREPARING or READY on a unit (R300). -/
def State.queued (s : State) (u : Nat) : List Nat :=
  (s.tasks.filter fun e => e.2.unit = some u && (e.2.st = .preparing || e.2.st = .ready)).map (·.1)

/-- A unit has room for another task in its queue. -/
def State.hasRoom (s : State) (u : Nat) : Bool := decide ((s.queued u).length < (if isSeq u then 8 else 4))

/-- A task to be prepared: nothing is held back and, in a gang, every member that has not ended waits to be placed. -/
def State.isFree (s : State) (k : Nat) : Bool := (s.gangTasks k).all fun j => (s.task j).st = .spawned

/-- One task prepared on a unit: its boxes placed, its registers still to come. The time it has waited is kept (R303). -/
def State.prepareOne (s : State) (u k : Nat) : Option State :=
  let t := s.task k
  if !s.fitsUnit u k || !s.hasRoom u then none
  else
    let placed :=
      if (s.levelE k).scope = 0 then s.placeNear u k (s.scratchUsed u) t.boxes
      else if t.seq && t.homes.any (fun c => c ≠ clusterOf u) then (s.freeBoxes k).placeFar k (clusterOf u) t.boxes
      else some s
    placed.map fun s => s.modTask k fun t => { t with
      st := .preparing, unit := some u, ready := false, die := dieOf u, start := s.frame.toNat - t.start
      taskid := if dieOf u = t.die then t.taskid else s.freeTaskid (dieOf u) k
      inst := if (s.levelE k).domain = 3 then some (clusterOf u) else t.inst }

/-- The core of a gang's member when the gang's base is core `u` (R208); a timetabled member has its own. -/
def State.memberCore (s : State) (u k : Nat) : Nat :=
  match (s.task k).timed, (s.task k).gang with
  | some (c, _, _), _ => c
  | none, some (_, m, _) => u + m
  | none, none => u

/-- Cores of a cluster that are free for the preparation of a task: those that take it, with room in the queue and for its boxes
(R305). -/
def State.freeCores (s : State) (k c : Nat) : Nat := ((List.range 8).filter fun i => (s.prepareOne (8 * c + i) k).isSome).length

/-- A whole gang prepared from base core `u` (R208, R305): in the cluster of the parent's instance with the most free
cores among those that can hold it, the lowest number on a tie; a timetable names the cores itself (R304). -/
def State.prepareGang (s : State) (u k : Nat) : Option State :=
  let ks := s.gangTasks k
  let at_ (s : State) (b : Nat) : Option State :=
    ks.foldl (fun (o : Option State) j => o.bind fun s => s.prepareOne (s.memberCore b j) j) (some s)
  match (s.task k).timed with
  | some _ => if ks.head? = some k && s.memberCore u k = u then at_ s u else none
  | none =>
    let p := match (s.task k).gang with | some (_, _, n) => gangP n | none => 1
    let n := match (s.task k).gang with | some (_, _, n) => n | none => 1
    let bases (c : Nat) : List Nat := ((List.range (8 / p)).map fun i => 8 * c + p * i).filter fun b =>
      decide (b % 8 + n ≤ 8) && (at_ s b).isSome
    let cs := (List.range 48).filter fun c => !(bases c).isEmpty
    let c := cs.foldl (fun (b : Option Nat) c => match b with
      | some d => if s.freeCores k d < s.freeCores k c then some c else some d
      | none => some c) none
    match c with
    | none => none
    | some c => if clusterOf u = c && decide (u % 8 % p = 0) && decide (u % 8 + n ≤ 8) then at_ s u else none

/-- A task or its gang prepared for a position. -/
def State.prepare (s : State) (u k : Nat) : Option State :=
  if !s.isFree k || (s.asids.get (s.launch (s.task k).lid).asid).off then none
  else if (s.task k).gang.isSome then (if isSeq u then none else s.prepareGang u k)
  else s.prepareOne u k

/-! ## Starting -/

/-- A unit is idle and nothing of an earlier task is still to happen on it. -/
def State.idleUnit (s : State) (u : Nat) : Bool :=
  decide ((s.unit u).mode = .idle) && (s.unit u).task.isNone && s.quiet u

/-- RUNNING (R61, R62, R250, R306): registers as at a task's start or as saved, the code and pool loaded (R47, R239), the
first commit point set. The RATOM tag counter is the core's, but for a phase-protected task that resumes: there it is part of
the committed state (R214). -/
def State.startTask (s : State) (u k : Nat) : State :=
  let t := s.task k
  let l := s.launch t.lid
  let e := l.entryOf t.index
  let x := s.unit u
  let vol : Vol := match t.saved with
    | some v => { v.vol with lat := default, latIss := none, q := [], vlat := default, vlatIss := none, vq := [], rstack := [] }
    | none => { (default : Vol) with attempt := t.attempt, chst := t.chst }
  let pool := e.pool.zipIdx.foldl (fun (m : Tab Word) p => m.put p.2 p.1) []
  let vol := { vol with k := pool, codeL := l.codeL, lblpc := t.lbl }
  let r : Regs := { (match t.saved with | some v => v.regs | none => Regs.start e.acc) with
    tag := match t.saved with | some v => (if e.prot then v.regs.tag else x.regs.tag) | none => x.regs.tag }
  let pc := match t.saved with | some v => v.pc | none => if t.cont then t.contPc else 0
  let ord := match t.saved with | some v => v.order | none => false
  let y : Unit := { x with
    mode := .code, pc := pc, iss := default, task := some k, regs := r, vol := vol, que := default, seg := default
    pend := [], code := Mem.write [] 0 (e.code.flatMap fun w => leBytes 8 w.toNat), codeN := e.code.length
    defer := [], snap := none, snapM := [], snapPc := pc, real := none
    order := ord, snapOrd := ord
    ring := none, since := 0, saving := 0, saveNext := false, owes := some (l.fn, s.schedOf k) }
  let s := ((s.freeSave k).setUnit u y).modTask k fun t => { t with
    st := .running, unit := some u, home := u, ready := false, saved := none, began := true, segno := 0 }
  if e.prot then
    let copies := s.stagedCopies u Box.allocBytes
    s.modUnit u fun x => { x with snap := some x.regs, snapM := copies }
  else s

/-- A core is kept for a gang that is READY (R305). -/
def State.reservedFor (s : State) (u : Nat) : Option Nat :=
  (s.queued u).find? fun k => match (s.task k).gang with
    | some (g, _, _) => (s.task k).st = .ready && (match s.gres.get g with | .held _ => true | _ => false)
    | none => false

/-- TASK_PICK (R300-R302, R304, R305): the best READY task of a free position runs, or a task is prepared for it: a timetabled
child as early as space allows, else the best candidate. -/
def execTaskPick (u : Nat) (s : State) : Out :=
  let ready := (s.queued u).filter fun k =>
    (s.task k).st = .ready && (s.task k).gang.isNone && (s.task k).timed.isNone && s.fitsUnit u k
  let run := if s.idleUnit u && (s.reservedFor u).isNone then s.best ready else none
  match run with
  | some k => .next (s.startTask u k)
  | none =>
    let cands := (s.tasks.filter fun e => e.2.st = .spawned && e.2.timed.isNone).map (·.1)
    let timed := (s.tasks.filter fun e => e.2.st = .spawned && e.2.timed.isSome).map (·.1)
    let can (k : Nat) : Bool := (s.prepare u k).isSome
    match (match s.best (timed.filter can) with | some k => some k | none => s.best (cands.filter can)) with
    | some k => match s.prepare u k with
      | some t => .next t
      | none => noEvent s "no task can be prepared"
    | none => noEvent s "no task waits for the position"

/-! ## Copies at the call (R293, R295, R306) -/

/-- The scheduler's context on a die. -/
def State.schedCtx (s : State) (k : Nat) : Ctx :=
  ⟨.sched (s.task k).die, (s.task k).die, (s.launch (s.task k).lid).asid, 0xFFFFFFFF, 0, false, none, false⟩

/-- The region of the parent's box an argument names, as a handle (R270). -/
def State.parentHnd (s : State) (k : Nat) (b : Box) : Option Hnd :=
  match (s.task k).parent, b.path with
  | some p, h :: _ =>
    let d : Desc := { slot := BitVec.ofNat 4 h.slot, valid := true, lab := b.lab
                      step := Quad.ofFn fun i => BitVec.ofInt 8 (h.step.get i)
                      org := Quad.ofFn fun i => BitVec.ofInt 30 (h.org.get i)
                      ext := Quad.ofFn fun i => BitVec.ofNat 30 (b.ext.get i) }
    some ⟨d, (s.task p).boxes.get h.slot⟩
  | _, _ => none

/-- A box as a handle over all of it. -/
def Box.hnd (x : Nat) (b : Box) : Hnd := ⟨Desc.whole x b b.lab, b⟩

/-- How a scheduler's copy fails: the error, whether a write met it (R321). -/
abbrev CopyErr := Option (XErr × Nat)

/-- One run written for the scheduler: to a page outside the package by way of the Col (R359), with the layout `lay` of the box the
data comes from. -/
def State.schedRun (s : State) (ctx : Ctx) (fn u lay : Nat) (b : Box) (l : Label) (r : WRun) : State × CopyErr :=
  let done (r : State × Option XErr) : State × CopyErr := (r.1, r.2.map fun e => (e, 1))
  match s.outsidePage ctx b r.a with
  | some (p, page) =>
    if p.allows .wr && s.shut ctx p then (s, some (.wait, 1))
    else if p.allows .wr then
      let a := p.addr + (r.a - page)
      let t : Txn := { (default : Txn) with
        kind := if p.tgt = 1 then 0 else 2, port := p.port, fn := fn, asid := ctx.asid, lab := l, layout := lay
        addr := a, size := (runBits [r] + 7) / 8, master := some (masterOf u ctx.asid), act := .wr [{ r with a := a }] }
      match s.decideNow t with
      | (s, some why) => (s, some (.flt fGate why 0 r.a, 1))
      | (s, none) => done (s.writeBox ctx u b l r.a r.bs r.mask)
    else done (s.writeBox ctx u b l r.a r.bs r.mask)
  | none => done (s.writeBox ctx u b l r.a r.bs r.mask)

def State.schedRuns (s : State) (ctx : Ctx) (fn u lay : Nat) (b : Box) (l : Label) (rs : List WRun) : State × CopyErr :=
  match rs with
  | [] => (s, none)
  | x :: r =>
    match s.schedRun ctx fn u lay b l x with
    | (s, some e) => (s, some e)
    | (s, none) => s.schedRuns ctx fn u lay b l r

/-- Elements written for the scheduler at their places. -/
def State.schedPut (s : State) (ctx : Ctx) (fn u lay : Nat) (b : Box) (l : Label) (ps : List (Option Loc × Nat)) : State × CopyErr :=
  s.schedRuns ctx fn u lay b l (cutRuns (placeRuns (ps.filterMap fun e => e.1.map fun p => (p, e.2))))

/-- A region copied with its scales (R198, R270, R293): `ru` and `wu` are the units whose scratchpads it may lie in. -/
def State.schedCopy (s : State) (ctx : Ctx) (fn ru wu : Nat) (src dst : Hnd) (into l : Label) : State × CopyErr :=
  let places (h : Hnd) (rd : Bool) := (List.range h.count).map fun e => h.place rd e
  match s.readPlaces ctx ru src.box into (places src true) with
  | (s, .error e) => (s, some (e, 0))
  | (s, .ok (vs, _, _)) =>
    match s.readPlaces ctx ru src.box.scaleBox into src.scales with
    | (s, .error e) => (s, some (e, 0))
    | (s, .ok (xs, _, _)) =>
      match s.schedPut ctx fn wu src.box.layout dst.box l (List.zip (places dst false) vs) with
      | (s, some e) => (s, some e)
      | (s, none) => s.schedPut ctx fn wu src.box.layout dst.box.scaleBox l (List.zip dst.scales xs)

/-- A saved task's range of its context's save area read back (R306), as control (R393); none where it has no range. -/
def State.readSave (s : State) (k : Nat) : State × Except XErr (Option (List Byte)) :=
  match (s.asids.get (s.launch (s.task k).lid).asid).stash.find? fun r => r.1 = k with
  | some (_, a, n) =>
    match s.readVa { s.schedCtx k with ctl := true } .rd false (pagesOf n) a n with
    | (s, .error e) => (s, .error e)
    | (s, .ok r) => (s, .ok (some r.data))
  | none => (s, .ok none)

/-- Boxes with the bytes of a saved task's range: one after another as they were saved. -/
def boxesFrom (bs : List Byte) (l : List (Nat × List Byte)) : List (Nat × List Byte) :=
  match l with
  | [] => []
  | (x, o) :: r => (x, bs.take o.length) :: boxesFrom (bs.drop o.length) r

/-- What a box holds when its task starts (R267, R293, R306): its allocation zero, then what is copied into it or, for a saved task
with `old`, was saved of it. -/
def State.fillBox (s : State) (k u : Nat) (old : Option (List (Nat × List Byte))) (x : Nat) (b : Box) : State × CopyErr :=
  let t := s.task k
  let ctx := s.schedCtx k
  let wr (r : State × Option XErr) : State × CopyErr := (r.1, r.2.map fun e => (e, 1))
  if !b.present || b.view.isSome || b.mode = .root || b.mode = .stream then (s, none)
  else match old with
  | some l =>
    if t.seq then (s, none)
    else match (l.find? fun e => e.1 = x) with
      | some e => wr (s.writeBox ctx u b b.lab b.base e.2)
      | none => (s, none)
  | none =>
    let (n, m) := b.arenaPages
    let size := if b.scope.inDev then 65536 * (n + m) else b.allocBytes
    match s.writeBox ctx u b b.lab b.base (List.replicate size 0#8) with
    | (s, some e) => (s, some (e, 1))
    | (s, none) =>
      if b.mode = .in_ || b.mode = .inout then
        match s.parentHnd k b with
        | some h => s.schedCopy ctx (s.launch t.lid).fn u u h (b.hnd x) b.lab b.lab
        | none => (s, none)
      else (s, none)

def State.fillBoxes (s : State) (k u : Nat) (old : Option (List (Nat × List Byte))) (bs : List (Nat × Box)) : State × CopyErr :=
  match bs with
  | [] => (s, none)
  | (x, b) :: r =>
    match s.fillBox k u old x b with
    | (s, some e) => (s, some e)
    | (s, none) => s.fillBoxes k u old r

/-- The copies of a task's start attempted; a continuation has its boxes already (R232). -/
def State.copyIn (s : State) (k : Nat) : State × CopyErr :=
  let t := s.task k
  if t.cont && t.saved.isNone then (s, none)
  else match s.readSave k with
    | (s, .error e) => (s, some (e, 0))
    | (s, .ok bs) =>
      let old := t.saved.map fun v => match bs with | some bs => boxesFrom bs v.boxes | none => v.boxes
      s.fillBoxes k (t.unit.getD 0) old t.boxes

/-- The box access a fault of a scheduler's copy is about (R401): the element at the address in a box of the task or in its
parent's region. -/
def State.copyAccess (s : State) (k va : Nat) : Nat × BoxDet :=
  ((s.task k).boxes.findSome? fun e =>
    match (e.2.hnd e.1).covers true va, (s.parentHnd k e.2).bind fun h => h.covers true va with
    | some r, _ => some r
    | none, some r => some (e.1, r.2)
    | none, none => none).getD (0, default)

/-- A fault of a scheduler's copy as the task takes it. -/
def State.copyFlt (s : State) (k code sub det va : Nat) (l : Label) : Flt :=
  let (slot, bd) := s.copyAccess k va
  { fltOf code sub l with det := det, slot := slot, bd := bd }

/-- A stream of the scheduler waits at a page (R320). -/
def State.schedStalled (s : State) (k : Nat) : Bool :=
  s.stalls.any fun st => (match st.agent with | .sched _ => true | _ => false) && decide (st.word = k)

/-- READY (R299, R305): a gang's members together, the gang's cores reserved from then on. -/
def State.makeReady (s : State) (k : Nat) : State :=
  let s := s.modTask k fun t => { t with ready := true }
  let ks := s.gangTasks k
  if ks.all fun j => (s.task j).st = .preparing && (s.task j).ready then
    -- waiting goes on from here (R303)
    let s := ks.foldl (fun s j => (s.gain j).modTask j fun t => { t with st := .ready, start := s.frame.toNat - t.start }) s
    match (s.task k).gang with
    | some (g, _, _) => { s with gres := s.gres.put g (.held s.frame.toNat) }
    | none => s
  else s

/-- CHILD_COPY_IN_COMPLETE (R293, R299): every input is resident; a fault of the copy ends the task (R396). -/
def execChildCopyInComplete (tid : Nat) (s : State) : Out :=
  let t := s.task tid
  match t.st, t.unit with
  | .preparing, some u =>
    if t.ready || s.schedStalled tid then noEvent s "the copies are made or wait for a page"
    else match s.copyIn tid with
      | (s, none) => .next (s.makeReady tid)
      | (_, some (.absent _, _)) | (_, some (.wait, _)) => noEvent s "a page of the copy is not present"
      | (s, some (.flt code sub det va, _)) => .next (s.failPrepared tid u (s.copyFlt tid code sub det va t.lbl))
  | _, _ => noEvent s "the task is not being prepared"

/-! ## Outward copies (R295) -/

/-- The staging area of a task's argument as a box (R230, R295). -/
def State.stageBox (s : State) (k x : Nat) (b : Box) : Option Box :=
  ((s.task k).stages.find? fun r => r.1 = x).map fun r => { b with scope := r.2.1, home := r.2.2.1, base := r.2.2.2, view := none }

/-- One argument's outward copy: EXCL into the parent's region, a merge into its staging area. -/
def State.outBox (s : State) (k u x : Nat) (b : Box) : State × CopyErr :=
  let copyTo (h : Hnd) := s.schedCopy (s.schedCtx k) (s.launch (s.task k).lid).fn u u (b.hnd x) h b.lab b.lab
  if !isWriter b.mode then (s, none)
  else if b.merge = .excl then (match s.parentHnd k b with | some h => copyTo h | none => (s, none))
  else match s.stageBox k x b with
    | some g => copyTo (g.hnd x)
    | none => (s, none)

def State.outBoxes (s : State) (k u : Nat) (bs : List (Nat × Box)) : State × CopyErr :=
  match bs with
  | [] => (s, none)
  | (x, b) :: r =>
    match s.outBox k u x b with
    | (s, some e) => (s, some e)
    | (s, none) => s.outBoxes k u r

/-- What outward copies that end in a fault leave (R296): a failed task's regions are never written. What their reads found and
translated, and what the Col recorded, stands. -/
def State.copiesUndone (s t : State) : State :=
  { s with recQ := t.recQ, policies := t.policies, tlb := t.tlb, utlb := t.utlb }

/-- OUTWARD_COPY_COMPLETE (R295, R299): the task is DONE, successful. -/
def execOutwardCopyComplete (tid : Nat) (s : State) : Out :=
  let t := s.task tid
  match t.st with
  | .returning =>
    let u := t.unit.getD 0
    if s.schedStalled tid then noEvent s "the copies wait for a page"
    else match s.outBoxes tid u t.boxes with
      | (s, none) => .next ((s.freeBoxes tid).modTask tid fun t => { t with st := .done, unit := none, how := .ok })
      | (_, some (.absent _, _)) | (_, some (.wait, _)) => noEvent s "a page of the copy is not present"
      | (t1, some (.flt code sub det va, _)) =>
        let s := s.copiesUndone t1
        .next (s.failPrepared tid u (s.copyFlt tid code sub det va t.endL))
  | _ => noEvent s "the task is not returning"

end Sys2Proof.Machine
end

