-- ==== Sys2Proof/Machine/Joins.lean ====
section
/-! DEFINITION. What the schedulers do with running tasks and at the end of groups (spec 15, R296-R308; 22, R404, R408):
joins and merges, aging, gangs, timetables, parks, forced saves and breaks. -/

namespace Sys2Proof.Machine

/-! ## Merges (R297) -/

/-- The float format of a layout that SUM, MAX and MIN take. -/
def mergeFp (l : Nat) : Option FP :=
  match l with
  | 0x08 => some .f32
  | 0x09 => some .bf16
  | 0x0A => some .f16
  | _ => none

/-- A merged element: parent element `p`, staged element `e`. -/
def mergeVal (g : Merge) (l p e : Nat) : Nat :=
  let w := layWidth l
  let fp (f : FP) (x : XVal) : Nat := (f.round .rne false 0 x).pat
  match g, mergeFp l with
  | .sum, some f => fp f (XVal.sum .rne [f.decode p, f.decode e])
  | .max, some f => fp f (XVal.fmax (f.decode p) (f.decode e))
  | .min, some f => fp f (XVal.fmin (f.decode p) (f.decode e))
  | .sum, none => (p + e) % 2 ^ w
  | .max, none => if signed w p < signed w e then e else p
  | .min, none => if signed w e < signed w p then e else p
  | _, _ => e

/-- One staged argument of a child, read from its staging area, applied to the parent's region in region order (R296, R297). The
parent's elements are read for the parent's box (R322). -/
def State.mergeBox (s : State) (k u x : Nat) (b : Box) : State × CopyErr :=
  let ctx := s.schedCtx k
  let fn := (s.launch (s.task k).lid).fn
  match s.parentHnd k b, s.stageBox k x b with
  | some h, some g =>
    let gh := g.hnd x
    let places (h : Hnd) (rd : Bool) := (List.range h.count).map fun e => h.place rd e
    match s.readPlaces ctx u g b.lab (places gh true) with
    | (s, .error e) => (s, some (e, 0))
    | (s, .ok (es, _, _)) =>
      match s.readPlaces ctx u g.scaleBox b.lab gh.scales with
      | (s, .error e) => (s, some (e, 0))
      | (s, .ok (xs, _, _)) =>
        match (if b.merge = .order then (s, .ok ([], 0#8, 0)) else s.readPlaces ctx u h.box h.box.lab (places h false)) with
        | (s, .error e) => (s, some (e, 0))
        | (s, .ok (olds, _, _)) =>
          let vals := if b.merge = .order then es else List.zipWith (mergeVal b.merge b.layout) olds es
          match s.schedPut ctx fn u b.layout h.box b.lab (List.zip (places h false) vals) with
          | (s, some e) => (s, some e)
          | (s, none) => s.schedPut ctx fn u b.layout h.box.scaleBox b.lab (List.zip h.scales xs)
  | _, _ => (s, none)

def State.mergeBoxes (s : State) (k u : Nat) (l : List (Nat × Box)) : State × CopyErr :=
  match l with
  | [] => (s, none)
  | (x, b) :: r =>
    match (if isWriter b.mode && b.merge ≠ .excl then s.mergeBox k u x b else (s, none)) with
    | (s, some e) => (s, some e)
    | (s, none) => s.mergeBoxes k u r

/-- The staged arguments of the successful children, in ascending child index. -/
def State.mergeAll (s : State) (u : Nat) (ks : List Nat) : State × CopyErr :=
  match ks with
  | [] => (s, none)
  | k :: r =>
    match (if (s.task k).how = .ok then s.mergeBoxes k u (s.task k).boxes else (s, none)) with
    | (s, some e) => (s, some e)
    | (s, none) => s.mergeAll u r

/-- CHST of a joined group (R298). -/
def chstOf (ts : List Task) : Lv 64 :=
  let ix := ts.zipIdx
  let failed := ix.filter fun e => e.1.how ≠ .ok
  let boxed := ix.filter fun e => e.1.how = .ok && e.1.boxbad
  let first : Nat := match failed with
    | e :: _ =>
      let (kind, code, det) : Nat × Nat × Nat := match e.1.how with
        | .tfail c => (1, 0, c)
        | .fault c sub => (0, c, sub)
        | .ok => (0, 0, 0)
      e.2 * 2 ^ 21 + 2 ^ 27 + kind * 2 ^ 28 + (code % 256) * 2 ^ 29 + (det % 65536) * 2 ^ 37
    | [] => 0
  let bfirst : Nat := match boxed with | e :: _ => e.2 * 2 ^ 53 + 2 ^ 59 | [] => 0
  let l := ts.foldl (fun (l : Label) t => t.boxes.foldl (fun l e => l ||| e.2.lab) l) 0#8
  ⟨BitVec.ofNat 64 (ts.length + failed.length * 2 ^ 7 + boxed.length * 2 ^ 14 + first + bfirst), l⟩

/-- A word that still counts among those of its tick (R217): an XRECV, while a segment of the tick is open. -/
def State.counts (s : State) (w : XWord) : Bool :=
  (match w.kind with | .xrecv .. => true | _ => false) && s.units.any fun e => e.2.mode = .seg && e.2.seg.tick = some w.tick

/-- Children's entries and staging freed at the join (R230, R299), with their words and gangs. -/
def State.freeChildren (s : State) (ks : List Nat) : State :=
  let s := ks.foldl State.freeStages s
  { s with
    tasks := s.tasks.filter fun e => !ks.contains e.1
    xwords := s.xwords.filter fun e => !ks.contains e.2.task || s.counts e.2
    gangs := s.gangs.filter fun e => !e.2.any ks.contains
    gres := s.gres.filter fun e => !((s.gangs.get e.1).any ks.contains) }

/-- The fault records of a function have reached the host port (R402), and those of the PF's ring, where a quarantine stands. -/
def State.recordsOut (s : State) (fn : Nat) : Bool :=
  !s.recQ.any fun r => decide (r.ring = RingId.fault fn) || decide (r.ring = RingId.fault 0)

/-- JOIN (R232, R280, R296, R403): every child is DONE and its words have completed; merges, CHST, the continuation, or
the end of a directing task that had failed. -/
def execJoin (tid : Nat) (s : State) : Out :=
  let t := s.task tid
  if t.st ≠ .joining then noEvent s "the task has no closed group"
  else if !(t.group.all fun k => (s.task k).st = .done && s.wordsDone k) || s.schedStalled tid || !s.recordsOut (s.launch t.lid).fn then
    noEvent s "a child is not done"
  else match s.mergeAll t.home t.group with
  | (_, some (.absent _, _)) | (_, some (.wait, _)) => noEvent s "a page of a merge is not present"
  | (s, some (.flt code sub det va, _)) =>
    let f := ((t.group.filterMap fun k => let a := s.copyAccess k va; if a = (0, default) then none else some a).head?.map fun a =>
      { fltOf code sub t.lbl with det := det, slot := a.1, bd := a.2 }).getD { fltOf code sub t.lbl with det := det }
    .next ((s.freeChildren t.group).failPrepared tid t.home f)
  | (s, none) =>
    let chst := chstOf (t.group.map s.task)
    let s := s.freeChildren t.group
    if t.how = .ok then
      -- the continuation may take the entry its own task leaves (R299)
      let id := ({ s with tasks := s.tasks.filter fun e => decide (e.1 ≠ tid) } : State).freeTaskid t.die s.frees
      .next ((s.gain tid).modTask tid fun t => { t with
        st := .spawned, cont := true, saved := none, group := [], closed := false, chst := chst, attempt := 0, commits := 0
        start := s.frame.toNat, taskid := id, segchk := [], segno := 0 })
    else .next ((s.freeBoxes tid).modTask tid fun t => { t with st := .done, group := [], closed := true })

/-! ## Aging (R303) -/

/-- TASK_AGING: 4 ms in SPAWNED or READY. -/
def execTaskAging (tid : Nat) (s : State) : Out :=
  let t := s.task tid
  if (t.st = .spawned || t.st = .ready) && s.elapsed t.start 4000 && t.prio < (s.launch t.lid).ceil then
    .next (s.modTask tid fun t => { t with prio := t.prio + 1, start := s.frame.toNat })
  else noEvent s "the task has not waited 4 ms below its ceiling"

/-! ## Gangs (R305) -/

/-- The gang of a task whose live members are all READY. -/
def State.readyGang (s : State) (k : Nat) : Option Nat :=
  match (s.task k).gang with
  | some (g, _, _) => if (s.gangTasks k).all fun j => (s.task j).st = .ready then some g else none
  | none => none

/-- Tasks started together on their units. -/
def State.startAll (s : State) (ks : List Nat) : State :=
  ks.foldl (fun s k => match (s.task k).unit with | some u => s.startTask u k | none => s) s

/-- Every task's unit is idle and takes it. -/
def State.allIdle (s : State) (ks : List Nat) : Bool :=
  ks.all fun k => match (s.task k).unit with | some u => s.idleUnit u && s.fitsUnit u k | none => false

/-- GANG_START: every member is READY and every core free; they start on one cycle. -/
def execGangStart (tid : Nat) (s : State) : Out :=
  match s.readyGang tid with
  | none => noEvent s "the gang is not ready"
  | some g =>
    let ks := s.gangTasks tid
    if (s.task tid).timed.isNone && s.allIdle ks then
      .next { s.startAll ks with gres := s.gres.put g .none }
    else noEvent s "a core of the gang is not free"

/-- GANG_RESERVATION_LAPSE: the reservation has lasted 1 ms; a gang-wait event names the cluster. -/
def execGangReservationLapse (tid : Nat) (s : State) : Out :=
  match s.readyGang tid with
  | none => noEvent s "the gang is not ready"
  | some g =>
    match s.gres.get g with
    | .held f =>
      if s.elapsed f 1000 then
        let l := s.launch (s.task tid).lid
        let s := s.event 1 0 l.fn l.asid (clusterOf ((s.task tid).unit.getD 0))
        .next { s with gres := s.gres.put g (.lapsed s.frame.toNat) }
      else noEvent s "the reservation has not lasted 1 ms"
    | _ => noEvent s "the gang holds no reservation"

/-- GANG_RESERVATION_RENEW: 1 ms after the lapse the cluster reserves for the gang again. -/
def execGangReservationRenew (tid : Nat) (s : State) : Out :=
  match s.readyGang tid with
  | none => noEvent s "the gang is not ready"
  | some g =>
    match s.gres.get g with
    | .lapsed f =>
      if s.elapsed f 1000 then .next { s with gres := s.gres.put g (.held s.frame.toNat) }
      else noEvent s "1 ms has not passed since the lapse"
    | _ => noEvent s "the gang's reservation has not lapsed"

/-! ## Timetables (R304) -/

/-- Core cycles of a tick period of a die (R256, R257): those of its P-state, less the pulses swallowed. -/
def State.periodCycles (s : State) (die : Nat) : Nat :=
  [5600, 4400, 3200, 2000, 1000].getD (s.dies.get die).pcur 1000 * (64 - (s.dies.get die).swal) / 64

/-- The cycles of a die's tick period that `n` of its four microseconds hold. -/
def State.cyclesIn (s : State) (die n : Nat) : Nat := s.periodCycles die * n / 4

/-- A timetabled task that has yet to start and whose moment lies in the present microsecond or is past (R304). -/
def State.startDue (s : State) (k : Nat) : Bool :=
  let t := s.task k
  (t.st = .spawned || t.st = .preparing || t.st = .ready) && t.saved.isNone &&
    (match t.timed with
      | some (c, tick, cyc) => decide (tick < s.frame.toNat) ||
          (decide (tick = s.frame.toNat) && decide (cyc < s.cyclesIn (dieOf c) (s.devtime.toNat % 4 + 1)))
      | none => false)

/-- The moment of a timetabled start is in the present microsecond. -/
def State.startNow (s : State) (k : Nat) : Bool :=
  match (s.task k).timed with
  | some (c, tick, cyc) => decide (tick = s.frame.toNat) && decide (s.cyclesIn (dieOf c) (s.devtime.toNat % 4) ≤ cyc)
  | none => false

/-- At a tick the cycles of the period that has ended are counted off the starts still to come whose tick is past (R304, R258). -/
def State.countOff (s : State) : State :=
  { s with tasks := s.tasks.map fun e => match e.2.timed with
      | some (c, tick, cyc) =>
        if tick = s.frame.toNat && (e.2.st = .spawned || e.2.st = .preparing || e.2.st = .ready)
        then (e.1, { e.2 with timed := some (c, tick + 1, cyc - s.periodCycles (dieOf c)) }) else e
      | none => e }

/-- A start that comes before another: the same tick, on an earlier cycle. -/
def Task.startsBefore (t u : Task) : Bool :=
  match t.timed, u.timed with
  | some (_, a, c), some (_, b, d) => decide (a = b) && decide (c < d)
  | _, _ => false

/-- TIMETABLED_START: at its moment the task starts, or ends with TASK_LATE, code 4 on a quarantined core (R408). Starts of one tick
come in the order of their cycles. -/
def execTimetabledStart (tid : Nat) (s : State) : Out :=
  if !s.startDue tid then noEvent s "no start of the task is due"
  else if s.tasks.any fun e => s.startDue e.1 && e.2.startsBefore (s.task tid) then noEvent s "an earlier start is due"
  else
    let ks := s.gangTasks tid
    if s.startNow tid && ks.all (fun k => (s.task k).st = .ready) && s.allIdle ks then .next (s.startAll ks)
    else
      let bad := ks.any fun k => match (s.task k).timed with | some (c, _, _) => (s.unit c).quar | none => false
      .next (s.failPrepared tid ((s.task tid).unit.getD 0) (fltOf fTaskLate (if bad then 4 else 1) (s.task tid).lbl))

/-! ## Parks (R223, R306) -/

/-- PARKLIMIT in µs (R285). -/
def Launch.limit (l : Launch) : Nat := if l.park = 0 then 100 else l.park

/-- A unit's task saved off it as a park does: the state at the WAITGE, or between two words. -/
def State.parkOff (s : State) (u k : Nat) : State :=
  let x := s.unit u
  let (w, l) : Option (Nat × Nat × Nat) × Label := match x.mode with
    | .wait slot idx target l => (some (slot, idx, target), l)
    | _ => (none, 0#8)
  let r := if s.prot u then x.snap.getD x.regs else x.regs
  (s.saveOff u .parked r x.pc).modTask k fun t => { t with wait := w, lbl := t.lbl ||| l }

/-- The members of a unit's gang are to be saved at their next commit points (R255). -/
def State.saveGang (s : State) (u : Nat) : State :=
  if (s.gangLive u).length ≤ 1 then s
  else (s.gangLive u).foldl (fun s v => s.modUnit v fun x => { x with saveNext := true }) s

/-- PARK: a wait beyond PARKLIMIT, or a member of a gang that is being saved; a timetabled task ends instead. -/
def execPark (tid : Nat) (s : State) : Out :=
  let t := s.task tid
  match t.unit with
  | none => noEvent s "the task holds no core or sequencer"
  | some u =>
    let x := s.unit u
    if x.task ≠ some tid then noEvent s "the task is not running"
    else match x.mode with
    | .wait .. =>
      if !(x.saveNext || s.elapsed x.since (s.launch t.lid).limit) then noEvent s "PARKLIMIT has not passed"
      else if t.timed.isSome then
        .next (s.raise u { x.flt lanS fTaskLate 2 x.vol.lblpc with cyc := 0xFFFFFFFF } false)
      else if !s.quiet u then noEvent s "words that write the scratchpad are under way"
      else .next ((s.saveGang u).parkOff u tid)
    | .parking => if s.quiet u then .next (s.parkOff u tid) else noEvent s "words that write the scratchpad are under way"
    | .sync =>
      -- it runs on to its next commit point while the whole gang still can (R255)
      if !x.saveNext || (s.gangTasks tid).all fun k => (s.task k).st = .running then noEvent s "the task is not being saved"
      else if s.prot u then .next ((s.cancelOne u 0 false).modUnit u fun x => { x with saving := 1 })
      else if s.quiet u then .next (s.parkOff u tid)
      else noEvent s "words that write the scratchpad are under way"
    | _ => noEvent s "the task does not wait"

/-- The condition of a parked task holds: its counter has reached the target, or it waits for none (R299). -/
def State.wakes (s : State) (k : Nat) : State × Except XErr Bool :=
  let t := s.task k
  match t.wait with
  | none => (s, .ok true)
  | some (slot, idx, target) =>
    let b := t.boxes.get slot
    let a := b.addr ⟨idx, 0, 0, 0⟩
    if b.scope = .scratch then
      match t.saved.bind fun v => v.boxes.find? fun e => e.1 = slot with
      | some e => (s, .ok (decide (leNat ((e.2.drop (a - b.base)).take 8) ≥ target)))
      | none => (s, .ok false)
    else
      match s.counterGet (s.schedCtx k) 0 b a with
      | (s, .ok v) => (s, .ok (decide (v ≥ target)))
      | (s, .error e) => (s, .error e)

/-- PARKED_WAKE (R299, R306): SPAWNED again, a gang as a whole. A fault at the counter ends the task. -/
def execParkedWake (tid : Nat) (s : State) : Out :=
  let ks := s.gangTasks tid
  if !(ks.all fun k => (s.task k).st = .parked) then noEvent s "the task is not parked"
  else if ks.any s.schedStalled then noEvent s "the look at a counter waits for its page"
  else if (s.asids.get (s.launch (s.task tid).lid).asid).off then noEvent s "the context is pre-empted"
  else
    let r := ks.foldl (fun (r : State × Bool × Option (Nat × Flt)) k =>
      match r.1.wakes k with
      | (s, .ok b) => (s, r.2.1 && b, r.2.2)
      | (s, .error (.flt c sub det _)) =>
        let (slot, idx) : Nat × Nat := match (s.task k).wait with | some (a, b, _) => (a, b) | none => (0, 0)
        (s, false, some (k, { fltOf c sub (s.task k).lbl with
          det := det, slot := slot, bd := ((s.task k).boxes.get slot).detail ⟨(idx : Int), 0, 0, 0⟩ }))
      | (s, .error _) => (s, false, r.2.2)) (s, true, none)
    match r with
    | (s, _, some (k, f)) => .next (s.failPrepared k (s.task k).home f)
    | (s, true, none) => .next (ks.foldl (fun s k => (s.gain k).modTask k fun t =>
        { t with st := .spawned, wait := none, start := s.frame.toNat }) s)
    | (_, false, none) => noEvent s "the counter is below its target"

/-! ## Pre-emption and breaks (R308, R404) -/

/-- Every unit of the list given up to a restore, with what follows it; one that stands at its commit point has nothing to
restore. -/
def State.cancelAll (s : State) (us : List Nat) (sv : Nat) : State :=
  us.foldl (fun s v =>
    let x := s.unit v
    let stay : Bool := match x.mode with | .wait .. => s.prot v | .parking => true | _ => false
    if stay then s
    else
      -- a hold ends with it (R237)
      let s := if x.mode = .held then s.setUnit v { x with mode := .code } else s
      -- one that a quarantine sends elsewhere still goes there (R408)
      let sv := if sv = 3 && (x.saving = 2 || x.saving = 4) then 4 else sv
      (s.cancelOne v x.iss.cyc false).modUnit v fun x => { x with saving := sv }) s

/-- FORCED_SAVE (R308): a task of a pre-empted context beyond its limit. -/
def execForcedSave (tid : Nat) (s : State) : Out :=
  let t := s.task tid
  let over_ := match (s.asids.get (s.launch t.lid).asid).pre with | some (f, us) => s.elapsed f us | none => false
  match t.unit with
  | none => noEvent s "the task holds no core or sequencer"
  | some u =>
    let x := s.unit u
    if x.task ≠ some tid || !over_ || (x.saveNext && x.mode ≠ .held) then noEvent s "the task is not to be saved"
    else
      let noted := s.post (.fault (s.fnOf u)) (faultRecord s u { fltOf fForcedSave 0 x.vol.lblpc with cyc := x.iss.segcyc } 0)
      match x.mode with
      | .restoring | .tending _ | .parking | .idle => noEvent s "the task is leaving its phase already"
      | _ =>
        if t.timed.isSome then .next (s.raise u { x.flt lanS fTaskLate 3 x.vol.lblpc with cyc := x.iss.segcyc } false)
        else if isSeq u then
          let noted := { noted with stalls := noted.stalls.filter fun e => decide (e.agent ≠ Agent.seq u) }
          .next (noted.parkOff u tid)
        else if s.prot u && ((s.gangLive u).length > 1 || (match x.mode with | .wait .. => true | _ => false)) then
          -- saved at the commit points; a member held after a BREAK is saved as of its last one (R237, R255)
          let t := (s.gangLive u).foldl (fun s v => s.modUnit v fun x => { x with saveNext := true }) noted
          .next (t.cancelAll ((s.gangLive u).filter fun v => (s.unit v).mode = .held) 1)
        else .next (noted.cancelAll (s.gangLive u) 1)

/-- PREEMPT_COMPLETE (R308 step 4): no task of the context holds a core or sequencer; event 2 names the context. -/
def execPreemptComplete (asid : Nat) (s : State) : Out :=
  let a := s.asids.get asid
  let held := s.tasks.any fun e => decide ((s.launch e.2.lid).asid = asid) &&
    (e.2.st = .running || e.2.st = .preparing || e.2.st = .ready || e.2.st = .returning)
  if a.pre.isNone || held then noEvent s "no pre-emption is about to complete"
  else .next ({ s with asids := s.asids.put asid { a with pre := none } }.event 2 0 a.fn asid asid)

/-- BREAK_RESUME (R404): a task held by BKPT goes on: on a core from its last commit point or whole, uncounted, and with it the
members of its gang that are not held themselves; on a sequencer at the next word. -/
def execBreakResume (tid : Nat) (s : State) : Out :=
  match (s.task tid).unit with
  | none => noEvent s "the task holds no core or sequencer"
  | some u =>
    if (s.unit u).mode ≠ .held then noEvent s "the task is not held"
    else if isSeq u then .next (s.modUnit u fun x => { x with mode := .code })
    else .next (s.cancelAll ((s.gangLive u).filter fun v => decide (v = u) || (s.unit v).mode ≠ .held) 3)

end Sys2Proof.Machine
end

