-- ==== Sys2Proof/Machine/Launch.lean ====
section
/-! DEFINITION. Launch records and chains (spec 15, R285-R291, R304, R309-R311; 19, R352, R366): reading and checking a
record, starting a chain entry, completing a launch, MSI-X. -/

namespace Sys2Proof.Machine

/-! ## Fields of a record -/

/-- `n` little-endian bytes at an offset. -/
def fld (bs : List Byte) (off n : Nat) : Nat := leNat ((bs.drop off).take n)

/-- A part of a record: inside it and on an 8-byte boundary (R285, R290). -/
def partOk (bs : List Byte) (off n : Nat) : Bool := decide (off % 8 = 0) && decide (off + n ≤ bs.length)

/-- Every byte named is zero. -/
def zeroAt (bs : List Byte) (off n : Nat) : Bool := ((bs.drop off).take n).all fun b => b = 0#8

/-- Four 32-bit fields. -/
def quadAt (bs : List Byte) (off : Nat) : Quad Nat := Quad.ofFn fun i => fld bs (off + 4 * i) 4

/-- Extents in their range: 1 to 2^30 - 1 below the rank, 1 from there (R287, R289). -/
def extOk (rank : Nat) (e : Quad Nat) : Bool :=
  (List.range 4).all fun i => if i < rank then decide (1 ≤ e.get i) && decide (e.get i < 2 ^ 30) else decide (e.get i = 1)

/-- CAP of a layout (R263, R277). -/
def capOk (l cap : Nat) : Bool :=
  if layZmask l then decide (cap = 128) || decide (cap = 256) || decide (cap = 512) || (decide (cap = 64) && decide (l = 0x20))
  else decide (cap = 0)

/-! ## Tables (R286-R289, R304) -/

/-- The level table's entry `i`; none when a field is outside its range. -/
def levelAt (bs : List Byte) (off i : Nat) : Option LevelE :=
  let o := off + 16 * i
  let dom := fld bs o 1
  let sc := fld bs (o + 1) 1
  let fl := fld bs (o + 2) 1
  let tt := fld bs (o + 4) 4
  let n := fld bs (o + 8) 4
  let row (j : Nat) : Nat × Nat × Nat × Nat × Nat :=
    let p := tt + 16 * j
    (fld bs p 2, fld bs (p + 2) 2, fld bs (p + 4) 1, fld bs (p + 6) 2, fld bs (p + 8) 4)
  if dom > 4 || sc > 3 || fl > 1 || !zeroAt bs (o + 3) 1 || !zeroAt bs (o + 12) 4 then none
  else if fl = 0 then (if tt = 0 then some ⟨dom, sc, false, []⟩ else none)
  else if !partOk bs tt (16 * n) then none
  else if (List.range n).all fun j =>
      let p := tt + 16 * j
      let r := row j
      decide (r.2.1 ≤ 63) && decide (r.2.2.1 ≤ 47) && decide (1 ≤ r.2.2.2.1) && decide (r.2.2.2.1 ≤ 4095)
        && zeroAt bs (p + 5) 1 && zeroAt bs (p + 12) 4
    then some ⟨dom, sc, true, (List.range n).map row⟩
  else none

/-- No two entries of a timetable share TASK and ORD, and each names a task of the level (R304). -/
def tableOk (l : LevelE) (lvl : Nat) (ts : List TaskE) : Bool :=
  l.table.zipIdx.all fun a =>
    (match ts[a.1.1]? with | some t => decide (t.level = lvl) | none => false) &&
    l.table.zipIdx.all fun b => decide (a.2 = b.2) || decide (a.1.1 ≠ b.1.1) || decide (a.1.2.1 ≠ b.1.2.1)

/-- Scopes a domain permits (R291), in the codes of R261. -/
def scopesOf (dom : Nat) : List Nat :=
  match dom with
  | 0 | 1 => [3]
  | 2 => [3, 2]
  | 3 => [3, 2, 1]
  | _ => [0]

/-- The level rules of R291. -/
def levelsOk (ls : List LevelE) : Bool :=
  ls.zipIdx.all fun e =>
    let last := decide (e.2 + 1 = ls.length)
    (scopesOf e.1.domain).contains e.1.scope && decide ((e.1.domain = 4) = last) &&
    (match ls[e.2 + 1]? with
      | some n => decide (e.1.domain ≤ n.domain) && decide (n.scope ≤ e.1.scope)
      | none => true)

/-- The root table's entry `i` (R287); none when a field is outside its range. A BASE or a ZMASK extent that breaks the placement
rules of R264 is taken as written (DESIGN CHOICE, log 105). -/
def rootAt (bs : List Byte) (off i : Nat) : Option RootE :=
  let o := off + 32 * i
  let lay := fld bs (o + 8) 1
  let rank := fld bs (o + 9) 1
  let sc := fld bs (o + 11) 1
  let die := fld bs (o + 12) 1
  let pk := fld bs (o + 13) 1
  let cap := fld bs (o + 14) 2
  let ext := quadAt bs (o + 16)
  if fld bs o 8 ≥ 2 ^ 52 || !layKnown lay || rank = 0 || rank > 4 || sc < 2 || sc > 3 || die > 7 || (sc = 3 && die ≠ 0)
    || pk ≥ 16 || pk / 4 = 3 || cap ≠ (if layZmask lay then 256 else 0) || !extOk rank ext then none
  else some ⟨fld bs o 8, lay, rank, BitVec.ofNat 8 (fld bs (o + 10) 1), sc, die, pk % 4, pk / 4, cap, ext⟩

def declAt (bs : List Byte) (off : Nat) (entry : Bool) : Option DeclE :=
  let lay := fld bs (off + 1) 1
  let rank := fld bs (off + 2) 1
  let mode := fld bs (off + 3) 1
  let cap := fld bs (off + 6) 2
  let d := quadAt bs (off + 16)
  if fld bs off 1 = 0 then (if zeroAt bs (off + 8) 8 then some default else none)
  else if fld bs off 1 ≠ 1 || !layKnown lay || rank = 0 || rank > 4 || (if entry then mode ≠ 5 else mode > 4)
    || fld bs (off + 4) 1 > 4 || fld bs (off + 5) 1 > 1 || !capOk lay cap || !zeroAt bs (off + 8) 8 || !extOk rank d
    || (layZmask lay && d.x0 % layGroup lay ≠ 0) then none
  else some ⟨true, lay, rank, mode, fld bs (off + 4) 1, decide (fld bs (off + 5) 1 = 1), cap, d⟩

/-- Options all present. -/
def allSome {α : Type} (l : List (Option α)) : Option (List α) :=
  l.foldr (fun o r => match o, r with | some a, some t => some (a :: t) | _, _ => none) (some [])

/-- The boxes a working task allocates fit the scratchpad (R267). -/
def fitsScratch (prot : Bool) (ds : List DeclE) : Bool :=
  let size (d : DeclE) : Nat :=
    let b : Box := { (default : Box) with layout := d.layout, cap := d.cap, decl := d.decl, ext := d.decl, staged := d.staged }
    if d.present && d.mode ≠ 3 && d.mode ≠ 5 then upTo (boxSpace prot b) 512 else 0
  decide (ds.foldl (fun n d => n + size d) 0 ≤ 393216)

def taskAt (bs : List Byte) (off i entry nlevel : Nat) : Option TaskE :=
  let o := off + 32 * i
  let lvl := fld bs o 1
  let acc := fld bs (o + 1) 1
  let fl := fld bs (o + 2) 1
  let code := fld bs (o + 4) 4
  let n := fld bs (o + 8) 4
  let con := fld bs (o + 12) 4
  let box := fld bs (o + 16) 4
  let last := decide (lvl + 1 = nlevel)
  let word (p : Nat) : Word := BitVec.ofNat 64 (fld bs p 8)
  if lvl ≥ nlevel || acc > (if fl.testBit 0 then 8 else 16) || (!last && acc ≠ 0) || fl > 3 || !zeroAt bs (o + 3) 1 || !zeroAt bs (o + 20) 12
    || (last && n > 8192) || !partOk bs code (8 * n) || !(con = 0 || partOk bs con 256) || !partOk bs box 512
    || (i = entry && lvl ≠ 0) then none
  else match allSome ((List.range 16).map fun x => declAt bs (box + 32 * x) (i = entry)) with
  | none => none
  | some ds =>
    if last && !fitsScratch (fl.testBit 0) ds then none
    else some ⟨lvl, acc, fl.testBit 0, fl.testBit 1, (List.range n).map fun j => word (code + 8 * j),
      if con = 0 then [] else (List.range 32).map fun j => word (con + 8 * j), ds⟩

/-- The GSPAWNs of code: the task a literal names, none for a computed index, and the members. -/
def gspawnsIn (code : List Word) (fuel : Nat) : List (Option Nat × Nat) :=
  match fuel with
  | 0 => []
  | fuel + 1 =>
    match decode (code.take 4) with
    | .error _ => if code.isEmpty then [] else gspawnsIn (code.drop 1) fuel
    | .ok (i, n) =>
      (match i with
        | .gspawn _ t n1 _ => [((match t with | .op _ => none | .imm x => some x.toNat | .long x => some x.toNat), n1.toNat + 1)]
        | _ => []) ++ gspawnsIn (code.drop n) fuel

/-- The tasks that SPAWNs of code may name: those of its literals, and whether an index is computed. -/
def spawnsIn (code : List Word) (fuel : Nat) : List (Option Nat) :=
  match fuel with
  | 0 => []
  | fuel + 1 =>
    match decode (code.take 4) with
    | .error _ => if code.isEmpty then [] else spawnsIn (code.drop 1) fuel
    | .ok (i, n) =>
      (match i with
        | .spawn _ t _ => [match t with | .op _ => none | .imm x => some x.toNat | .long x => some x.toNat]
        | _ => []) ++ spawnsIn (code.drop n) fuel

/-- The timetable of level `lvl` places the members of GSPAWNs (R304) as far as the record shows which rows are theirs: every row of a
task that a literal GSPAWN names and no SPAWN can; the others are judged at their GSPAWN (log 40). -/
def gangsOk (lv : LevelE) (lvl : Nat) (ts : List TaskE) : Bool :=
  let above := ts.filter fun t => decide (t.level + 1 = lvl)
  let gs := above.flatMap fun t => gspawnsIn t.code t.code.length
  let ss := above.flatMap fun t => spawnsIn t.code t.code.length
  !lv.timed || gs.all fun g => match g.1 with
    | none => true
    | some x => ss.contains none || ss.contains (some x)
        || gangsPlaced lv x ((gs.filter fun h => h.1 = some x || h.1.isNone).map (·.2))

/-- A record as checked at its installation (R285-R291, R304): none when it is refused (R290). `map` and `slots` are the
address space's (R352). -/
def launchOfBytes (bs : List Byte) (map : List Nat) (slots : BitVec 8) : Option Launch :=
  let nl := fld bs 6 1
  let nr := fld bs 7 1
  let nt := fld bs 8 2
  let entry := fld bs 10 2
  let sv := fld bs 12 1
  let lo := fld bs 0x2C 4
  let ro := fld bs 0x30 4
  let to_ := fld bs 0x34 4
  let ten (i : Nat) : Nat := fld bs (0x10 + i) 1
  let bind := (List.range 16).map fun x => fld bs (0x18 + x) 1
  if fld bs 0 4 ≠ 0x314D554C || fld bs 4 2 ≠ 1 || nl = 0 || nl > 8 || nr = 0 || nr > 16 || nt = 0 || nt > 1024
    || entry ≥ nt || !zeroAt bs 14 2 || !zeroAt bs 0x3C 4 || fld bs 0x28 4 > 1000000 || fld bs 0x38 4 ≠ bs.length
    || !partOk bs lo (16 * nl) || !partOk bs ro (32 * nr) || !partOk bs to_ (32 * nt) then none
  else if !((List.range 8).all fun i => if sv.testBit i then
      slots.getLsbD i && decide (map.getD i 0 = ten i) else decide (ten i = 0) && !slots.getLsbD i) then none
  else if !(bind.all fun b => b = 0xFF || decide (b < nr)) then none
  else match allSome ((List.range nl).map (levelAt bs lo)), allSome ((List.range nr).map (rootAt bs ro)),
      allSome ((List.range nt).map fun i => taskAt bs to_ i entry nl) with
  | some ls, some rs, some ts =>
    let e := ts.getD entry default
    let bound := (List.range 16).all fun x =>
      let d := e.decls.getD x default
      !d.present || (match rs[bind.getD x 0xFF]? with
        | some r => decide (r.layout = d.layout) && decide (r.rank = d.rank)
        | none => false)
    if !levelsOk ls || !bound || !(ls.zipIdx.all fun l => tableOk l.1 l.2 ts)
      || (ls.any (·.timed) && !(ls.zipIdx.all fun l => gangsOk l.1 l.2 ts)) then none
    else some { (default : Launch) with
      live := true, park := fld bs 0x28 4, codeL := BitVec.ofNat 8 (fld bs 13 1), levels := ls, tasks := ts, roots := rs
      bind := bind, first := entry }
  | _, _, _ => none

/-! ## Interrupts (R375) -/

/-- A vector of a function is masked: its table entry says so. -/
def Fn.masked (f : Fn) (v : Nat) : Bool := f.flr || (f.msix.get (2 * v + 1)).getLsbD 32

/-- A vector fires, or its pending bit is set. -/
def State.msi (s : State) (fn v : Nat) : State :=
  if (s.fns.get fn).masked v then { s with fns := s.fns.upd fn fun f => { f with pba := f.pba ||| (1#16 <<< v) } }
  else { s with irqs := s.irqs ++ [(fn, v)] }

/-! ## Chains (R309-R311) -/

/-- A function may work: the PF, or an enabled VF, and no reset of it is under way (R371, R386). -/
def State.fnLive (s : State) (fn : Nat) : Bool :=
  !(s.fns.get fn).flr && (fn = 0 || (s.vfPort fn).isSome)

def State.chain (s : State) (fn ch : Nat) : Chain := (s.fns.get fn).chains.get ch

def State.setChain (s : State) (fn ch : Nat) (c : Chain) : State :=
  { s with fns := s.fns.upd fn fun f => { f with chains := f.chains.put ch c } }

/-- A chain-error event (R309, R373). -/
def State.chainError (s : State) (fn ch : Nat) : State := s.event 3 0 fn 0 ch

/-- A function's page is not answered (R386). -/
def State.doorShut (s : State) (fn : Nat) : Bool := !s.pwr.ready || !s.fnLive fn

/-- A write to a function's doorbell page comes by a port on which it is frozen (R406), so that it is ignored. A VF has one port; the
PF answers on both, and by which a write came, where one is frozen, is a free value (DESIGN CHOICE, log 107). -/
def State.doorFrozen (s : State) (fn : Nat) : State × Bool :=
  match (if fn = 0 then none else s.vfPort fn) with
  | some p => (s, s.frozen.contains (.fn fn p))
  | none =>
    let a := s.frozen.contains (.fn fn 0)
    let b := s.frozen.contains (.fn fn 1)
    if a = b then (s, a) else ({ s with frees := s.frees + 1 }, Config.freeBit s.frees)

/-- CHAIN_TAIL_WRITE (R309): a TAIL that falls, that passes the ring or that comes with EN clear is ignored and reported. -/
def execChainTailWrite (fn ch : Nat) (v : BitVec 64) (s : State) : Out :=
  let c := s.chain fn ch
  if ch > 3 then noEvent s "a function has four chains"
  else
  let (s, frozen) := s.doorFrozen fn
  if s.doorShut fn || frozen then .next s
  else if !c.en || v < c.tail || v.toNat > c.head.toNat + 2 ^ c.log2n then .next (s.chainError fn ch)
  else .next (s.setChain fn ch { c with tail := v })

/-- CHAIN_RESET (R309): with EN clear, TAIL, HEAD and CSEQ become 0. -/
def execChainReset (fn ch : Nat) (s : State) : Out :=
  let c := s.chain fn ch
  if ch > 3 then noEvent s "a function has four chains"
  else
  let (s, frozen) := s.doorFrozen fn
  if s.doorShut fn || frozen then .next s
  else if c.en then .next s
  else .next (s.setChain fn ch { c with tail := 0#64, head := 0#64, cseq := 0#64, fin := [] })

/-- CSEQ after the entry numbered `q` has completed: the largest s with 1 to s complete (R311). -/
def raiseSeq (fin : List Nat) (c fuel : Nat) : Nat × List Nat :=
  match fuel with
  | 0 => (c, fin)
  | fuel + 1 => if fin.contains (c + 1) then raiseSeq (fin.filter (· ≠ c + 1)) (c + 1) fuel else (c, fin)

/-- An entry has completed (R311 steps 2 and 3). -/
def State.chainDone (s : State) (fn ch q : Nat) (irq : Bool) : State :=
  let c := s.chain fn ch
  let (n, fin) := raiseSeq (q :: c.fin) c.cseq.toNat (c.fin.length + 1)
  let rose := decide (n > c.cseq.toNat)
  let s := s.setChain fn ch { c with cseq := BitVec.ofNat 64 n, fin := fin }
  if irq && rose then s.msi fn ch else s

/-- Accesses of a command processor of Steppe (R321): what it reads is control (R393). -/
def cpCtx (asid : Nat) : Ctx := ⟨.cp 8, 8, asid, 0xFFFFFFFF, 0, false, none, true⟩

/-- A command processor waits at a page of an address space. -/
def State.cpStalled (s : State) (asid : Nat) : Bool :=
  s.stalls.any fun st => (match st.agent with | .cp _ => true | _ => false) && decide (st.asid = asid)

/-- The DETAIL a status record gets (R366): decided by the Col as a host write of the chain's function; a refusal is
recorded and zero is written. On a device page the label has to be within the page's. -/
def State.detailOf (s : State) (fn asid st det : Nat) (l : Label) : State × Nat :=
  match s.pageOf 8 asid (st + 10) with
  | none => (s, 0)
  | some (p, page) =>
    if p.tgt = 0 then (s, if Label.sub l p.lab then det else 0)
    else
      let a := p.addr + (st + 10 - page)
      let t : Txn := { (default : Txn) with
        kind := if p.tgt = 1 then 0 else 2, port := p.port, fn := fn, asid := asid, lab := l, layout := 0, addr := a, size := 2
        act := .wr [⟨a, leBytes 2 det, []⟩] }
      match s.decideNow t with
      | (s, none) => (s, det)
      | (s, some _) => (s, 0)

/-- The status record written (R311 step 1); none while its page is not present. -/
def State.writeStatus (s : State) (fn asid st user result fcode det : Nat) (l : Label) : Option State :=
  if st = 0 then some s
  else
    let (s, d) := s.detailOf fn asid st det l
    let bs := leBytes 8 user ++ leBytes 1 result ++ leBytes 1 fcode ++ leBytes 2 d ++ leBytes 4 0
    match s.writeVa (cpCtx asid) .wr 0#8 2 st bs with
    | (_, some (.absent _)) | (_, some .wait) => none
    | (s, _) => some s

/-- A chain entry as read (R310). -/
structure ChainE where
  record : Nat
  op     : Nat
  prio   : Nat
  ceil   : Nat
  irq    : Bool
  serial : Bool
  asid   : Nat
  dies   : BitVec 8
  tgroup : Nat
  status : Nat
  user   : Nat
  rsv    : Bool
  deriving DecidableEq, Repr, Inhabited

def chainEntryOf (bs : List Byte) : ChainE :=
  { record := fld bs 0 8, op := fld bs 8 1, prio := fld bs 9 1, ceil := fld bs 10 1
    irq := (fld bs 11 1).testBit 0, serial := (fld bs 11 1).testBit 1
    asid := fld bs 12 2, dies := BitVec.ofNat 8 (fld bs 14 1), tgroup := fld bs 15 1
    status := fld bs 16 8, user := fld bs 24 8
    rsv := decide (fld bs 11 1 < 4) && zeroAt bs 32 32 && decide (fld bs 0 8 < 2 ^ 52) && decide (fld bs 16 8 < 2 ^ 52) }

/-- The address space is granted to the function (R311, R313). -/
def State.granted (s : State) (asid fn : Nat) : Bool :=
  decide (asid < 1024) && (s.asids.get asid).live && decide ((s.asids.get asid).fn = fn)

/-- An entry's fields allow its launch (R310, R311, R410). -/
def State.entryOk (s : State) (fn : Nat) (e : ChainE) : Bool :=
  e.rsv && decide (e.op = 1) && decide (e.prio ≤ 7) && decide (e.prio ≤ e.ceil) && decide (e.ceil ≤ 7)
  && s.granted e.asid fn && decide (e.record % 64 = 0) && e.dies ≠ 0#8
  && (List.range 8).all fun d => !e.dies.getLsbD d || (s.dieLive d && !(s.cps.get d).dead)

/-- The timetables of a launch are allowed by its timing group (R304) and by the enabled features (R423). -/
def State.timedOk (s : State) (e : ChainE) (l : Launch) : Bool :=
  !(l.levels.any (·.timed)) || (s.feature 9 && decide (e.tgroup < 8) && s.tgroups.get e.tgroup ≠ 0#8
    && Label.sub e.dies (s.tgroups.get e.tgroup))

/-- The boxes of an entry task (R261, R285): the roots bound to its slots. -/
def entryBoxes (l : Launch) (key : Nat) : Tab Box :=
  let e := l.tasks.getD l.first default
  (List.range 16).foldl (fun (m : Tab Box) x =>
    let d := e.decls.getD x default
    match d.present, l.roots[l.bind.getD x 0xFF]? with
    | true, some r => m.put x
      { present := true, layout := r.layout, rank := r.rank, mode := .root, merge := .excl, lab := r.lab, staged := false
        scope := scopeCode r.scope, cap := r.cap, ext := r.ext, decl := r.ext, base := r.base, home := r.die, owner := key
        root := some (l.bind.getD x 0), local_ := (0, 0), path := [], view := none }
    | _, _ => m) []

/-- A launch put under way with its entry task (R299, R311). -/
def State.startLaunch (s : State) (fn ch q : Nat) (e : ChainE) (l : Launch) : State :=
  let k := s.spawns
  let l := { l with
    fn := fn, chain := ch, entry := q, asid := e.asid, dies := e.dies, tgroup := e.tgroup, prio := e.prio, ceil := e.ceil
    irq := e.irq, status := e.status, user := e.user, top := k }
  let die := s.arbiterDie l
  let te := l.tasks.getD l.first default
  let t : Task := { (default : Task) with
    st := .spawned, lid := s.lnext, die := die, taskid := s.freeTaskid die k, index := l.first, level := 0
    seq := decide ((l.levelOf te.level).domain ≠ 4), boxes := entryBoxes l k, prio := e.prio, start := s.frame.toNat }
  { s with launches := s.launches.put s.lnext l, lnext := s.lnext + 1, tasks := s.tasks.put k t, spawns := k + 1 : State }.gain k

/-- A command processor's read has failed: a stream that does not decode posts its event (R346). -/
def State.cpFailed (s : State) (fn asid va : Nat) (e : XErr) : State :=
  match e with
  | .flt code _ _ _ => if code = fTxstream then s.event 4 0 fn asid va else s
  | .absent _ | .wait => s

/-- CHAIN_ENTRY_START (R309-R311): the entry at HEAD is read and starts, or completes at once. The ring's address space
is the window space of the chain's function (PRESUMED, log 32). -/
def execChainEntryStart (fn ch : Nat) (s0 : State) : Out :=
  let c := s0.chain fn ch
  let f := s0.fns.get fn
  if s0.doorShut fn || !c.en || c.head ≥ c.tail || !f.winSet || s0.cpStalled f.winAs then
    noEvent s0 "the chain has no entry to read"
  else if (s0.cps.get 8).frozen || (s0.cps.get 8).dead then noEvent s0 "dispatch is frozen"
  else
    let q := c.head.toNat + 1
    let va := c.base + 64 * (c.head.toNat % 2 ^ c.log2n)
    match s0.readVa (cpCtx f.winAs) .rd false 2 va 64 with
    | (_, .error (.absent _)) | (_, .error .wait) => noEvent s0 "the ring's page is not present"
    | (s, .error x) =>
      .next (((s.cpFailed fn f.winAs va x).setChain fn ch { c with head := c.head + 1 }).chainDone fn ch q false)
    | (s, .ok r) =>
      let e := chainEntryOf r.data
      let read (s : State) : State := s.setChain fn ch { c with head := c.head + 1 }
      let refuse (s : State) : Out :=
        if s.granted e.asid fn && decide (e.status < 2 ^ 52) then
          match (read s).writeStatus fn e.asid e.status e.user 3 0 0 0#8 with
          | some s => .next (s.chainDone fn ch q e.irq)
          | none => noEvent s0 "the status record's page is not present"
        else .next ((read s).chainDone fn ch q e.irq)
      if e.serial && decide (c.cseq ≠ c.head) then noEvent s0 "an earlier entry has not completed"
      else if e.op = 0 then .next ((read s).chainDone fn ch q e.irq)
      else if !s.entryOk fn e then refuse s
      else if s.cpStalled e.asid then noEvent s0 "the record's page is not present"
      else
        match s.readVa (cpCtx e.asid) .rd false 3 e.record 64 with
        | (_, .error (.absent _)) | (_, .error .wait) => noEvent s0 "the record's page is not present"
        | (s, .error x) => refuse (s.cpFailed fn e.asid e.record x)
        | (s, .ok h) =>
          let n := fld h.data 0x38 4
          match s.readVa (cpCtx e.asid) .rd false (pagesOf n) e.record n with
          | (_, .error (.absent _)) | (_, .error .wait) => noEvent s0 "the record's page is not present"
          | (s, .error x) => refuse (s.cpFailed fn e.asid e.record x)
          | (s, .ok b) =>
            let a := s.asids.get e.asid
            match (if n < 64 then none else launchOfBytes b.data a.map a.slots) with
            | none => refuse s
            | some l =>
              if !s.timedOk e l then refuse s
              else if s.freeEntries (s.arbiterDie { l with dies := e.dies }) < (if (l.levelOf 0).domain = 4 then 1 else 513) then
                noEvent s0 "the task table has no free entry"
              else .next ((read s).startLaunch fn ch q e l)

/-- The whole launch is DONE and its writes into root boxes have completed (R311). -/
def State.launchDone (s : State) (lid : Nat) : Bool :=
  let l := s.launch lid
  l.live && (s.task l.top).st = .done && s.wordsDone l.top

/-- LAUNCH_COMPLETE (R311): the status record, CSEQ, the vector. -/
def execLaunchComplete (lid : Nat) (s : State) : Out :=
  let l := s.launch lid
  if !s.launchDone lid || s.cpStalled l.asid || !s.recordsOut l.fn then noEvent s "the launch has not ended"
  else
    let t := s.task l.top
    let (result, fcode, det) : Nat × Nat × Nat := match t.how with
      | .ok => (0, 0, 0)
      | .tfail c => (1, 0, c % 65536)
      | .fault c sub => (2, c % 256, sub % 65536)
    match s.writeStatus l.fn l.asid l.status l.user result fcode det (if t.how = .ok then 0#8 else t.endL) with
    | none => noEvent s "the status record's page is not present"
    | some s =>
      let s := s.freeChildren [l.top]
      .next ({ s with launches := s.launches.put lid default }.chainDone l.fn l.chain l.entry l.irq)

end Sys2Proof.Machine
end

