-- ==== Sys2Proof/Machine/Pages.lean ====
section
/-! DEFINITION. Pages that are not present (spec 17, R319-R321): who waits for one, the fault queue's record, REPLAY and
ABORT; and reads of a transduced page as the FST lane makes them (18, R345). -/

namespace Sys2Proof.Machine

/-! ## Who waits -/

/-- The first address of a range whose page is not present for a reader (R320). -/
def State.absentIn (s : State) (ctx : Ctx) (va n : Nat) : Option Nat :=
  ((List.range (n / 65536 + 2)).filter fun i => decide ((va / 65536 + i) * 65536 < va + n)).findSome? fun i =>
    match s.lookup ctx (max va ((va / 65536 + i) * 65536)) with
    | .absent a => some a
    | _ => none

/-- An access that waits for the page of an address, as a stall to come. -/
def stallOf (ctx : Ctx) (va acc word : Nat) : Stall :=
  ⟨ctx.die, ctx.asid, va / 65536, va, acc, ctx.agent, ctx.taskid, 0, word, false, true⟩

/-- C words that meet a page not present, and additions of completed words (R200, R201). -/
def State.wordWaits (s : State) : List Stall :=
  s.xwords.filterMap fun e =>
    let w := e.2
    if w.done then
      match w.cstat, w.cnt with
      | .released, some (h, idx, _) =>
        if h.box.scope.inDev then
          (s.absentIn (s.wctx e.1 w) (h.box.addr ⟨idx, 0, 0, 0⟩) 8).map fun va => stallOf (s.wctx e.1 w) va 1 e.1
        else none
      | _, _ => none
    else match s.tryWord e.1 with
      | (_, .absent va acc) => some (stallOf (s.moveCtx e.1 w) va acc e.1)
      | _ => none

/-- Waits at a counter whose page is not present (R223). -/
def State.counterWaits (s : State) : List Stall :=
  s.units.filterMap fun e =>
    match e.2.mode with
    | .wait slot idx _ _ =>
      match waitBox s e.1 slot idx with
      | some (b, a) =>
        let ctx := s.ctxOf e.1
        if b.scope.inDev then (s.absentIn ctx a 8).map fun va =>
          stallOf { ctx with agent := if isSeq e.1 then .seq e.1 else .lane e.1 } va 0 0
        else none
      | none => none
    | _ => none

/-- What a scheduler's copy, merge or look at a counter waits for (R292). -/
def State.schedWaits (s : State) : List Stall :=
  s.tasks.filterMap fun e =>
    let k := e.1
    let r : CopyErr := match e.2.st with
      | .preparing => if e.2.ready then none else (s.copyIn k).2
      | .returning => (s.outBoxes k (e.2.unit.getD 0) e.2.boxes).2
      | .joining => if e.2.group.all fun j => (s.task j).st = .done && s.wordsDone j then (s.mergeAll e.2.home e.2.group).2 else none
      | .parked => match (s.wakes k).2 with | .error x => some (x, 0) | _ => none
      | _ => none
    match r with
    | some (.absent va, acc) => some (stallOf (s.schedCtx k) va acc k)
    | _ => none

/-- Accesses of Steppe's command processor: a chain's entry, its record, status records; space, address, bytes, ACC (R321). -/
def State.cpNeeds (s : State) (fn ch : Nat) : List (Nat × Nat × Nat × Nat) :=
  let c := s.chain fn ch
  let f := s.fns.get fn
  if s.doorShut fn || !c.en || c.head ≥ c.tail || !f.winSet then []
  else
    let va := c.base + 64 * (c.head.toNat % 2 ^ c.log2n)
    (f.winAs, va, 64, 0) :: match s.readVa (cpCtx f.winAs) .rd false 2 va 64 with
      | (_, .ok r) =>
        let e := chainEntryOf r.data
        if !s.granted e.asid fn then []
        else
          (if e.op = 1 then (e.asid, e.record, 64, 0) :: (match s.readVa (cpCtx e.asid) .rd false 2 e.record 64 with
            | (_, .ok h) => [(e.asid, e.record, fld h.data 0x38 4, 0)]
            | _ => []) else [])
          ++ (if e.status = 0 then [] else [(e.asid, e.status, 16, 1)])
      | _ => []

def State.chains (s : State) : List (Nat × Nat) := s.fns.flatMap fun f => (List.range 4).map fun ch => (f.1, ch)

def State.launchNeeds (s : State) : List (Nat × Nat × Nat × Nat) :=
  s.launches.filterMap fun e => if s.launchDone e.1 && e.2.status ≠ 0 then some (e.2.asid, e.2.status, 16, 1) else none

/-- What a command processor's access waits for. -/
def State.cpAbsent (s : State) (a : Nat × Nat × Nat × Nat) : Option Nat := s.absentIn (cpCtx a.1) a.2.1 a.2.2.1

def State.cpWaits (s : State) : List Stall :=
  ((s.chains.flatMap fun c => s.cpNeeds c.1 c.2) ++ s.launchNeeds).filterMap fun a =>
    (s.cpAbsent a).map fun va => stallOf (cpCtx a.1) va a.2.2.2 0

/-- Every access that waits for a page, stalled already or not. -/
def State.waits (s : State) : List Stall := s.stalls ++ s.wordWaits ++ s.counterWaits ++ s.schedWaits ++ s.cpWaits

/-! ## The fault queue (R320, R321) -/

/-- AGENT and UNIT of a fault-queue record. -/
def fqAgent (a : Agent) : Nat × Nat :=
  match a with
  | .clane u | .lane u => (0, u)
  | .fst n => (1, n)
  | .seq u => (2, u - 384)
  | .cp _ => (3, 0)
  | _ => (4, 0)

/-- A fault-queue record (R321): it names the access that met the page first (log 33). -/
def fqRecord (st : Stall) : List Byte :=
  let (ag, un) := fqAgent st.agent
  leBytes 8 (st.va % 2 ^ 52) ++ leBytes 4 (st.asid + 1024 * st.acc + 4096 * ag + 2 ^ 16 * (st.die % 8) + 2 ^ 19 * un)
  ++ leBytes 4 st.task ++ leBytes 8 (st.tag % 65536) ++ leBytes 8 0

/-- PAGE_FAULT_RECORD (R320 steps 1, 2): the accesses that wait for a page stall, and one record is posted for it while
none is outstanding. -/
def execPageFaultRecord (die asid page : Nat) (s : State) : Out :=
  let here (st : Stall) : Bool := decide (st.die = die) && decide (st.asid = asid) && decide (st.page = page)
  let same (a b : Stall) : Bool := decide (a.agent = b.agent) && decide (a.word = b.word)
  let old := s.stalls.filter here
  let fresh := ((s.wordWaits ++ s.counterWaits ++ s.schedWaits ++ s.cpWaits).filter here).filter fun st => !old.any (same st)
  match old.find? (·.posted) with
  | some o =>
    if fresh.isEmpty && old.all (·.posted) then noEvent s "no further access waits for the page"
    else
      let joined (st : Stall) : Stall := { st with posted := true, tag := o.tag, walked := o.walked }
      .next { s with stalls := (s.stalls.map fun st => if here st then joined st else st) ++ fresh.map joined }
  | none =>
    match old ++ fresh with
    | [] => noEvent s "no access waits for the page"
    | st :: _ =>
      let tag := s.tagNext % 65536
      let mark (x : Stall) : Stall := { x with posted := true, tag := tag, walked := true }
      let s := { s with
        stalls := (s.stalls.map fun x => if here x then mark x else x) ++ fresh.map mark
        tagNext := s.tagNext + 1 }
      .next (s.post .fq (fqRecord { st with tag := tag }))

/-- Stalls of a die under a tag; Steppe's command processors answer under die 0 (R321, log 33). -/
def Stall.tagged (st : Stall) (die : Nat) (tag : BitVec 16) : Bool :=
  st.posted && decide (st.die % 8 = die) && decide (st.tag % 65536 = tag.toNat)

/-- A TXRUN whose write met the page goes back to its restart point (R350). -/
def State.rewound (s : State) (ws : List Stall) : State :=
  ws.foldl (fun (s : State) st =>
    match st.agent with
    | .fst _ => if st.acc = 1 then s.setWord st.word (s.word st.word).rewind else s
    | _ => s) s

/-- FAULTRESOLVE with ACTION REPLAY (R320 step 4): the stalled accesses walk again. A tag of nothing is ignored. -/
def execFaultresolveReplay (die : Nat) (tag : BitVec 16) (s : State) : Out :=
  if !s.pwr.ready then .next s
  else
    let s := s.rewound (s.stalls.filter (·.tagged die tag))
    .next { s with stalls := s.stalls.map fun st => if st.tagged die tag then { st with walked := false } else st }

/-- A steering sequencer goes on at the word that stalled. -/
def State.unstall (s : State) (st : Stall) : State :=
  match st.agent with
  | .seq u => s.modUnit u fun x => match x.mode with | .stall _ => { x with mode := .code } | _ => x
  | _ => s

/-- The context of a stalled access's walk. -/
def Stall.ctx (st : Stall) : Ctx := ⟨st.agent, st.die, st.asid, st.task, 0, false, none, false⟩

/-- PAGE_WALK_COMPLETE (R319, R320): a walk made again ends: the accesses that waited go on, or wait for a new record. -/
def execPageWalkComplete (die asid page : Nat) (s : State) : Out :=
  let here (st : Stall) : Bool :=
    decide (st.die = die) && decide (st.asid = asid) && decide (st.page = page) && st.posted && !st.walked
  let ws := s.stalls.filter here
  match ws with
  | [] => noEvent s "no walk of the page is under way"
  | st :: _ => match s.xlate st.ctx (page * 65536) with
    | (_, .wait) => noEvent s "the walk waits for its circuit"
    | (s, .absent _) =>
      .next { s with stalls := s.stalls.map fun st => if here st then { st with posted := false, walked := true } else st }
    | (s, _) =>
      let s := { s with stalls := s.stalls.filter fun st => !here st }
      .next (ws.foldl State.unstall s)

/-- The box access of a unit that an address of it names (R401). -/
def State.unitAccess (s : State) (u va : Nat) : Nat × BoxDet :=
  match (s.unit u).mode with
  | .wait slot idx _ _ => (slot, (s.box u slot).detail ⟨(idx : Int), 0, 0, 0⟩)
  | _ => ((s.taskOf u).boxes.findSome? fun e => (e.2.hnd e.1).covers true va).getD (0, default)

/-- TRANSLATION, UNRESOLVED, at an access given up (R320 step 4). -/
def State.abortStall (s : State) (st : Stall) : State :=
  let det := vaDet st.va
  let f (l : Label) (a : Nat × BoxDet) : Flt := { fltOf fTranslation 1 l with det := det, slot := a.1, bd := a.2 }
  match st.agent with
  | .clane _ | .fst _ => (s.holdAt st.word fTranslation 1 det st.va).tendCheck (s.word st.word).unit
  | .seq u | .lane u =>
    match (s.unit u).mode with
    | .stall _ | .wait .. => s.raise u (f (s.unit u).vol.lblpc (s.unitAccess u st.va)) false
    | _ => s
  | .sched _ =>
    let t := s.task st.word
    let a := s.copyAccess st.word st.va
    match t.st with
    | .joining => (s.freeChildren t.group).failTask st.word (f t.lbl a) 1
    | .preparing | .parked => s.failPrepared st.word t.home (f t.lbl a)
    | .returning => s.failTask st.word (f t.endL a) 1
    | _ => s
  | _ =>
    let at_ (a : Nat × Nat × Nat × Nat) : Bool := decide (a.1 = st.asid) && (s.cpAbsent a).map (· / 65536) = some st.page
    let s1 := s.chains.foldl (fun (s1 : State) c =>
      if (s.cpNeeds c.1 c.2).any at_ then
        let r := s1.chain c.1 c.2
        (s1.setChain c.1 c.2 { r with head := r.head + 1 }).chainDone c.1 c.2 (r.head.toNat + 1) false
      else s1) s
    s.launches.foldl (fun (s1 : State) e =>
      if s.launchDone e.1 && e.2.status ≠ 0 && at_ (e.2.asid, e.2.status, 16, 1) then
        { s1.freeChildren [e.2.top] with launches := s1.launches.put e.1 default }.chainDone e.2.fn e.2.chain e.2.entry e.2.irq
      else s1) s1

/-- FAULTRESOLVE with ACTION ABORT (R320 step 4): the stalled accesses are given up. -/
def execFaultresolveAbort (die : Nat) (tag : BitVec 16) (s : State) : Out :=
  if !s.pwr.ready then .next s
  else
    let ws := s.stalls.filter (·.tagged die tag)
    let s := { s with stalls := s.stalls.filter fun st => !st.tagged die tag }
    .next (ws.foldl State.abortStall s)

/-! ## The expanded view (R345, R346) -/

/-- The FST lane that decodes chunk `c` of a page: beside the channel that holds the chunk's OFFSET (R345). -/
def State.viewCtx (s : State) (p : Pte) (asid c : Nat) : Ctx :=
  let e := leNat (s.seen 0 (p.addr + 8 * c) 8)
  let n := channelOf (p.addr + bits e 33 0 / 8)
  ⟨.fst n, n / 64, asid, 0xFFFFFFFF, 0, false, none, false⟩

/-- EXPANDED_VIEW_READ: the FST lane beside a transduced page decodes the chunks a read touches; the bytes, or none where
the decode fails, with the TXSTREAM event of a reader that is no task. -/
def execExpandedViewRead (asid va len : Nat) (s : State) : Out :=
  match s.pageOf 8 asid va with
  | some (p, page) =>
    if !p.tx || len = 0 || va + len > page + pageBytes p.size then noEvent s "no transduced page is read"
    else
      match s.readPage (s.viewCtx p asid ((va - page) / 4096)) p page va len false with
      | (s, .ok r) => .next { s with answer := some (5, some r.data) }
      | (s, .error (.flt 0x15 _ _ _)) => .next { s.event 4 0 (s.asids.get asid).fn asid va with answer := some (5, none) }
      | (s, .error _) => .next { s with answer := some (5, none) }
  | none => noEvent s "no transduced page is read"

end Sys2Proof.Machine
end

