-- ==== Sys2Proof/Machine/Outside.lean ====
section
/-! DEFINITION. What passes between the package and the outside: decisions of the Col on transactions in order (spec 19,
R359-R366), host and debug reads and writes (20, R376), peer ports (20, R383-R385; 22, R411, R412). -/

namespace Sys2Proof.Machine

/-! ## Flits (R383) -/

/-- Runs written into a store. -/
def Mem.runs (m : Mem) (ws : List WRun) : Mem :=
  ws.foldl (fun m w => Mem.write m w.a (overlay (Mem.bytes m w.a w.bs.length) w.bs w.mask)) m

def runBytes (ws : List WRun) : Nat := ws.foldl (fun n w => n + w.bs.length) 0

/-- A run in parts that fit a flit's 240 bytes. -/
def WRun.parts (r : WRun) (fuel : Nat) : List WRun :=
  match fuel with
  | 0 => [r]
  | fuel + 1 =>
    if r.bs.length ≤ 240 then [r]
    else ⟨r.a, r.bs.take 240, r.mask.take 240⟩ :: WRun.parts ⟨r.a + 240, r.bs.drop 240, r.mask.drop 240⟩ fuel

/-- Runs dealt out to flits, in order. -/
def packFlits (ws : List WRun) : List (List WRun) :=
  (ws.flatMap fun r => r.parts (r.bs.length / 240 + 1)).foldr (fun w acc => match acc with
    | c :: r => if w.bs.length + runBytes c ≤ 240 then (w :: c) :: r else [w] :: c :: r
    | [] => [[w]]) []

/-- What the flits of a transaction hold: TYPE, address and at most 240 bytes each. A counter addition travels as a WR, which
is acknowledged (log 93). -/
def Txn.cargo (t : Txn) : List (FType × Nat × TxAct) :=
  match t.act with
  | .wr ws => (packFlits ws).map fun c => (if t.na then .wrna else .wr, (c.head?.map (·.a)).getD t.addr, .wr c)
  | .add v => [(.wr, t.addr, .add v)]
  | .atom => [(.atom, t.addr, .atom)]
  | .ans d => (List.range ((d.length + 239) / 240)).map fun i => (.rdrsp, t.addr + 240 * i, .ans ((d.drop (240 * i)).take 240))
  | .old d => [(.atomrsp, t.addr, .old d)]

/-- A transaction's flits put into a port's retry buffer (R384): each acknowledges what has been delivered so far. -/
def State.sendFlit (s : State) (t : Txn) : State :=
  t.cargo.foldl (fun s c =>
    let p := s.peers.get t.port
    let f : Flit := ⟨c.1, p.txseq, p.rxseq - 1, t.word, t.na, t.so, t.fn, c.2.1, c.2.2⟩
    { s with peers := s.peers.put t.port { p with txseq := p.txseq + 1, buf := p.buf ++ [f] } }) s

/-- The flits of a port that its retry buffer holds (R384): 4,096; later ones have not been sent and wait behind them. -/
def Peer.kept (p : Peer) : List Flit := p.buf.take 4096

/-! ## Transactions that have passed -/

/-- The die whose agent made a transaction: its core's C lane, or the FST lane that writes for a TXRUN (R337); Steppe for the
others. -/
def State.txnDie (s : State) (t : Txn) : Nat :=
  match t.word, t.act with
  | some k, .wr _ => (s.moveCtx k (s.word k)).die
  | some k, _ => dieOf (s.word k).unit
  | none, _ => 8

/-- A run written into host memory for a die: its own copies of the lines are dropped (R327). -/
def State.hostWrite (s : State) (die : Nat) (w : WRun) : State :=
  { s.unDrop die (2 ^ 52 + w.a / 64) (2 ^ 52 + (w.a + w.bs.length - 1) / 64) with hostMem := Mem.runs s.hostMem [w] }

/-- A counter addition in a store (R333). -/
def Mem.count (m : Mem) (a v : Nat) : Mem := Mem.write m a (leBytes 8 (satAdd (Mem.nat m a 8) v))

/-- Who reads: a host, the debug session, a peer. -/
def Txn.reader (t : Txn) : Nat := if t.kind = 1 then 1 else if t.kind = 3 then 3 else 4

/-- A transaction that has passed acts (R359): accepted at the host port's ordering point, sent on to a peer, or answered. -/
def State.passTxn (s : State) (t : Txn) : State :=
  match t.act with
  | .ans d => if t.kind = 2 then s.sendFlit t else { s with answer := some (t.reader, some d) }
  | .wr ws => if t.kind = 0 then ws.foldl (fun s w => s.hostWrite (s.txnDie t) w) s else s.sendFlit t
  | .add v =>
    if t.kind = 0 then
      { s.unDrop (s.txnDie t) (2 ^ 52 + t.addr / 64) (2 ^ 52 + t.addr / 64) with hostMem := Mem.count s.hostMem t.addr v }
    else s.sendFlit t
  | .atom | .old _ => s.sendFlit t

/-- The word of a transaction that is dropped does nothing more (R406). -/
def State.dropTxn (s : State) (t : Txn) : State :=
  match t.word with
  | some k =>
    let w := s.word k
    (s.setWord k { w with done := true, dead := true, cstat := if w.done then w.cstat else .dropped }).tendCheck w.unit
  | none => { s with answer := some (t.reader, none) }

/-- The virtual address a word wrote to, by the target address on a port (R401). -/
def State.vaOf (s : State) (k port a : Nat) : Nat :=
  ((s.wpages.get k).find? fun e => decide (e.2.tgt ≠ 0) && decide (e.2.port = port) && decide (e.2.addr ≤ a)
    && decide (a < e.2.addr + pageBytes e.2.size)).elim 0 fun e => e.1 + (a - e.2.addr)

/-- COL_DECISION (R361, R364, R365): the transaction that arrived first passes or is refused. Those of a frozen master are
dropped without a record. -/
def execColDecision (s : State) : Out :=
  match s.colQ with
  | [] => noEvent s "no transaction waits at the Col"
  | t :: r =>
    let s := { s with colQ := r }
    if (match t.master with | some m => s.frozen.contains m | none => false) then .next (s.dropTxn t)
    else match s.judge t with
    | (s, none) =>
      let s := s.passTxn t
      .next (match t.word with | some k => s.tendCheck (s.word k).unit | none => s)
    | (s, some why) =>
      let s := s.colRecord t why
      match t.word with
      | some k => .next ((s.holdAt k fGate why 0 (s.vaOf k t.port t.addr)).tendCheck (s.word k).unit)
      | none => .next ((match t.master with | some m => s.freeze m | none => s).dropTxn t)

/-! ## Reads and writes from outside (R359, R376) -/

/-- A completer abort, with event 5 where a page or a permission caused it (R373, R376). -/
def State.abortAnswer (s : State) (who port fn asid va : Nat) (code : Option Nat) : State :=
  let s := match code with | some c => s.event c port fn asid va | none => s
  { s with answer := some (who, none) }

/-- The event that a failed access from outside posts: 4 for a stream that does not decode (R346), 5 for a page that is
not present or refuses (R376), none for MEMORY_SEVERITY (R396) and
for a port that carries no packets. -/
def outsideEvent (e : XErr) : Option Nat :=
  match e with
  | .wait => none
  | .absent _ => some 5
  | .flt code _ _ _ => if code = fTxstream then some 4 else if code = fMemory then none else some 5

/-- A read from outside: its answer is a transaction of the Col. -/
def State.outsideRead (s : State) (who kind port fn : Nat) (m : Master) (ctx : Ctx) (va len addr : Nat) : State :=
  match s.readVa ctx .rd false (pagesOf len) va len with
  | (s, .error e) => s.abortAnswer who port fn ctx.asid va (outsideEvent e)
  | (s, .ok r) =>
    let t : Txn := { (default : Txn) with
      kind := kind, port := port, fn := fn, asid := ctx.asid, lab := r.lab, layout := r.layout, addr := addr, size := len
      master := some m, act := .ans r.data }
    { s with colQ := s.colQ ++ [t] }

/-- A write from outside lands unexamined and takes the page's label (R359, R376). -/
def State.outsideWrite (s : State) (who port fn : Nat) (ctx : Ctx) (va : Nat) (bs : List Byte) : State :=
  match s.writeVa ctx .wr 0#8 (pagesOf bs.length) va bs with
  | (s, some e) => s.abortAnswer who port fn ctx.asid va (outsideEvent e)
  | (s, none) => s

/-- A host function's access at a device virtual address of its window (R376). -/
def State.hostAccess (s : State) (fn port off : Nat) (a : HostAcc) : State :=
  let f := s.fns.get fn
  let ctx : Ctx := ⟨.hostp port, 8, f.winAs, 0xFFFFFFFF, 0, false, none, false⟩
  if f.flr || s.frozen.contains (.fn fn port) then s.abortAnswer 1 port fn 0 off none
  else if !f.winSet || !(s.asids.get f.winAs).live then s.abortAnswer 1 port fn 0 off (some 5)
  else match a with
    | .rd _ len => s.outsideRead 1 1 port fn (.fn fn port) ctx (f.winBase + off) len 0
    | .wr _ bs => s.outsideWrite 1 port fn ctx (f.winBase + off) bs

def accOff (a : HostAcc) : Nat := match a with | .rd o _ => o | .wr o _ => o
def accLen (a : HostAcc) : Nat := match a with | .rd _ n => n | .wr _ bs => bs.length

/-- A function answers on a port: the PF on both, a VF on the one it is enabled on (R369, R371). -/
def State.fnOn (s : State) (fn port : Nat) : Bool :=
  s.pwr.ready && decide (port < 2) && (decide (fn = 0) || s.vfPort fn = some port)

/-- BAR2_ACCESS (R370, R376). -/
def execBar2Access (fn port : Nat) (a : HostAcc) (s : State) : Out :=
  if !s.fnOn fn port || accLen a = 0 || accOff a + accLen a > 2 ^ 36 then noEvent s "no BAR2 answers there"
  else .next (s.hostAccess fn port (accOff a) a)

/-- CXL_MEM_ACCESS (R376): counts as function 0 on its port. -/
def execCxlMemAccess (port : Nat) (a : HostAcc) (s : State) : Out :=
  if !s.fnOn 0 port || accLen a = 0 || accOff a + accLen a > 8 * dieBytes then noEvent s "no HDM decoder answers there"
  else .next (s.hostAccess 0 port (accOff a) a)

/-- What a debug read finds at a place of a box in a scratchpad or cluster store: label, layout and bytes. -/
def State.boxBytes (s : State) (asid task slot off len : Nat) : Option (Label × Nat × List Byte) :=
  let t := s.task task
  let b := t.boxes.get slot
  let n := b.allocBytes
  if !b.present || b.mode = .root || (s.launch t.lid).asid ≠ asid || off + len > n then none
  else match b.scope, t.unit with
    | .scratch, some u => some (b.lab, b.layout, Mem.bytes (s.unit u).spad (b.base + off) len)
    | .clstore, _ => some (b.lab, b.layout, Mem.bytes (s.clstore.get b.home) (b.base + off) len)
    | _, _ => none

/-- DEBUG_READ (R359): a read of at most 4 KiB by the debug session, of device virtual memory or of a box. -/
def execDebugRead (asid : Nat) (at_ : DebugAt) (len : Nat) (s : State) : Out :=
  if !s.pwr.ready || len = 0 || len > 4096 || !(s.asids.get asid).live then noEvent s "there is nothing to read"
  else match at_ with
  | .va va =>
    if s.frozen.contains .debug then .next (s.abortAnswer 3 0 0 0 va none)
    else .next (s.outsideRead 3 3 0 0 .debug ⟨.hostp 0, 8, asid, 0xFFFFFFFF, 0, false, none, false⟩ va len 0)
  | .box task slot off =>
    match s.boxBytes asid task slot off len with
    | none => noEvent s "there is nothing to read"
    | some (l, lay, bs) =>
      if s.frozen.contains .debug then .next (s.abortAnswer 3 0 0 0 0 none)
      else
        let t : Txn := { (default : Txn) with
          kind := 3, asid := asid, lab := l, layout := lay, size := len, master := some .debug, act := .ans bs }
        .next { s with colQ := s.colQ ++ [t] }

/-! ## Peer ports: what leaves (R383, R384) -/

/-- Parts of a flit that a failed link left open: each byte is performed or not, a free value. -/
def State.freeBits (s : State) (n : Nat) : State × List Bool :=
  ({ s with frees := s.frees + n }, (List.range n).map fun i => Config.freeBit (s.frees + i))

/-- A peer performs an atomic (R334) unless its tag was answered before (R214). -/
def State.peerAtom (s : State) (port k : Nat) (a : Nat) : State :=
  let w := s.word k
  match w.kind with
  | .ratom op wide tag v x _ =>
    if (s.tagAnswer w.unit (1024 + port) tag).isSome then s
    else
      let n := if wide then 8 else 4
      let m := s.peerMem.get port
      let old := Mem.nat m a n
      ({ s with peerMem := s.peerMem.put port (Mem.write m a (leBytes n (atomNew op (8 * n) old v x))) } : State).tagRecord
        w.unit (1024 + port) tag old
  | _ => s

/-- What a flit does at the peer that accepts it: a write, an addition, an atomic, or an answer, which an RDRSP puts into the
requester's buffer (R385). -/
def State.flitActs (s : State) (port : Nat) (f : Flit) : State :=
  let mem (g : Mem → Mem) : State := { s with peerMem := s.peerMem.upd port g }
  match f.act with
  | .wr ws => mem fun m => Mem.runs m ws
  | .add v => mem fun m => Mem.count m f.addr v
  | .atom => match f.word with | some k => s.peerAtom port k f.addr | none => s
  | .ans d => { mem (fun m => Mem.write m f.addr d) with answer := some (4, some d) }
  | .old d => { s with answer := some (4, some d) }

/-- The peer accepts the flit that is first in a port's retry buffer: it performs it and acknowledges it. -/
def State.acceptFlit (s : State) (port : Nat) : Option State :=
  let p := s.peers.get port
  if !p.up || s.frozen.contains (.peer port) then none
  else match p.buf with
  | [] => none
  | f :: r =>
    let s := ({ s with peers := s.peers.put port { p with buf := r, naked := false } } : State).flitActs port f
    some (match f.word with | some k => s.tendCheck (s.word k).unit | none => s)

/-- The write or addition of a lost flit leaves its word REMOTE_INDETERMINATE (R384), once. -/
def State.lostWord (s : State) (port : Nat) (f : Flit) : State :=
  match f.word with
  | some k => if (s.word k).dead then s else (s.holdAt k fRemote 2 0 (s.vaOf k port f.addr)).tendCheck (s.word k).unit
  | none => s

/-- An unacknowledged flit on a link that has failed (R384): what a flit that has been sent did is left open, byte by byte;
one that has not been sent did nothing. -/
def State.loseFlit (s : State) (port : Nat) (sent : Bool) (f : Flit) : State :=
  match f.act with
  | .atom =>
    let (s, b) := s.freeBits 1
    match f.word with
    | some k =>
      let s := if sent && b = [true] then s.peerAtom port k f.addr else s
      s.setWord k { s.word k with sent := 0 }
    | none => s
  | .wr ws =>
    if f.na then { s with peers := s.peers.upd port fun p => { p with lost := p.lost + 1 } }
    else
      let (s, b) := s.freeBits (runBytes ws)
      let one : List WRun := ws.flatMap fun w => w.bs.zipIdx.map fun e => ⟨w.a + e.2, [e.1], (w.mask.drop e.2).take 1⟩
      let done := (one.zip b).filterMap fun e => if sent && e.2 then some e.1 else none
      ({ s with peerMem := s.peerMem.upd port fun m => Mem.runs m done } : State).lostWord port f
  | .add v =>
    let (s, b) := s.freeBits 1
    let s := if sent && b = [true] then { s with peerMem := s.peerMem.upd port fun m => Mem.count m f.addr v } else s
    s.lostWord port f
  | .ans _ | .old _ => s

/-- A link declared failed (R384, R411). -/
def State.linkFail (s : State) (port : Nat) : State :=
  let p := s.peers.get port
  let s := { s with peers := s.peers.put port { p with up := false, buf := [], reqs := [], naked := false, nak := false } }
  let s := p.kept.foldl (fun s f => s.loseFlit port true f) s
  (p.buf.drop 4096).foldl (fun s f => s.loseFlit port false f) s

/-- PEER_LINK_FAIL (R384). -/
def execPeerLinkFail (port : Nat) (s : State) : Out :=
  let p := s.peers.get port
  if port ≥ 32 || (!p.up && p.buf.isEmpty) then noEvent s "the link has failed already"
  else .next (s.linkFail port)

/-- PEER_NAK_REPLAY (R384): the flit named is the first the peer has not accepted; the port replays from it. -/
def execPeerNakReplay (port : Nat) (sq : BitVec 12) (s : State) : Out :=
  let p := s.peers.get port
  match p.buf with
  | f :: _ =>
    if p.up && f.sq = sq then .next { s with peers := s.peers.put port { p with naked := true, retry := p.retry + 1 } }
    else noEvent s "the flit is not awaited by the peer"
  | [] => noEvent s "the retry buffer is empty"

/-- Rates of a port (R383), and the next lower and higher. -/
def rateDown (r : Nat) : Nat := if r = 200 then 150 else if r = 150 then 100 else 50
def rateUp (r : Nat) : Nat := if r = 50 then 100 else if r = 100 then 150 else 200

/-- A step to a new rate at a quiet point, with event 7 (R411, R412). -/
def State.setRate (s : State) (port r : Nat) (down : Bool) : State :=
  let s := { s with peers := s.peers.upd port fun p => { p with rate := r, steps := some (s.frame.toNat, down) } }
  s.event 7 port 0 0 r

/-- A port took its last step long enough ago (R411, R412): 100 ms, and a step up 10 s after a step down, whose prediction at
the higher rate was above both thresholds. -/
def State.steppedBefore (s : State) (p : Peer) (down : Bool) : Bool :=
  match p.steps with
  | some (f, d) => s.elapsed f (if d && !down then 10000000 else 100000)
  | none => true

/-- PEER_RATE_STEP_DOWN (R411): at most one step in 100 ms, at a quiet point; at 50 Gb/s the link is declared failed. -/
def execPeerRateStepDown (port : Nat) (s : State) : Out :=
  let p := s.peers.get port
  if port ≥ 32 || !p.up then noEvent s "the port is down"
  else if p.rate = 50 then .next (s.linkFail port)
  else if p.naked || !s.steppedBefore p true then noEvent s "the port is not at a quiet point, or stepped within 100 ms"
  else .next (s.setRate port (rateDown p.rate) true)

/-- PEER_RATE_STEP_UP (R412): a port below its full rate, at a quiet point. -/
def execPeerRateStepUp (port : Nat) (s : State) : Out :=
  let p := s.peers.get port
  if port ≥ 32 || !p.up || p.naked || p.rate = 200 then noEvent s "the port has no step up to take"
  else if !s.steppedBefore p false then noEvent s "the last step was not long enough ago"
  else .next (s.setRate port (rateUp p.rate) false)

/-! ## Peer ports: what arrives (R384, R385) -/

/-- PEER_FLIT_RECEIVE (R384): a flit that cannot be corrected or whose CRC fails is dropped and NAKed, and every later one
until the replay; flits are delivered in sequence order, once each. -/
def execPeerFlitReceive (port : Nat) (sq : BitVec 12) (good : Bool) (rq : PeerReq) (s : State) : Out :=
  let p := s.peers.get port
  if port ≥ 32 || !p.up || !s.feature 8 || !s.pwr.ready then noEvent s "the port is down"
  else if !good then .next { s with peers := s.peers.put port { p with nak := true } }
  else if sq ≠ p.rxseq then .next s
  else .next { s with peers := s.peers.put port { p with rxseq := p.rxseq + 1, nak := false, reqs := p.reqs ++ [rq] } }

/-- PEER_REQUEST (R385): the oldest delivered request, translated in the port's address space and served or aborted. -/
def execPeerRequest (port : Nat) (s : State) : Out :=
  let p := s.peers.get port
  match p.reqs with
  | [] => noEvent s "no request waits at the port"
  | rq :: r =>
    let s := { s with peers := s.peers.put port { p with reqs := r } }
    let va := match rq with | .rd va _ _ | .wr va _ | .atom _ _ va _ _ => va
    if s.frozen.contains (.peer port) then .next (s.abortAnswer 4 port 0 0 va none)
    else match p.asid with
    | none => .next (s.abortAnswer 4 port 0 0 va (some 5))
    | some asid =>
      let ctx : Ctx := ⟨.peerp port, 8, asid, 0xFFFFFFFF, 0, false, none, false⟩
      match rq with
      | .rd va len buf => .next (s.outsideRead 4 2 port 0 (.peer port) ctx va len buf)
      | .wr va bs => .next (s.outsideWrite 4 port 0 ctx va bs)
      | .atom op wide va x y =>
        let n := if wide then 8 else 4
        match s.readVa { ctx with atom := true } .atom true 2 va n with
        | (s, .error e) => .next (s.abortAnswer 4 port 0 asid va (outsideEvent e))
        | (s, .ok g) =>
          let new := atomNew op (8 * n) (leNat g.data) (x.toNat % 2 ^ (8 * n)) (y.toNat % 2 ^ (8 * n))
          match s.writeVa ctx .atom 0#8 2 va (leBytes n new) with
          | (s, some e) => .next (s.abortAnswer 4 port 0 asid va (outsideEvent e))
          | (s, none) =>
            let t : Txn := { (default : Txn) with
              kind := 2, port := port, fn := 0, asid := asid, lab := g.lab, layout := g.layout, addr := 0, size := n
              master := some (.peer port), act := .old g.data }
            .next { s with colQ := s.colQ ++ [t] }

end Sys2Proof.Machine
end

