-- ==== Sys2Proof/Machine/Mailbox.lean ====
section
/-! DEFINITION. The package controller's mailbox (spec 20, R377-R381; 17, R313, R323; 19, R351-R363; 15, R302, R308; 09,
R256): each command reads its payload, checks it and answers with its RESULT. -/

namespace Sys2Proof.Machine

/-- A command has run (R377): BUSY clears, vector 8 of the PF fires (R375). -/
def State.mboxDone (s : State) (result handle : Nat) : State :=
  { s with mbox := { s.mbox with busy := false, result := BitVec.ofNat 8 result, handle := BitVec.ofNat 16 handle } }.msi 0 8

/-- The payload of the command in progress, from MBOXADDR. -/
def State.payload (s : State) : List Byte := Mem.bytes s.hostMem s.mbox.addr.toNat s.mbox.len.toNat

/-- The command `c` is in progress and Steppe's command processors run (R377, R409). -/
def State.commandIs (s : State) (c : Nat) : Bool :=
  s.pwr.ready && s.mbox.busy && decide (s.mbox.cmd.toNat = c) && !(s.cps.get 8).frozen && !(s.cps.get 8).dead

/-- A command whose payload is `n` bytes long: a wrong length is answered with 0xFE (R378). `f` answers the new state,
RESULT and HANDLE, the state untouched where RESULT is not 0. -/
def runCommand (s : State) (c n : Nat) (f : List Byte → State × Nat × Nat) : Out :=
  if !s.commandIs c then noEvent s "the command is not in progress"
  else if s.mbox.len.toNat ≠ n then .next (s.mboxDone 0xFE 0)
  else
    let (t, r, h) := f s.payload
    .next ((if r = 0 then t else s).mboxDone r h)

/-- The answer of a payload that breaks its command's rules. -/
def badPayload (s : State) : State × Nat × Nat := (s, 0xFE, 0)

/-! ## Address spaces -/

/-- A POLTAB with its reserved bits zero (R394). -/
def poltabOk (v : Nat) : Bool := (List.range 4).all fun r => decide (bits v (16 * r + 15) (16 * r + 10) = 0)

/-- CREATE_AS (R313, R351, R378). Whether the driver enables debug is no field of the payload (R281): a free value. -/
def execCreateAs (s : State) : Out :=
  runCommand s 0x01 72 fun b =>
    let asid := fld b 0 2
    let fn := fld b 2 2
    let map := (List.range 8).map fun i => fld b (0x10 + i) 1
    let sv : BitVec 8 := BitVec.ofNat 8 (fld b 0x18 1)
    let l0 := fld b 8 8
    let arena := fld b 0x28 8
    let save := fld b 0x38 8
    if asid > 1023 || fn > 192 || !zeroAt b 4 4 || l0 ≥ 2 ^ 52 || l0 % 131072 ≠ 0 || !s.physOk l0 131072 || !zeroAt b 0x19 7
      || !poltabOk (fld b 0x20 8) || arena ≥ 2 ^ 52 || arena % 2 ^ 21 ≠ 0 || fld b 0x30 8 % 2 ^ 21 ≠ 0
      || save ≥ 2 ^ 52 || save % 65536 ≠ 0 || fld b 0x40 8 % 65536 ≠ 0
      || !((List.range 8).all fun i => sv.getLsbD i || decide (map.getD i 0 = 0))
      || (fn ≠ 0 && !((List.range 8).any fun i => sv.getLsbD i && decide (map.getD i 0 = fn))) then badPayload s
    else if (s.asids.get asid).live then (s, 1, 0)
    else
      let a : As := { (default : As) with
        live := true, fn := fn, l0 := l0, map := map, slots := sv, poltab := BitVec.ofNat 64 (fld b 0x20 8)
        arena := arena, arenaN := fld b 0x30 8, save := save, saveN := fld b 0x40 8, debug := Config.freeBit s.frees, limit := 500 }
      ({ s with asids := s.asids.put asid a, frees := s.frees + 1 }, 0, 0)

/-- A launch runs in an address space. -/
def State.asBusy (s : State) (asid : Nat) : Bool := s.launches.any fun e => e.2.live && decide (e.2.asid = asid)

/-- DESTROY_AS (R378): refused while a launch runs in it. Windows and peer ports bound to it are left without one. -/
def execDestroyAs (s : State) : Out :=
  runCommand s 0x02 8 fun b =>
    let asid := fld b 0 2
    if asid > 1023 || !zeroAt b 2 6 || !(s.asids.get asid).live then badPayload s
    else if s.asBusy asid then (s, 1, 0)
    else
      let s := s.tlbDrop asid none
      ({ s with
        asids := s.asids.put asid default
        fns := s.fns.map fun e => (e.1, if e.2.winSet && e.2.winAs = asid then { e.2 with winSet := false, winAs := 0, winBase := 0 } else e.2)
        peers := s.peers.map fun e => (e.1, if e.2.asid = some asid then { e.2 with asid := none } else e.2) }, 0, 0)

/-- Accesses translated for an address space, or for a range of it, are under way (R323): transactions, flits, and words
that have translated a page. -/
def State.asOnWay (s : State) (asid : Nat) (r : Option (Nat × Nat)) : Bool :=
  let hit (e : Nat × Pte) : Bool := match r with
    | some (a, n) => decide (e.1 < a + n) && decide (a < e.1 + pageBytes e.2.size)
    | none => true
  s.colQ.any (fun t => decide (t.asid = asid))
  || (s.peers.any fun p => p.2.buf.any fun f =>
    match f.word with | some k => decide ((s.word k).asid = asid) | none => false)
  || s.xwords.any fun e => decide (e.2.asid = asid) && !e.2.done && (s.wpages.get e.1).any hit

/-- What an INVALIDATE's payload names (R323, R378): the address space and the range, none for all of it; nothing where it breaks its
rules. -/
def invalidation (b : List Byte) : Option (Nat × Option (Nat × Nat)) :=
  let asid := fld b 0 2
  let whole := fld b 2 1
  let va := fld b 8 8
  let n := fld b 16 8
  if b.length ≠ 24 || asid > 1023 || whole > 1 || !zeroAt b 3 5 || (whole = 1 && (va ≠ 0 || n ≠ 0))
    || (whole = 0 && (va ≥ 2 ^ 52 || va % 65536 ≠ 0 || n = 0 || n % 65536 ≠ 0)) then none
  else some (asid, if whole = 1 then none else some (va, n))

/-- INVALIDATE (R323, R378), begun at the write of MBOXCMD: completes when no access translated through a dropped entry is under way. -/
def execInvalidate (s : State) : Out :=
  let busy := match invalidation s.payload with | some (asid, r) => s.asOnWay asid r | none => false
  if s.commandIs 0x03 && busy then noEvent s "translated accesses are under way"
  else runCommand s 0x03 24 fun b => match invalidation b with
    | none => badPayload s
    | some (asid, r) => (s.tlbDrop asid r, 0, 0)

/-! ## Keys, destinations and policies -/

/-- Policies a tenant signed are removed (R353). -/
def State.dropSigned (s : State) (tenant : Nat) : State :=
  { s with policies := s.policies.filter fun e => !e.2.tenants.contains tenant }

/-- SET_KEY (R353, R378). -/
def execSetKey (s : State) : Out :=
  runCommand s 0x04 72 fun b =>
    let t := fld b 0 1
    let clear := fld b 1 1
    let key := (b.drop 8).take 57
    if clear > 1 || !zeroAt b 2 6 || !zeroAt b 0x41 7 || (clear = 1 && !key.all (· = 0#8)) then badPayload s
    else
      let s := s.dropSigned t
      ({ s with keys := if clear = 1 then s.keys.drop t else s.keys.put t key }, 0, 0)

/-- A destination entry (R360): none when a field is outside it. -/
def destOf (b : List Byte) (policy : Bool) : Option Dest :=
  let kind := fld b 0 1
  let port := fld b 1 1
  let fn := fld b 2 2
  let ten := fld b 4 1
  let base := fld b 8 8
  let len := fld b 16 8
  let host := kind = 0 || kind = 1
  if kind > 3 || (host && port > 1) || (kind = 2 && port > 31) || (kind = 3 && port ≠ 0) || fn > 192 || (!host && fn ≠ 0)
    || (policy && ten ≠ 0) || !zeroAt b 5 3 || !zeroAt b 24 8
    || (if kind = 0 || kind = 2 then len = 0 else (base ≠ 0 || len ≠ 0)) then none
  else some ⟨kind, port, fn, ten, base, len⟩

/-- SET_DEST (R360, R378): all zeros removes the index. -/
def execSetDest (s : State) : Out :=
  runCommand s 0x05 40 fun b =>
    let i := fld b 0 2
    let e := (b.drop 8).take 32
    if i > 4095 || !zeroAt b 2 6 then badPayload s
    else if e.all (· = 0#8) then ({ s with dests := s.dests.put i none }, 0, 0)
    else match destOf e false with
      | some d => ({ s with dests := s.dests.put i (some d) }, 0, 0)
      | none => badPayload s

/-- The context string of a policy's signatures (R362): "GZP8 COL POLICY". -/
def policyContext : List Byte := [0x47, 0x5A, 0x50, 0x38, 0x20, 0x43, 0x4F, 0x4C, 0x20, 0x50, 0x4F, 0x4C, 0x49, 0x43, 0x59]

/-- The fields of a policy (R362): its tenants and the policy, none when one is outside. -/
def policyOf (b : List Byte) : Option Policy :=
  let nten := fld b 6 1
  let ndest := fld b 7 1
  let ten := (List.range 8).map fun i => fld b (0x40 + i) 1
  let ds := (List.range ndest).map fun j => destOf ((b.drop (0x50 + 32 * j)).take 32) true
  if fld b 0 4 ≠ 0x504C4F43 || fld b 4 2 ≠ 1 || nten < 2 || nten > 8 || ndest = 0 || ndest > 16 || fld b 8 8 = 0
    || !((List.range 8).all fun i => if i < nten then decide (i = 0) || decide (ten.getD (i - 1) 0 < ten.getD i 0) else decide (ten.getD i 0 = 0))
    || !zeroAt b 0x48 8 || !zeroAt b (0x50 + 32 * ndest) (32 * (16 - ndest)) then none
  else match allSome ds with
  | none => none
  | some ds => some { live := true, left := fld b 8 8, expiry := fld b 16 8, nonce := fld b 24 8, layouts := fld b 32 32
                      tenants := ten.take nten, dests := ds }

/-- INSTALL_POLICY (R362, R363): its own RESULT codes, in their order. -/
def execInstallPolicy (s : State) : Out :=
  if !s.commandIs 0x06 then noEvent s "the command is not in progress"
  else
    let b := s.payload
    let n := s.mbox.len.toNat
    if n < 592 || n ≠ 592 + 114 * fld b 6 1 then .next (s.mboxDone 0xFE 0)
    else match policyOf b with
    | none => .next (s.mboxDone 1 0)
    | some p =>
      let key (t : Nat) : Option (List Byte) := Tab.find s.keys t
      let signed := p.tenants.zipIdx.all fun e =>
        ed448Verify ((key e.1).getD []) policyContext (b.take 0x250) ((b.drop (0x250 + 114 * e.2)).take 114)
      if p.tenants.any fun t => (key t).isNone then .next (s.mboxDone 2 0)
      else if !signed then .next (s.mboxDone 3 0)
      else if p.expiry < s.devtime.toNat then .next (s.mboxDone 4 0)
      else if s.policies.any fun e => decide (e.2.tenants = p.tenants) && decide (e.2.nonce = p.nonce) then .next (s.mboxDone 5 0)
      else match (List.range 1024).find? fun h => !(s.policies.get h).live with
        | none => .next (s.mboxDone 6 0)
        | some h => .next ({ s with policies := s.policies.put h p }.mboxDone 0 h)

/-- REMOVE_POLICY (R363, R378). -/
def execRemovePolicy (s : State) : Out :=
  runCommand s 0x07 8 fun b =>
    let h := fld b 0 2
    if !zeroAt b 2 6 then badPayload s
    else if h > 1023 || !(s.policies.get h).live then (s, 1, 0)
    else ({ s with policies := s.policies.drop h }, 0, 0)

/-! ## Circuits, weights, windows, ports -/

/-- Two dies belong to a launch in progress. -/
def State.pairBusy (s : State) (a b : Nat) : Bool :=
  s.launches.any fun e => e.2.live && e.2.dies.getLsbD a && e.2.dies.getLsbD b

/-- Two dies belong to one timing group (R256). -/
def State.pairTimed (s : State) (a b : Nat) : Bool :=
  (s.dies.get a).group.isSome && decide ((s.dies.get a).group = (s.dies.get b).group)

/-- CONNECT (R379, R381): RESULT 1 when a constraint fails; otherwise the changed circuits start to retune. -/
def execConnect (s : State) : Out :=
  if s.commandIs 0x08 && s.retune.isSome then noEvent s "a retune is under way"
  else runCommand s 0x08 64 fun b =>
    let w (i j : Nat) : Nat := fld b (8 * i + j) 1
    let r8 := List.range 8
    let sum (f : Nat → Nat) : Nat := r8.foldl (fun n i => n + f i) 0
    if r8.any (fun i => decide (w i i ≠ 0) || decide (sum (fun j => w i j) > 224) || decide (sum (fun j => w j i) > 224))
      || r8.any (fun i => r8.any fun j => decide (i ≠ j) &&
        ((s.pairBusy i j && decide (w i j = 0)) || (s.pairTimed i j && decide (w i j < 8)))) then (s, 1, 0)
    else
      let ch := (List.range 64).filterMap fun i => if fld b i 1 = s.conn.get i then none else some (i, fld b i 1)
      ({ s with retune := if ch.isEmpty then none else some ch }, 0, 0)

/-- Nothing is on its way from one die to another (R381): no answer to a RATOM. Accesses and XSEND data cross in one step, and wait
at their senders before it. -/
def State.circuitEmpty (s : State) (a b : Nat) : Bool :=
  !(s.xwords.any fun e => !e.2.done && decide (dieOf e.2.unit = b) && (match e.2.kind with
    | .ratom _ _ tag _ _ _ => let c := s.atomAt e.1 e.2
      decide (c / 64 = a) && decide (c < 512) && (s.tagAnswer e.2.unit c tag).isSome
    | _ => false))

/-- CIRCUIT_RETUNE_COMPLETE (R381): the changed circuits are empty and take their new widths; packets flow again at the next
frame tick. -/
def execCircuitRetuneComplete (s : State) : Out :=
  match s.retune with
  | none => noEvent s "no circuit is retuning"
  | some ch =>
    if s.tuned || !(ch.all fun e => s.circuitEmpty (e.1 / 8) (e.1 % 8)) then noEvent s "a changed circuit is not empty"
    else .next { s with conn := ch.foldl (fun c e => c.put e.1 e.2) s.conn, tuned := true }

/-- A frame tick brings retuned circuits back (R381). -/
def State.retuneTick (s : State) : State := if s.tuned then { s with retune := none, tuned := false } else s

/-- SET_WEIGHT (R302, R378). -/
def execSetWeight (s : State) : Out :=
  runCommand s 0x09 8 fun b =>
    let fn := fld b 0 2
    if fn > 192 || !zeroAt b 4 4 then badPayload s
    else ({ s with fns := s.fns.upd fn fun f => { f with weight := some (fld b 2 2) } }, 0, 0)

/-- SET_WINDOW (R376, R378). -/
def execSetWindow (s : State) : Out :=
  runCommand s 0x0A 16 fun b =>
    let fn := fld b 0 2
    let asid := fld b 2 2
    let base := fld b 8 8
    if fn > 192 || !zeroAt b 4 4 || base ≥ 2 ^ 52 || base % 65536 ≠ 0 then badPayload s
    else if !s.granted asid fn then (s, 1, 0)
    else ({ s with fns := s.fns.upd fn fun f => { f with winSet := true, winAs := asid, winBase := base } }, 0, 0)

/-- SET_PEERASID (R378, R385). -/
def execSetPeerasid (s : State) : Out :=
  runCommand s 0x0B 8 fun b =>
    let port := fld b 0 1
    let asid := fld b 2 2
    if port > 31 || !zeroAt b 1 1 || !zeroAt b 4 4 || (asid > 1023 && asid ≠ 0xFFFF) then badPayload s
    else ({ s with peers := s.peers.upd port fun p => { p with asid := if asid = 0xFFFF then none else some asid } }, 0, 0)

/-! ## Contexts and timing groups -/

/-- A context pre-empted (R308 step 1): its queued tasks return to SPAWNED and its limit begins to run:
500 µs, which no stated register changes (log 53). -/
def State.preemptAs (s : State) (asid : Nat) : State :=
  let ks := (s.tasks.filter fun e => decide ((s.launch e.2.lid).asid = asid) && (e.2.st = .preparing || e.2.st = .ready)).map (·.1)
  let s := s.unprepare ks
  { s with asids := s.asids.upd asid fun a => { a with off := true, pre := some (s.frame.toNat, a.limit) } }

/-- PREEMPT (R308, R378). -/
def execPreempt (s : State) : Out :=
  runCommand s 0x0C 8 fun b =>
    let asid := fld b 0 2
    if asid > 1023 || !zeroAt b 2 6 || !(s.asids.get asid).live then badPayload s
    else (s.preemptAs asid, 0, 0)

/-- RESUME (R308, R378). -/
def execResume (s : State) : Out :=
  runCommand s 0x0D 8 fun b =>
    let asid := fld b 0 2
    if asid > 1023 || !zeroAt b 2 6 || !(s.asids.get asid).live then badPayload s
    else ({ s with asids := s.asids.upd asid fun a => { a with off := false, pre := none } }, 0, 0)

/-- A launch with a TIMED level runs on a timing group (R304, R378). -/
def State.groupBusy (s : State) (g : Nat) : Bool :=
  s.launches.any fun e => e.2.live && decide (e.2.tgroup = g) && e.2.levels.any (·.timed)

/-! ## P-states (R413-R415) -/

/-- The dies that share a die's P-state: its timing group, or the die alone (R413). -/
def State.clockDies (s : State) (d : Nat) : List Nat :=
  match (s.dies.get d).group with
  | some g => (List.range 8).filter fun e => (s.dies.get e).group = some g
  | none => [d]

/-- The P-state to be applied to a die (R414): the lowest-numbered request of its group. -/
def State.pTarget (s : State) (d : Nat) : Nat := (s.clockDies d).foldl (fun m e => min m (s.dies.get e).preq) 4

/-- A unit on one of the dies. -/
def State.anyUnit (s : State) (ds : List Nat) (f : Unit → Bool) : Bool :=
  s.units.any fun e => ds.contains (dieOf e.1) && f e.2

/-- A change of P-state of a die is wanted (R414). -/
def State.pWanted (s : State) (d : Nat) : Bool := (s.clockDies d).any fun e => decide ((s.dies.get e).pcur ≠ s.pTarget d)

def State.modDies (s : State) (ds : List Nat) (f : Die → Die) : State :=
  { s with dies := ds.foldl (fun t d => t.upd d f) s.dies }

/-- A REALIGN on the dies names a tick that falls before a change would end (R415 step 1): at most 20 µs, five ticks, for each P-state,
then the next tick. The time that open segments still take is not known beforehand (DEDUCED, log 36). -/
def State.realignNear (s : State) (d : Nat) : Bool :=
  let ds := s.clockDies d
  let k := ds.foldl (fun m e => max m ((s.dies.get e).pcur - s.pTarget d + (s.pTarget d - (s.dies.get e).pcur))) 0
  s.anyUnit ds fun x => match x.real with | some n => decide (n ≤ s.frame.toNat + 5 * k + 1) | none => false

/-- A change begins on a die and its group (R415 steps 1, 2). -/
def State.beginDrain (s : State) (d : Nat) : State :=
  if s.dieLive d && s.pWanted d && !s.realignNear d then s.modDies (s.clockDies d) fun x => { x with drain := true }
  else s

/-- The mailbox command in progress names a die (R420): a timing group's mask, or a CONNECT that changes a circuit of it (DEDUCED,
log 44). -/
def State.mboxNames (s : State) (d : Nat) : Bool :=
  s.mbox.busy && (match s.mbox.cmd.toNat with
    | 0x08 => (List.range 8).any fun e => decide (fld s.payload (8 * d + e) 1 ≠ s.conn.get (8 * d + e))
        || decide (fld s.payload (8 * e + d) 1 ≠ s.conn.get (8 * e + d))
    | 0x0E => (fld s.payload 1 1).testBit d
    | _ => false)

/-- TIMING_GROUP (R256, R378): forms, changes or dissolves a group, whose dies then come to one P-state. -/
def execTimingGroup (s : State) : Out :=
  runCommand s 0x0E 8 fun b =>
    let g := fld b 0 1
    let m : BitVec 8 := BitVec.ofNat 8 (fld b 1 1)
    let inM (d : Nat) : Bool := m.getLsbD d
    if g > 7 || !zeroAt b 2 6 || (List.range 8).any (fun d => inM d && !s.dieLive d) then badPayload s
    else if (List.range 8).any (fun d => inM d && (match (s.dies.get d).group with | some h => decide (h ≠ g) | none => false))
      || s.groupBusy g then (s, 1, 0)
    else
      let set (s : State) (d : Nat) : State :=
        { s with dies := s.dies.upd d fun x => { x with
            group := if inM d then some g else if x.group = some g then none else x.group } }
      let s := (List.range 8).foldl (fun (s : State) d => s.beginDrain d) ((List.range 8).foldl set s)
      ({ s with tgroups := s.tgroups.put g m }, 0, 0)

/-- A command no opcode of R377 names: RESULT 0xFF. -/
def execMailboxUnknownCommand (s : State) : Out :=
  let c := s.mbox.cmd.toNat
  if 1 ≤ c && c ≤ 14 then noEvent s "the command is known"
  else if !s.commandIs c then noEvent s "no command is in progress"
  else .next (s.mboxDone 0xFF 0)

end Sys2Proof.Machine
end

