-- ==== Sys2Proof/Machine/Admin.lean ====
section
/-! DEFINITION. The physical function's other steps: thaws (spec 22, R406-R408), the VF table and rings (20, R371-R375),
function-level reset (20, R386), command processors (22, R409, R410), errors of SRAM and the patrol scrub (21, R398,
R399). -/

namespace Sys2Proof.Machine

/-! ## Thaws (R407) -/

/-- A master thawed; one that is not frozen is left as it is. Until READY a write of BAR0 is ignored (R424). -/
def State.thaw (s : State) (m : Master) : State :=
  if s.pwr.ready then { s with frozen := s.frozen.filter fun x => decide (x ≠ m) } else s

/-- THAW of a core context. -/
def execThawCoreContext (core asid : Nat) (s : State) : Out := .next (s.thaw (.core core asid))

/-- THAW of a host function on a port. -/
def execThawHostFunction (fn port : Nat) (s : State) : Out := .next (s.thaw (.fn fn port))

/-- THAW of the debug session. -/
def execThawDebugSession (s : State) : Out := .next (s.thaw .debug)

/-- THAW of a peer port. -/
def execThawPeerPort (port : Nat) (s : State) : Out := .next (s.thaw (.peer port))

/-- THAW of a sequencer context. -/
def execThawSequencerContext (sq asid : Nat) (s : State) : Out := .next (s.thaw (.seq sq asid))

/-- THAW of a quarantined core (R408). -/
def execThawQuarantinedCore (core : Nat) (s : State) : Out :=
  if s.pwr.ready && core < 384 then .next (s.modUnit core fun x => { x with quar := false }) else .next s

/-! ## VF table and rings -/

/-- VFTAB write (R371): with EN set to a VF enabled on the other port it is ignored. -/
def execVftabWrite (n : Nat) (v : BitVec 64) (s : State) : Out :=
  if n = 0 || n > 192 then noEvent s "no such VF"
  else if !s.pwr.ready then .next s
  else
    let f := s.fns.get n
    let other := f.vftab.getLsbD 0 && decide (f.vftab.getLsbD 1 ≠ v.getLsbD 1)
    if v.getLsbD 0 && other then .next s
    else .next { s with fns := s.fns.put n { f with vftab := v.setWidth 2 } }

/-- A ring (R372, R374). -/
def State.ring (s : State) (r : RingId) : Ring :=
  match r with
  | .fq => s.rings.get 0
  | .ev => s.rings.get 1
  | .col => s.rings.get 2
  | .err => s.rings.get 3
  | .fault fn => (s.fns.get fn).ring

def State.setRing (s : State) (r : RingId) (x : Ring) : State :=
  match r with
  | .fq => { s with rings := s.rings.put 0 x }
  | .ev => { s with rings := s.rings.put 1 x }
  | .col => { s with rings := s.rings.put 2 x }
  | .err => { s with rings := s.rings.put 3 x }
  | .fault fn => { s with fns := s.fns.upd fn fun f => { f with ring := x } }

/-- The function and vector of a ring (R375). -/
def ringVec (r : RingId) : Nat × Nat :=
  match r with
  | .fq => (0, 5)
  | .ev => (0, 6)
  | .col => (0, 7)
  | .err => (0, 9)
  | .fault fn => (fn, 4)

/-- HEAD write (R372): above TAIL it is ignored. -/
def execRingHeadWrite (r : RingId) (v : BitVec 64) (s : State) : Out :=
  let (s, frozen) := match r with | .fault fn => s.doorFrozen fn | _ => (s, false)
  let shut := match r with | .fault fn => s.doorShut fn || frozen | _ => !s.pwr.ready
  let x := s.ring r
  if shut || v > x.tail then .next s else .next (s.setRing r { x with head := v })

/-- A ring takes another record. -/
def Ring.hasSpace (x : Ring) : Bool := x.en && decide ((x.tail - x.head).toNat < 2 ^ x.log2n)

/-- A record written at TAIL in host memory, TAIL raised, the vector fired (R372, R375). It passes the Col unexamined, a
decision after which expired policies go (R361, R363, R368). -/
def State.putRecord (s0 : State) (r : Rec) : State :=
  let s := s0.dropExpired
  let x := s.ring r.ring
  let a := x.base + r.data.length * (x.tail.toNat % 2 ^ x.log2n)
  let s := { s with hostMem := Mem.write s.hostMem a r.data }
  let s := s.setRing r.ring { x with tail := x.tail + 1 }
  s.msi (ringVec r.ring).1 (ringVec r.ring).2

/-- The first record that can leave: the fault queue's wait for space, those of other rings never do. -/
def State.nextRec (s : State) (before rest : List Rec) : Option (Rec × List Rec) :=
  match rest with
  | [] => none
  | r :: t => if r.ring = .fq && !(s.ring .fq).hasSpace then s.nextRec (before ++ [r]) t else some (r, before ++ t)

/-- RING_RECORD_WRITE (R372): a full ring, or one not enabled, drops the record and sets OVF; the fault queue holds it. -/
def execRingRecordWrite (s : State) : Out :=
  match s.nextRec [] s.recQ with
  | none => noEvent s "no record can be written"
  | some (r, q) =>
    let s := { s with recQ := q }
    let x := s.ring r.ring
    if x.hasSpace then .next (s.putRecord r) else .next (s.setRing r.ring { x with ovf := true })

/-! ## Function-level reset (R386) -/

/-- A transaction or its answer belongs to a function. -/
def Txn.ofFn (t : Txn) (fn : Nat) : Bool :=
  decide (t.fn = fn) || (match t.master with | some (.fn f _) => decide (f = fn) | _ => false)

/-- A purged packet that the Col had decided, and that was performed whole, before the purge reached it (R386), as a free value says:
it passes as the Col lets it (R359), or nothing is left of it. -/
def State.purgeTxn (s : State) (t : Txn) : State :=
  match t.act with
  | .ans _ | .old _ => s
  | _ =>
    let (s, b) := s.freeBits 1
    if b ≠ [true] || (match t.master with | some m => s.frozen.contains m | none => false) then s
    else match s.judge t with
    | (s, none) => s.passTxn t
    | (_, some _) => s

/-- The Col's queue without a function's transactions. Only those that no other's stand before can have been performed: no packet
passes an earlier one of another function (R387). -/
def State.purgeCol (s : State) (fn : Nat) : State :=
  let lead := s.colQ.takeWhile (·.ofFn fn)
  lead.foldl State.purgeTxn { s with colQ := s.colQ.filter fun t => !t.ofFn fn }

/-- A flit of a function that the peer accepted before the purge (R386), as a free value says. -/
def State.purgeFlit (s : State) (port : Nat) (f : Flit) : State :=
  match f.act with
  | .ans _ | .old _ => s
  | _ =>
    let (s, b) := s.freeBits 1
    if b = [true] then s.flitActs port f else s

/-- A port's queue without a function's flits; those that no other's stand before can have been accepted, where the port sends (R387,
R406). -/
def State.purgePort (s : State) (fn port : Nat) : State :=
  let p := s.peers.get port
  let lead := if !p.up || s.frozen.contains (.peer port) then [] else p.buf.takeWhile fun f => decide (f.fn = fn)
  lead.foldl (fun s f => s.purgeFlit port f)
    { s with peers := s.peers.put port { p with buf := p.buf.filter fun f => decide (f.fn ≠ fn) } }

/-- The frozen masters that belong to a function: itself, and core and sequencer contexts of its address spaces. -/
def State.masterOfFn (s : State) (fn : Nat) (m : Master) : Bool :=
  match m with
  | .fn f _ => decide (f = fn)
  | .core _ a | .seq _ a => (s.asids.get a).live && decide ((s.asids.get a).fn = fn)
  | _ => false

/-- The doorbell page of a function zeroed (R374, R386), its weight back at 1,024 (R302). -/
def State.zeroPage (s : State) (fn : Nat) : State :=
  { s with fns := s.fns.upd fn fun f => { f with chains := [], ring := default, weight := none, pba := 0#16, msix := [] } }

/-- The doorbell page and the window of a VF zeroed (R386 step 4). -/
def State.zeroDoor (s : State) (fn : Nat) : State :=
  let s := s.zeroPage fn
  { s with fns := s.fns.upd fn fun f => { f with winSet := false, winAs := 0, winBase := 0, flr := false } }

/-- Every task of a function's launches removed: units that run them are aborted at once (R386 step 2). -/
def State.dropFnTasks (s : State) (fn : Nat) : State :=
  let ls := (s.launches.filter fun e => e.2.live && decide (e.2.fn = fn)).map (·.1)
  let ks := (s.tasks.filter fun e => ls.contains e.2.lid).map (·.1)
  let s := s.units.foldl (fun (s : State) e =>
    match e.2.task with
    | some k => if ks.contains k then s.setUnit e.1 { e.2.abort e.2.iss.cyc false with mode := .idle, task := none } else s
    | none => s) s
  let s := ks.foldl (fun s k => (s.freeBoxes k).freeSave k) s
  let gone (st : Stall) : Bool := match st.agent with
    | .clane _ | .fst _ => ks.contains (s.word st.word).task
    | .sched _ => ks.contains st.word
    | .seq u | .lane u => (s.unit u).task.isNone
    | _ => false
  let s := { s with stalls := s.stalls.filter fun st => !gone st }
  let s := s.freeChildren ks
  { s with launches := s.launches.filter fun e => !ls.contains e.1 }

/-- The steps of R386 for one VF: packets of its circuits, queues and receive buffers go, then its tasks; the order of the two is not
seen from outside, where both are done in one step. -/
def State.flrVf (s : State) (fn : Nat) : State :=
  let s := s.purgeCol fn
  let s := (s.peers.map (·.1)).foldl (fun (s : State) p => s.purgePort fn p) s
  let s := { s with xin := s.xin.filter fun m => decide (m.fn ≠ fn), recQ := s.recQ.filter fun r => decide (r.ring ≠ RingId.fault fn) }
  let s := s.dropFnTasks fn
  let s := { s with frozen := s.frozen.filter fun m => !s.masterOfFn fn m }
  (s.zeroDoor fn).event 8 0 fn 0 0

/-- FLR (R386): of a VF, or of the PF on a port: every VF enabled there, then the PF's doorbell page. -/
def execFlr (fn port : Nat) (s : State) : Out :=
  if !s.fnOn fn port then noEvent s "the function is not on the port"
  else if fn ≠ 0 then .next (s.flrVf fn)
  else
    let vfs := (List.range 193).filter fun n => n ≠ 0 && s.vfPort n = some port
    .next ((vfs.foldl State.flrVf s).zeroPage 0)

/-! ## Command processors (R409, R410) -/

/-- A lockstep mismatch of pair `u` (0-7 the dies, 8 Steppe): dispatch freezes; a mailbox command in progress on Steppe's
pair ends with RESULT 0xFD. -/
def State.cpMismatch (s : State) (u : Nat) : State :=
  let s := { s with cps := s.cps.upd u fun c => { c with frozen := true } }
  if u = 8 && s.mbox.busy then s.mboxDone 0xFD 0 else s

/-- CP_LOCKSTEP_MISMATCH (R409). -/
def execCpLockstepMismatch (u : Nat) (s : State) : Out :=
  let c := s.cps.get u
  if u > 8 || c.frozen || c.dead || !s.pwr.ready then noEvent s "the pair does not run"
  else .next (s.cpMismatch u)

/-- CP_RESTART_COMPLETE (R409, R410): the image is verified; a bad one leaves dispatch frozen for good. -/
def execCpRestartComplete (u : Nat) (s : State) : Out :=
  let c := s.cps.get u
  if !c.frozen || c.dead then noEvent s "the pair is not restarting"
  else
    let c := { c with restarts := (c.restarts + 1) % 2 ^ 32 }
    .next { s with cps := s.cps.put u (if c.bad then { c with dead := true } else { c with frozen := false }) }

/-! ## On-chip SRAM (R399) -/

/-- An error-log record of an SRAM structure: SRAM set, ADDR the offset in it, `n` bits corrected. -/
def State.sramLog (s : State) (ctx : Ctx) (sev act off n : Nat) : State :=
  s.post .err (errRecord s ctx sev act 32 0 1 0 off n)

/-- The context of a record of Steppe's structures (R399): DIE 0. -/
def steppeCtx (a : Agent) : Ctx := ⟨a, 0, 0, 0xFFFFFFFF, 0, false, none, false⟩

/-- The committed copy of a phase holds the byte that fails: a copy of the registers, a shadow of a tile, or the second space
of a staged box. Which of the two is the copy is not stated, so a free value says it (log 34). -/
def State.inCopy (s : State) (u : Nat) (x : Sram) (off : Nat) : State × Bool :=
  let two := s.prot u && (match x with
    | .regs | .descs => true
    | .acc => decide (off < (s.unit u).regs.acc * 2 * 65536)
    | .spad => (s.taskOf u).boxes.any fun e => e.2.staged && e.2.scope = .scratch
        && decide (e.2.base ≤ off) && decide (off < e.2.base + 2 * e.2.allocBytes)
    | _ => false)
  if two then let (s, b) := s.freeBits 1; (s, b = [true]) else (s, false)

/-- An uncorrectable error of a unit's own structure: row 0 of the owning context with ACCEPT and POISON taken as CANCEL, HALT
in a committed copy. A restore under way renews what has failed; at a TEND no phase is left to cancel; a sequencer's error,
having no phase, ends its task (log 34). -/
def State.unitSram (s : State) (u : Nat) (st : Sram) (sev off : Nat) : State :=
  let ctx : Ctx := { s.ctxOf u with agent := if isSeq u then .seq u else .lane u }
  match (s.unit u).task with
  | none => s.sramLog { ctx with taskid := 0xFFFFFFFF } sev acHalt off 0
  | some _ =>
    let (s, copy) := s.inCopy u st off
    let act := if copy then acHalt else max acCancel (actionOf (s.asids.get ctx.asid).poltab 0 sev)
    let s := s.sramLog ctx sev act off 0
    let x := s.unit u
    let stop : State := s.raise u { x.flt lanS fMemory sev x.vol.lblpc with cyc := x.iss.segcyc } false
    if act ≠ acCancel || isSeq u then stop
    else match x.mode with
      | .restoring => s
      | .tending _ => stop
      | _ => s.raise u { x.flt lanS fCancel sev x.vol.lblpc with cyc := x.iss.segcyc } false

/-- An uncorrectable error of what a scheduler or a cluster store holds for a task: row 0 of its context; CANCEL ends the task,
but cancels the phase of one that runs on a core when the store is a cluster's (R399). -/
def State.taskSram (s : State) (k sev off : Nat) (phase : Bool) : State :=
  let t := s.task k
  let asid := (s.launch t.lid).asid
  let agent : Agent := match phase, t.unit with
    | true, some u => if isSeq u then .seq u else .lane u
    | _, _ => .sched t.die
  let ctx : Ctx := ⟨agent, t.die, asid, t.taskid.toNat, 0, false, none, false⟩
  let act := max acCancel (actionOf (s.asids.get asid).poltab 0 sev)
  let s := s.sramLog ctx sev act off 0
  match t.st with
  | .none | .done => s
  | .running => match t.unit with
    | some u =>
      let x := s.unit u
      let code := if phase && act = acCancel && !isSeq u then fCancel else fMemory
      s.raise u { x.flt lanS code sev x.vol.lblpc with cyc := x.iss.segcyc } false
    | none => s
  | .joining => s.modTask k fun t => { t with how := .fault fMemory sev, endL := t.lbl }
  | _ => s.failPrepared k t.home (fltOf fMemory sev t.lbl)

/-- The task whose box holds a byte of a core's scratchpad: one on the core, or one queued for it or returning from it (R300). -/
def State.spadOwner (s : State) (u off : Nat) : Option Nat :=
  (s.tasks.find? fun e => decide (e.2.unit = some u) && e.2.boxes.any fun b => b.2.present && b.2.scope = .scratch && b.2.mode ≠ .stream
    && decide (b.2.base ≤ off) && decide (off < b.2.base + boxSpace ((s.launch e.2.lid).entryOf e.2.index).prot b.2)).map (·.1)

/-- An error in a scratchpad (R399): of the task that owns the byte. A task that is being prepared or waits there, with no phase to
cancel, is prepared anew on CANCEL and ends on HALT (log 34). -/
def State.spadSram (s : State) (u off : Nat) : State :=
  match s.spadOwner u off with
  | none => s.sramLog { s.ctxOf u with agent := .lane u, taskid := 0xFFFFFFFF } 3 acHalt off 0
  | some k =>
    let t := s.task k
    if t.st = .preparing || t.st = .ready then
      let asid := (s.launch t.lid).asid
      let act := max acCancel (actionOf (s.asids.get asid).poltab 0 3)
      let s := s.sramLog ⟨.sched t.die, t.die, asid, t.taskid.toNat, 0, false, none, false⟩ 3 act off 0
      if act = acCancel then s.unprepare (s.gangTasks k) else s.failPrepared k u (fltOf fMemory 3 t.lbl)
    else if (s.unit u).task = some k then s.unitSram u .spad 3 off
    else s.taskSram k 3 off false

/-- The task whose box holds a byte of a cluster store. -/
def State.storeOwner (s : State) (c off : Nat) : Option Nat :=
  (s.tasks.find? fun e => e.2.boxes.any fun b => b.2.present && b.2.scope = .clstore && b.2.view.isNone && b.2.mode ≠ .root
    && decide (b.2.owner = e.1) && decide (b.2.home = c) && decide (b.2.base ≤ off) && decide (off < b.2.base + b.2.allocBytes)).map (·.1)

/-- A micro-TLB belongs to a lane of the die (R318). -/
def microOf (die key : Nat) : Bool := if key < 1024 then decide (key / 48 = die) else decide ((key - 1024) / 64 = die)

/-- An entry of a die's TLB or micro-TLBs dropped, to be fetched again; die 8 is the host ports' TLB. -/
def State.tlbLose (s : State) (die off : Nat) : State :=
  let main := s.tlb.filter fun e => decide (e.1 = die)
  let micro := if die = 8 then [] else s.utlb.filter fun e => microOf die e.1
  let n := off % max 1 (main.length + micro.length)
  match main[n]?, micro[n - main.length]? with
  | some e, _ => { s with tlb := s.tlb.filter fun x => decide (x ≠ e) }
  | none, some e => { s with utlb := s.utlb.filter fun x => decide (x ≠ e) }
  | none, none => s

/-- The context of a task's own record; all ones where the entry is empty (R400). -/
def State.entryCtx (s : State) (k : Nat) (a : Agent) : Ctx :=
  let t := s.task k
  ⟨a, t.die, (s.launch t.lid).asid, if t.st = .none then 0xFFFFFFFF else t.taskid.toNat, 0, false, none, false⟩

/-- The context of a log record of a structure. -/
def sramCtx (s : State) (x : Sram) (unit : Nat) : Ctx :=
  match x with
  | .hostTlb => steppeCtx (.hostp unit)
  | .peerRx | .peerRetry => steppeCtx (.peerp unit)
  | .colStore | .cpMem => steppeCtx (.cp 8)
  | .tlb | .uncache => ⟨.sched unit, unit, 0, 0xFFFFFFFF, 0, false, none, false⟩
  | .tasktab | .staging => s.entryCtx unit (.sched (s.task unit).die)
  | .clstore => ⟨.seq (384 + unit), unit / 6, 0, 0xFFFFFFFF, 0, false, none, false⟩
  | _ =>
    let c := { s.ctxOf unit with agent := if isSeq unit then Agent.seq unit else .lane unit }
    if (s.unit unit).task.isNone then { c with taskid := 0xFFFFFFFF } else c

/-- SRAM_ERROR (R399): `unit` names the core, sequencer, cluster, die, task, port or pair that has the structure, `off` the
byte in it; a word that is corrected is logged and nothing else. -/
def execSramError (x : Sram) (unit off : Nat) (fatal : Bool) (s : State) : Out :=
  if !fatal then .next (s.sramLog (sramCtx s x unit) 0 0 off 1)
  else match x with
  | .spad => .next (s.spadSram unit off)
  | .acc | .bslot | .afifo | .vq => .next (s.unitSram unit x 3 off)
  | .istore | .queues | .fmtq | .regs | .descs => .next (s.unitSram unit x 5 off)
  | .clstore => match s.storeOwner unit off with
    | some k => .next (s.taskSram k 3 off true)
    | none => .next (s.sramLog (sramCtx s x unit) 3 acHalt off 0)
  | .tlb => .next ((s.tlbLose unit off).sramLog (sramCtx s x unit) 0 0 off 0)
  | .hostTlb => .next ((s.tlbLose 8 off).sramLog (sramCtx s x unit) 0 0 off 0)
  | .uncache =>
    let mine := s.uncache.filter fun e => decide (e.1 = unit)
    let s1 := match mine[off % max 1 mine.length]? with
      | some e => { s with uncache := s.uncache.filter fun y => decide (y ≠ e) }
      | none => s
    .next (s1.sramLog (sramCtx s x unit) 0 0 off 0)
  | .tasktab | .staging =>
    if (s.task unit).st = .none then .next (s.sramLog (sramCtx s x unit) 5 acHalt off 0)
    else .next (s.taskSram unit 5 off false)
  | .peerRx =>
    -- the flit that holds the byte and those behind it are dropped, to be replayed in their order (R384)
    let s1 := s.sramLog (sramCtx s x unit) 0 0 off 0
    let p := s1.peers.get unit
    let n := p.reqs.length
    if n = 0 then .next s1
    else
      let i := off / 256 % n
      .next { s1 with peers := s1.peers.put unit { p with
        reqs := p.reqs.take i, rxseq := p.rxseq - BitVec.ofNat 12 (n - i), nak := true } }
  | .peerRetry =>
    let p := s.peers.get unit
    let s1 := s.sramLog (sramCtx s x unit) 5 acHalt off 0
    match p.kept[off / 256 % max 1 p.kept.length]? with
    | some f =>
      let s1 := { s1 with peers := s1.peers.put unit { p with buf := p.buf.filter fun g => decide (g ≠ f) } }
      .next (s1.loseFlit unit true f)
    | none => .next s1
  | .colStore =>
    let s1 := s.sramLog (sramCtx s x unit) 5 acHalt off 0
    if off < 32 * 4096 then .next { s1 with dests := s1.dests.put (off / 32) none }
    else .next { s1 with policies := s1.policies.drop ((off - 32 * 4096) / 592) }
  | .cpMem =>
    let s1 := s.sramLog (sramCtx s x unit) 5 acHalt off 0
    if unit > 8 || (s.cps.get unit).frozen || (s.cps.get unit).dead then .next s1 else .next (s1.cpMismatch unit)

/-! ## The patrol scrub (R398) -/

/-- PATROL_SCRUB: one sector read under the code the controller holds it in (log 35): a corrected error is written back and
logged, an uncorrectable one, or a sector that has lost data, logged with SCRUB; no action, no value changes. -/
def execPatrolScrub (sector : Nat) (s : State) : Out :=
  if sector % 64 ≠ 0 || !s.physOk sector 64 || !s.pwr.ready || (s.dies.get (sector / 2 ^ 37)).ccur = 3 then
    noEvent s "no such sector, or its die is in C3"
  else
    let ctx : Ctx := ⟨.scrub, sector / 2 ^ 37, 0, 0xFFFFFFFF, 0, false, none, false⟩
    let pr := s.frameProt sector
    let e := examine pr.code sector (s.flips sector) pr.lines
    let lost := s.lostsev.get (sector / 64)
    let sevC := e.sev pr.code e.grps
    let s := s.corrected ctx pr.code 0 sector e 64 0
    let s := if max lost sevC = 0 then s
      else s.post .err (errRecord s ctx (max lost sevC) 0 64 (pcode pr.code) (e.classes e.grps + (if lost ≥ sevC then 8 else 0)) 0 sector 0)
    .next (s.spend sector)

end Sys2Proof.Machine
end

