-- ==== Sys2Proof/Machine/Power.lean ====
section
/-! DEFINITION. Ticks, power and bring-up (spec 20, R382; 23, R413-R424): the frame tick, P-states and swallowing, C-states
and wakes, checkpoints, enables and package reset. -/

namespace Sys2Proof.Machine

/-! ## P-states (R413-R415) -/

/-- PCTL.PREQ write (R414): 5 to 7 leaves PREQ unchanged. -/
def execPctlPreqWrite (die : Nat) (v : BitVec 3) (s : State) : Out :=
  if die ≥ 8 || !s.pwr.ready || v.toNat > 4 then .next s
  else .next ((s.modDies [die] fun x => { x with preq := v.toNat }).beginDrain die)

/-- PCTL.C3OK write (R414). -/
def execPctlC3okWrite (die : Nat) (v : Bool) (s : State) : Out :=
  if die ≥ 8 || !s.pwr.ready then .next s else .next (s.modDies [die] fun x => { x with c3ok := v })

/-- PCTL.SHRINK write (R414, R421). -/
def execPctlShrinkWrite (die : Nat) (v : Bool) (s : State) : Out :=
  if die ≥ 8 || !s.pwr.ready then .next s else .next (s.modDies [die] fun x => { x with shrink := v })

/-- An XSEND or XRECV of the dies is in flight. -/
def State.crossInFlight (s : State) (ds : List Nat) : Bool :=
  s.xwords.any fun e => !e.2.done && ds.contains (dieOf e.2.unit) && (match e.2.kind with | .xsend .. | .xrecv .. => true | _ => false)

/-- One P-state nearer. -/
def towards (a b : Nat) : Nat := if a < b then a + 1 else if b < a then a - 1 else a

/-- PSTATE_CHANGE (R415 step 3): no segment is open and nothing crosses; voltage and clock move one P-state. -/
def execPstateChange (die : Nat) (s : State) : Out :=
  let ds := s.clockDies die
  let p := s.pTarget die
  if die ≥ 8 || !(s.dies.get die).drain || !s.pWanted die then noEvent s "no change is under way"
  else if s.anyUnit ds (fun x => decide (x.mode = .seg)) || s.crossInFlight ds then noEvent s "the dies have not drained"
  else .next (s.modDies ds fun x => { x with pcur := towards x.pcur p })

/-! ## Swallowing (R416) -/

/-- MODPWR write (R416). -/
def execModpwrWrite (v : BitVec 64) (s : State) : Out :=
  if !s.pwr.ready then .next s else .next { s with pwr := { s.pwr with modpwr := v.setWidth 16 } }

/-- The cap in force in units of 10 W; none for no cap. -/
def capOf (v : BitVec 16) : Option Nat := if v = 0#16 then none else some (max v.toNat 90)

/-- A swallow count moved by `k` of at most 4, up where the power is above its cap. -/
def swallow (above : Bool) (k s : Nat) : Nat := if above then min 63 (s + k % 5) else s - k % 5

/-- The dies that lead: the lowest of each group and each die outside a group. -/
def State.leads (s : State) : List Nat := (List.range 8).filter fun d => (s.clockDies d).head? = some d

/-- Swallow counts at a tick: how far each moves, and the measured power, are free (log 12). -/
def State.swallowTick (s : State) : State :=
  let above := match capOf s.pwr.modpwr with | some c => decide (Config.measuredPower s.frees > c) | none => false
  let s := { s with frees := s.frees + 1 }
  s.leads.foldl (fun (s : State) d =>
    let v := swallow above (Config.choice s.frees) (s.dies.get d).swal
    { s.modDies (s.clockDies d) (fun x => { x with swal := v }) with frees := s.frees + 1 }) s

/-! ## The frame tick (R256-R258, R382) -/

/-- Units that stand at a SYNC bound to the present tick (R227, R258). -/
def State.atTick (s : State) : List Nat :=
  (s.units.filter fun e => decide (e.2.mode = .sync) && e.2.real = some s.frame.toNat).map (·.1)

/-- SYNCs bound to the tick issue on its edge; one that cannot is a schedule miss (R227). -/
def State.syncTick (s : State) : State :=
  let us := s.atTick
  let s := us.foldl State.trySync s
  us.foldl (fun (s : State) u =>
    let x := s.unit u
    if x.mode = .sync && x.real = some s.frame.toNat then
      s.raise u { x.flt lanS fScheduleMiss 9 x.vol.lblpc with cyc := 0xFFFFFFFF } false
    else s) s

/-- Changes that have reached their P-state let the held SYNCs go, others begin (R415). -/
def State.drainTick (s : State) : State :=
  (List.range 8).foldl (fun (s : State) d =>
    if !s.pWanted d then s.modDies [d] fun x => { x with drain := false } else s.beginDrain d) s

/-- A microsecond within a tick period passes (R382): DEVTIME rises by 1, three times between two ticks. It waits for the timetabled
starts of the present one. -/
def State.micro (s : State) : Option State :=
  if s.pwr.ready && decide (s.devtime.toNat % 4 ≠ 3) && !(s.tasks.any fun e => s.startDue e.1)
  then some { s with devtime := s.devtime + 1 } else none

/-- FRAME_TICK (R257, R382, R415, R416): the fourth microsecond of a period is the tick: FRAME rises, and DEVTIME with it. It
waits for the timetabled starts of the present microsecond. -/
def execFrameTick (s : State) : Out :=
  if !s.pwr.ready || s.devtime.toNat % 4 ≠ 3 then noEvent s "no tick comes yet"
  else if s.tasks.any (fun e => s.startDue e.1) then noEvent s "a timetabled start is due"
  else
    let s := { s.countOff with frame := s.frame + 1, devtime := s.devtime + 1 }
    .next s.swallowTick.drainTick.retuneTick.syncTick

/-! ## C-states (R418-R420) -/

/-- LTOL write (R419). -/
def execLtolWrite (fn : Nat) (v : BitVec 64) (s : State) : Out :=
  if fn > 192 || !s.pwr.ready then .next s
  else .next { s with fns := s.fns.upd fn fun f => { f with ltol := v.setWidth 32 } }

/-- A function is active on a die (R419). -/
def State.activeOn (s : State) (fn d : Nat) : Bool :=
  s.launches.any fun e => e.2.live && decide (e.2.fn = fn) && (e.2.dies.getLsbD d ||
    s.tasks.any fun t => decide (t.2.lid = e.1) && decide (t.2.die = d) && decide (t.2.st ≠ .done))

/-- Tmin of R419; none where it is unbounded. -/
def State.tmin (s : State) (d : Nat) : Option Nat :=
  ((List.range 193).filter fun fn => s.activeOn fn d).foldl (fun (m : Option Nat) fn =>
    let t := (s.fns.get fn).ltol.toNat
    match m with | some x => some (min x t) | none => some t) none

/-- A die is idle (R419). -/
def State.dieIdle (s : State) (d : Nat) : Bool :=
  !(s.tasks.any fun e => decide (e.2.st ≠ .done) && (match e.2.unit with | some u => decide (dieOf u = d) | none => false))
  && !(s.xwords.any fun e => decide (dieOf e.2.unit = d) && (!e.2.done || decide (e.2.cstat = .released)))
  && !(s.launches.any fun e => e.2.live && e.2.levels.any (·.timed) && (s.dies.get d).group = some e.2.tgroup)

/-- Wake times (R418) in µs. -/
def wakeUs (c : Nat) : Nat := if c = 0 then 0 else if c = 1 then 2 else if c = 2 then 60 else 2000

/-- The conditions of R418, R419 and R421 on a C-state. -/
def State.cAllowed (s : State) (d c : Nat) : Bool :=
  let x := s.dies.get d
  let bound := s.launches.any fun e => e.2.live && e.2.dies.getLsbD d
  (match s.tmin d with | some t => decide (wakeUs c ≤ t) | none => true)
  && (decide (c < 3) || (x.c3ok && !(x.shrink && bound)))
  && (decide (c < 2) || (!(s.tasks.any fun e => decide (e.2.die = d) && (e.2.st = .parked || e.2.st = .spawned))
    && (List.range 6).all fun q => (s.clused.get (6 * d + q)).isEmpty))

/-- The deepest C-state an idle die may enter. -/
def State.deepest (s : State) (d : Nat) : Nat := ([3, 2, 1].find? fun c => s.cAllowed d c).getD 0

/-- Stores that lose their content in C2 and C3 (R418) read as memory nothing has written (log 2). -/
def State.loseStores (s : State) (d : Nat) : State :=
  { s with
    units := s.units.map fun e => if dieOf e.1 = d then (e.1, { e.2 with spad := [], regs := { e.2.regs with tiles := [] } }) else e
    clstore := s.clstore.filter fun e => decide (e.1 / 6 ≠ d) }

/-- CSTATE_ENTRY (R419): an idle die enters the deepest C-state that meets the conditions: a deeper one than its own, or a shallower
one when its own meets them no longer. -/
def execCstateEntry (die : Nat) (s : State) : Out :=
  let c := s.deepest die
  if !s.dieLive die || !s.dieIdle die || c = (s.dies.get die).ccur then noEvent s "the die enters no other C-state"
  else
    let s := s.modDies [die] fun x => { x with ccur := c }
    .next (if c ≥ 2 then s.loseStores die else s)

/-- What wakes a die beside an access to its memory (R420): a mailbox command that names it, or a task that is eligible for it (R301),
its context not pre-empted (R308). A PARKED task is SPAWNED again when it is eligible (R306). -/
def State.wakeWanted (s : State) (d : Nat) : Bool :=
  s.mboxNames d || s.tasks.any fun e => decide (e.2.st = .spawned) && decide (s.pickDie e.1 = d)
    && !(s.asids.get (s.launch e.2.lid).asid).off

/-- DIE_WAKE (R420). An access to the memory of a die in C3 wakes it in its own step. -/
def execDieWake (die : Nat) (s : State) : Out :=
  if (s.dies.get die).ccur = 0 || !s.wakeWanted die then noEvent s "the die is awake or nothing wakes it"
  else .next (s.modDies [die] fun x => { x with ccur := 0 })

/-! ## Checkpoints (R422) -/

/-- Blocks of one die: the last is padded with zeros (DEDUCED, log 37). -/
def ckBlocks : Nat := (dieBytes + 65535) / 65536

def ckRecord : Nat := 65696

def State.liveDies (s : State) : List Nat := (List.range 8).filter s.dieLive

/-- Die and block number of the block that is next. -/
def State.ckWhere (s : State) : Option (Nat × Nat) :=
  (s.liveDies[s.pwr.ckNext / ckBlocks]?).map fun d => (d, s.pwr.ckNext % ckBlocks)

/-- Where a block's record stands in host memory: one stream a port, dies and addresses ascending (R422 step 3). -/
def State.ckPlace (s : State) (d i : Nat) : Nat :=
  let b := if d % 2 = 0 then s.pwr.ckBase0 else s.pwr.ckBase1
  let before := (s.liveDies.filter fun e => decide (e < d) && decide (e % 2 = d % 2)).length
  b.toNat + ckRecord * (ckBlocks * before + i)

/-- Severity of a sector as a checkpoint finds it: LOSTSEV, or an uncorrectable error under the code it is held in (log 35). -/
def State.ckSev (s : State) (sector : Nat) : Nat :=
  let pr := s.frameProt sector
  let e := examine pr.code sector (s.flips sector) pr.lines
  max (s.lostsev.get (sector / 64)) (e.sev pr.code e.grps)

/-- A block as read: corrected where its codes correct it, else as stored. -/
def State.ckBlock (s : State) (addr : Nat) : List Byte :=
  if s.cells.isEmpty then Mem.bytes s.dev addr 65536
  else (List.range 1024).flatMap fun j =>
    let pr := s.frameProt (addr + 64 * j)
    s.seenSector pr.code (addr + 64 * j) pr.lines

/-- Corrected sectors of a block written back and logged (R398). -/
def State.ckRenew (s : State) (addr : Nat) : State :=
  (uniq ((s.cells.filter fun c => decide (addr ≤ c.sector) && decide (c.sector < addr + 65536)).map (·.sector))).foldl
    (fun (s : State) sec =>
      let pr := s.frameProt sec
      s.corrected { steppeCtx (.cp 8) with die := sec / 2 ^ 37 } pr.code 0 sec (examine pr.code sec (s.flips sec) pr.lines) 0 0) s

/-- The nonce of a block: serial, then ADDR (R422). -/
def ckNonce (serial : BitVec 32) (addr : Nat) : List Byte := leBytes 4 serial.toNat ++ leBytes 8 addr

/-- A checkpoint's quiesce (R422 steps 1, 2): every context is off its units and every untimed word has completed. -/
def State.ckQuiet (s : State) : Bool :=
  s.units.all (fun e => e.2.task.isNone) && s.xwords.all (fun e => e.2.done && decide (e.2.cstat ≠ .released))
  && s.asids.all fun e => e.2.pre.isNone

/-- CHECKPOINT_SAVE (R422 step 3): one 64 KiB block becomes one record, which passes the Col unexamined (R361, R363). -/
def execCheckpointSave (s : State) : Out :=
  if s.pwr.ckKind ≠ 1 || !s.ckQuiet then noEvent s "no save is under way or contexts are still running"
  else match s.ckWhere with
  | none => noEvent s "every block is saved"
  | some (d, i) =>
    let addr := d * 2 ^ 37 + 65536 * i
    let sevs := (List.range 1024).map fun j => s.ckSev (addr + 64 * j)
    let map := sevs.zipIdx.foldl (fun m e => if e.1 = 0 then m else m + 2 ^ e.2) 0
    let head := leBytes 8 addr ++ leBytes 1 (sevs.foldl max 0) ++ leBytes 7 0 ++ leBytes 128 map
    let r := gcmSeal packageKey (ckNonce s.pwr.serial addr) head (s.ckBlock addr)
    let s := (s.ckRenew addr).dropExpired
    .next { s with
      hostMem := Mem.write s.hostMem (s.ckPlace d i) (head ++ r.1 ++ r.2)
      pwr := { s.pwr with ckNext := s.pwr.ckNext + 1 } }

/-- One sector of a restored block written back with fresh check bits (R397): flagged sectors take LOSTSEV := SEV. -/
def State.ckSector (s : State) (sector sev : Nat) (flagged : Bool) (bs : List Byte) : State :=
  { s with
    dev := Mem.write s.dev sector bs
    lostsev := s.lostsev.put (sector / 64) (if flagged then sev else 0)
    cells := s.cells.filter fun c => !(decide (c.sector = sector)) || (match c.kind with | .stuck _ => true | _ => false) }

/-- CHECKPOINT_RESTORE (R422): one record is opened and its block written back; a bad tag ends the restore. -/
def execCheckpointRestore (s : State) : Out :=
  if s.pwr.ckKind ≠ 2 then noEvent s "no restore is under way"
  else match s.ckWhere with
  | none => noEvent s "every block is restored"
  | some (d, i) =>
    let addr := d * 2 ^ 37 + 65536 * i
    let r := Mem.bytes s.hostMem (s.ckPlace d i) ckRecord
    let head := r.take 144
    match gcmOpen packageKey (ckNonce s.pwr.serial addr) head ((r.drop 144).take 65536) (r.drop 65680) with
    | none => .next { s with pwr := { s.pwr with ckKind := 3 } }
    | some bs =>
      let map := fld head 16 128
      let n := min 1024 ((dieBytes - 65536 * i) / 64)
      let s := (List.range n).foldl (fun (s : State) j =>
        s.ckSector (addr + 64 * j) (fld head 8 1) (map.testBit j) ((bs.drop (64 * j)).take 64)) s
      .next { s with pwr := { s.pwr with ckNext := s.pwr.ckNext + 1 } }

/-- CHECKPOINT_COMPLETE (R422): BUSY clears; DONE after the last block, FAIL after a bad tag. -/
def execCheckpointComplete (s : State) : Out :=
  let p := s.pwr
  if p.ckKind = 3 then .next { s with pwr := { p with ckKind := 0, ckNext := 0, ckBusy := false, ckFail := true } }
  else if p.ckKind ≠ 0 && s.ckWhere.isNone then
    .next { s with pwr := { p with ckKind := 0, ckNext := 0, ckBusy := false, ckDone := true } }
  else noEvent s "no checkpoint or restore has finished"

/-- A write of CKCTL (R422): ignored while BUSY; DONE and FAIL are W1C. A start clears DONE, a restore's FAIL with it
(log 37); SAVE goes before RESTORE. -/
def State.ckctl (s : State) (v : BitVec 64) : State :=
  let p := s.pwr
  if p.ckBusy then s
  else
    let p := { p with ckDone := p.ckDone && !v.getLsbD 3, ckFail := p.ckFail && !v.getLsbD 4 }
    if v.getLsbD 0 then
      let s := { s with pwr := { p with ckBusy := true, ckDone := false, ckKind := 1, ckNext := 0, serial := p.serial + 1 } }
      s.asids.foldl (fun (s : State) e => if e.2.live then s.preemptAs e.1 else s) s
    else if v.getLsbD 1 && !(s.launches.any fun e => e.2.live) then
      { s with pwr := { p with ckBusy := true, ckDone := false, ckFail := false, ckKind := 2, ckNext := 0 } }
    else { s with pwr := p }

/-! ## Enables and bring-up (R423, R424) -/

/-- CAP0 to CAP3 of the part (R423). -/
def State.capWord (s : State) (i : Nat) : BitVec 64 :=
  if i = 0 then 0x3FF#64 else if i = 1 then s.liveMask.setWidth 64 else 0#64

/-- EN_WRITE (R423): ignored while a launch runs; CORE stays set, bits without their CAP bit stay clear. With PEER clear
the peer ports are down. -/
def execEnWrite (i : Nat) (v : BitVec 64) (s : State) : Out :=
  if !s.pwr.ready || s.launches.any (fun e => e.2.live) then .next s
  else
    let w := v &&& s.capWord i
    let was := s.feature 8
    match i with
    | 0 =>
      let s := { s with pwr := { s.pwr with en0 := w ||| 1#64 } }
      .next (if was && !s.feature 8 then (List.range 32).foldl State.linkFail s
        else if !was && s.feature 8 then { s with peers := (List.range 32).foldl (fun t p => t.upd p fun q => { q with up := true }) s.peers }
        else s)
    | 1 => .next { s with pwr := { s.pwr with en1 := w } }
    | 2 => .next { s with pwr := { s.pwr with en2 := w } }
    | _ => .next { s with pwr := { s.pwr with en3 := w } }

/-- What a package reset leaves as it was: memories and their cells, the monotonic serial, fuses, firmware and images,
and what is to come from outside. -/
def State.afterReset (s : State) : State :=
  { State.reset with
    dev := s.dev, lostsev := s.lostsev, cells := s.cells, upsets := s.upsets
    hostMem := s.hostMem, peerMem := s.peerMem, inputs := s.inputs, choices := s.choices, frees := s.frees
    cps := (List.range 9).foldl (fun t u => t.put u { (default : Cp) with bad := (s.cps.get u).bad }) []
    pwr := { Pwr.reset with
      serial := s.pwr.serial, fwOk := s.pwr.fwOk, fuseOk := s.pwr.fuseOk, liveF := s.pwr.liveF } }

/-- Dies whose training fails are not live: which, is chance (log 95). -/
def State.trainDies (s : State) : State :=
  let (s, ok) := s.freeBits 8
  { s with dies := s.dies.map fun (e : Nat × Die) => (e.1, { e.2 with live := e.2.live && ok.getD e.1 false }) }

def State.atStage (s : State) (n : Nat) : State := { s with pwr := { s.pwr with stage := n } }

/-- Bring-up stops with its cause (R424). -/
def State.bootFail (s : State) (e : Nat) : State := { s with pwr := { s.pwr with fail := true, error := e } }

/-- The stage in progress ends (R424): the firmware is verified, fuses are read, stacks and circuits trained, images checked; with the
last, READY stands and EN is equal to CAP. -/
def State.boot (s : State) : Option State :=
  let p := s.pwr
  if p.ready || p.fail then none
  else some (match p.stage with
    | 2 => if p.fwOk then s.atStage 3 else s.bootFail 2
    | 3 =>
      if p.fuseOk then
        ({ s with dies := (List.range 8).foldl (fun t d => t.put d { Die.reset with live := p.liveF.getLsbD d }) [] } : State).atStage 4
      else s.bootFail 3
    | 4 => s.trainDies.atStage 5
    | 5 => ({ s.trainDies with conn := connReset } : State).atStage 6
    | 6 =>
      ({ s with cps := s.cps.map fun (e : Nat × Cp) =>
          (e.1, if e.2.bad then { e.2 with frozen := true, dead := true } else e.2) } : State).atStage 7
    | 7 => { s with pwr := { p with ready := true, en1 := s.liveMask.setWidth 64 } }
    | _ => s.atStage 2)

/-- PACKAGE_RESET (R424): stage 1 begins; from there bring-up goes on stage by stage (`State.boot`) to READY, or to FAIL with its
cause. -/
def execPackageReset (s : State) : Out := .next s.afterReset

end Sys2Proof.Machine
end

