-- ==== Sys2Proof/Machine/Regs.lean ====
section
/-! DEFINITION. The register space of BAR0 (spec 20, R370-R377; 23; 22, R410): what a read returns, and writes of
registers that have no row of their own. Offsets are those of R371; VF n's doorbell page is named 2^24 + 2^16 × n in
this one numbering (DESIGN CHOICE, log 38). -/

namespace Sys2Proof.Machine

/-! ## Rings and chains -/

/-- A base address of rings and chains: bits [51:12] (R309, R372, R422). -/
def baseMask (v : BitVec 64) : BitVec 64 := v &&& 0x000FFFFFFFFFF000#64

/-- LOG2N as written: a value outside 4-16 leaves the field (DESIGN CHOICE, log 38). -/
def log2nOf (old : Nat) (v : BitVec 64) : Nat :=
  let n := bits v.toNat 4 0
  if 4 ≤ n && n ≤ 16 then n else old

/-- A write of a ring's BASE or control word (R372). -/
def Ring.write (x : Ring) (o : Nat) (v : BitVec 64) : Ring :=
  match o with
  | 0x00 => { x with base := (baseMask v).toNat }
  | 0x08 => { x with log2n := log2nOf x.log2n v, en := v.getLsbD 8, ovf := x.ovf && !v.getLsbD 9 }
  | _ => x

def Ring.read (x : Ring) (o : Nat) : BitVec 64 :=
  match o with
  | 0x00 => BitVec.ofNat 64 x.base
  | 0x08 => BitVec.ofNat 64 (x.log2n + 256 * b2n x.en + 512 * b2n x.ovf)
  | 0x10 => x.head
  | 0x18 => x.tail
  | _ => 0#64

/-- A write of a chain's CHBASE or control word (R309). -/
def Chain.write (c : Chain) (o : Nat) (v : BitVec 64) : Chain :=
  match o with
  | 0x00 => { c with base := (baseMask v).toNat }
  | 0x08 =>
    let c := { c with log2n := log2nOf c.log2n v, en := v.getLsbD 8 }
    if v.getLsbD 9 && !c.en then { c with tail := 0#64, head := 0#64, cseq := 0#64, fin := [] } else c
  | _ => c

def Chain.read (c : Chain) (o : Nat) : BitVec 64 :=
  match o with
  | 0x00 => BitVec.ofNat 64 c.base
  | 0x08 => BitVec.ofNat 64 (c.log2n + 256 * b2n c.en)
  | 0x10 => c.tail
  | 0x18 => c.head
  | 0x20 => c.cseq
  | _ => 0#64

/-! ## Doorbell pages (R374, R375) -/

/-- Vectors of a function (R375). -/
def vectors (fn : Nat) : Nat := if fn = 0 then 10 else 5

/-- A vector unmasked while pending fires (PRESUMED, log 39). -/
def State.unmask (s : State) (fn v : Nat) : State :=
  let f := s.fns.get fn
  if f.pba.getLsbD v && !f.masked v then
    { s with fns := s.fns.put fn { f with pba := f.pba &&& ~~~(1#16 <<< v) }, irqs := s.irqs ++ [(fn, v)] }
  else s

/-- A write into a doorbell page. -/
def State.doorWrite (s : State) (fn o : Nat) (v : BitVec 64) : State :=
  if o < 0x400 then s.setChain fn (o / 0x100) ((s.chain fn (o / 0x100)).write (o % 0x100) v)
  else if o < 0x420 then { s with fns := s.fns.upd fn fun f => { f with ring := f.ring.write (o - 0x400) v } }
  else if 0x1000 ≤ o && o < 0x1000 + 16 * vectors fn then
    let i := (o - 0x1000) / 8
    ({ s with fns := s.fns.upd fn fun f => { f with msix := f.msix.put i v } } : State).unmask fn (i / 2)
  else s

def State.doorRead (s : State) (fn o : Nat) : BitVec 64 :=
  let f := s.fns.get fn
  if o < 0x400 then (f.chains.get (o / 0x100)).read (o % 0x100)
  else if o < 0x420 then f.ring.read (o - 0x400)
  else if 0x1000 ≤ o && o < 0x1000 + 16 * vectors fn then f.msix.get ((o - 0x1000) / 8)
  else if o = 0x2000 then f.pba.setWidth 64
  else 0#64

/-! ## The register space -/

/-- PCTL and PSTAT of a die (R414, R417). -/
def State.pctl (s : State) (d : Nat) : BitVec 64 :=
  let x := s.dies.get d
  BitVec.ofNat 64 (x.preq + 8 * b2n x.c3ok + 16 * b2n x.shrink)

/-- A task is on a die (R417): in its task table, parked and waiting ones too (R421). -/
def State.onDie (s : State) (d : Nat) : Bool :=
  s.tasks.any fun e => decide (e.2.st ≠ .done) && decide (e.2.st ≠ .none) && decide (e.2.die = d)

def State.pstat (s : State) (d : Nat) : BitVec 64 :=
  let x := s.dies.get d
  BitVec.ofNat 64 (x.pcur + 8 * x.ccur + 32 * x.swal + 2048 * b2n x.drain + 4096 * b2n (x.shrink && !s.onDie d))

/-- BOOTSTAT (R424). -/
def State.bootstat (s : State) : BitVec 64 :=
  let p := s.pwr
  BitVec.ofNat 64 (p.stage + 16 * b2n p.ready + 32 * b2n p.fail + 256 * p.error + 65536 * s.liveMask.toNat)

/-- PEERSTAT (R371): its words in an order the spec does not give (DESIGN CHOICE, log 38): state and rate, retries, lost
COUT.NA flits. -/
def State.peerstat (s : State) (p w : Nat) : BitVec 64 :=
  let x := s.peers.get p
  match w with
  | 0 => BitVec.ofNat 64 (b2n x.up + 65536 * x.rate)
  | 1 => BitVec.ofNat 64 x.retry
  | 2 => BitVec.ofNat 64 x.lost
  | _ => 0#64

/-- CPSTAT (R410). -/
def State.cpstat (s : State) (u : Nat) : BitVec 64 :=
  let c := s.cps.get u
  BitVec.ofNat 64 (c.restarts % 2 ^ 32 + 2 ^ 32 * b2n c.frozen + 2 ^ 33 * b2n c.dead)

/-- EN0 to EN3. -/
def State.enWord (s : State) (i : Nat) : BitVec 64 :=
  match i with
  | 0 => s.pwr.en0
  | 1 => s.pwr.en1
  | 2 => s.pwr.en2
  | _ => s.pwr.en3

/-- A ring of the PF's space by number (R371). -/
def ringOfNum (n : Nat) : RingId :=
  match n with
  | 0 => .fq
  | 1 => .ev
  | 2 => .col
  | _ => .err

/-- MBOXSTAT (R377). -/
def Mbox.stat (m : Mbox) : BitVec 64 := BitVec.ofNat 64 (b2n m.busy + 256 * m.result.toNat + 65536 * m.handle.toNat)

/-- The power block (R414-R424), from 0x0008_0000. -/
def State.powerRead (s : State) (o : Nat) : BitVec 64 :=
  if o < 0x40 then s.pctl (o / 8)
  else if o < 0x80 then s.pstat ((o - 0x40) / 8)
  else if o = 0x80 then s.pwr.modpwr.setWidth 64
  else if o = 0x200 then BitVec.ofNat 64 (4 * b2n s.pwr.ckBusy + 8 * b2n s.pwr.ckDone + 16 * b2n s.pwr.ckFail)
  else if o = 0x208 then s.pwr.ckBase0
  else if o = 0x210 then s.pwr.ckBase1
  else if o = 0x300 then s.bootstat
  else if 0x1000 ≤ o && o < 0x1000 + 8 * 193 then (s.fns.get ((o - 0x1000) / 8)).ltol.setWidth 64
  else 0#64

/-- A read of BAR0 at an offset, 64 bits (16 at DLAT): R371. Until READY only IDENT and BOOTSTAT answer (R424). -/
def State.barRead (s : State) (off : Nat) : BitVec 64 :=
  if off = 0 then 0x0000076847505A08#64
  else if off = 0x80300 then s.bootstat
  else if !s.pwr.ready then 0#64
  else if 0x1000 ≤ off && off < 0x1020 then s.capWord ((off - 0x1000) / 8)
  else if 0x1020 ≤ off && off < 0x1040 then s.enWord ((off - 0x1020) / 8)
  else if off = 0x10000 then s.mbox.addr
  else if off = 0x10008 then s.mbox.len
  else if off = 0x10010 then s.mbox.cmd.setWidth 64
  else if off = 0x10018 then s.mbox.stat
  else if 0x20000 ≤ off && off < 0x20400 then (s.ring (ringOfNum ((off - 0x20000) / 0x100))).read (off % 0x100)
  else if 0x30008 ≤ off && off < 0x30000 + 8 * 193 then (s.fns.get ((off - 0x30000) / 8)).vftab.setWidth 64
  else if 0x40000 ≤ off && off < 0x40080 then BitVec.ofNat 64 (s.dlatOf ((off - 0x40000) / 16) ((off - 0x40000) / 2 % 8))
  else if off = 0x40100 then s.devtime
  else if off = 0x40108 then s.frame
  else if 0x50000 ≤ off && off < 0x50800 then s.peerstat ((off - 0x50000) / 64) (off / 8 % 8)
  else if 0x60000 ≤ off && off < 0x70000 then s.doorRead 0 (off - 0x60000)
  else if 0x70100 ≤ off && off < 0x70148 then s.cpstat ((off - 0x70100) / 8)
  else if 0x80000 ≤ off && off < 0x82000 then s.powerRead (off - 0x80000)
  else if 2 ^ 24 + 2 ^ 16 ≤ off && off < 2 ^ 24 + 2 ^ 16 * 193 then s.doorRead ((off - 2 ^ 24) / 2 ^ 16) (off % 2 ^ 16)
  else 0#64

/-- A write of MBOXCMD (R377): BUSY is set; while it is set the write is ignored and event 6 posted. An invalidation begins with it:
accesses translated from then on walk the tables (R323). -/
def State.mboxCmd (s : State) (v : BitVec 64) : State :=
  if s.mbox.busy then s.event 6 0 0 0 0
  else
    let s := { s with mbox := { s.mbox with cmd := v.setWidth 8, busy := true } }
    match (if v.setWidth 8 = 3#8 then invalidation s.payload else none) with
    | some (asid, r) => s.tlbDrop asid r
    | none => s

/-- A W1C count of a peer port. -/
def w1c (n : Nat) (v : BitVec 64) : Nat := (BitVec.ofNat 64 n &&& ~~~v).toNat

/-- Offsets of a doorbell page with rows of their own: TAIL of a chain, HEAD of the ring. -/
def doorOwn (o : Nat) : Bool := (decide (o < 0x400) && decide (o % 0x100 = 0x10)) || decide (o = 0x410)

/-- Offsets of the PF's space whose writes are rows of their own. -/
def ownRow (off : Nat) : Bool :=
  (0x1020 ≤ off && off < 0x1040) || (0x20000 ≤ off && off < 0x20400 && off % 0x100 = 0x10)
  || (0x21000 ≤ off && off < 0x21040) || (0x30008 ≤ off && off < 0x30000 + 8 * 193) || off = 0x70000
  || (0x80000 ≤ off && off < 0x80040) || off = 0x80080 || (0x81000 ≤ off && off < 0x81000 + 8 * 193)
  || (0x60000 ≤ off && off < 0x70000 && doorOwn (off - 0x60000))
  || (2 ^ 24 + 2 ^ 16 ≤ off && off < 2 ^ 24 + 2 ^ 16 * 193 && doorOwn (off % 2 ^ 16))

/-- A write of BAR0 at an offset, as R6's access codes say. -/
def State.barWrite (s : State) (off : Nat) (v : BitVec 64) : State :=
  if off = 0x10000 then { s with mbox := { s.mbox with addr := v } }
  else if off = 0x10008 then { s with mbox := { s.mbox with len := v } }
  else if off = 0x10010 then s.mboxCmd v
  else if 0x20000 ≤ off && off < 0x20400 then
    let r := ringOfNum ((off - 0x20000) / 0x100)
    s.setRing r ((s.ring r).write (off % 0x100) v)
  else if 0x50000 ≤ off && off < 0x50800 then
    match off / 8 % 8 with
    | 1 => { s with peers := s.peers.upd ((off - 0x50000) / 64) fun p => { p with retry := w1c p.retry v } }
    | 2 => { s with peers := s.peers.upd ((off - 0x50000) / 64) fun p => { p with lost := w1c p.lost v } }
    | _ => s
  else if 0x60000 ≤ off && off < 0x70000 then
    let (s, frozen) := s.doorFrozen 0
    if frozen then s else s.doorWrite 0 (off - 0x60000) v
  else if off = 0x80200 then s.ckctl v
  else if off = 0x80208 then (if s.pwr.ckBusy then s else { s with pwr := { s.pwr with ckBase0 := baseMask v } })
  else if off = 0x80210 then (if s.pwr.ckBusy then s else { s with pwr := { s.pwr with ckBase1 := baseMask v } })
  else if 2 ^ 24 + 2 ^ 16 ≤ off && off < 2 ^ 24 + 2 ^ 16 * 193 then
    let fn := (off - 2 ^ 24) / 2 ^ 16
    let (s, frozen) := s.doorFrozen fn
    if s.doorShut fn || frozen then s else s.doorWrite fn (off % 2 ^ 16) v
  else s

/-- THAW as written (R407); a reserved MASTER is ignored. -/
def thawWrite (v : BitVec 64) (s : State) : Out :=
  let unit := bits v.toNat 15 3
  let asid := bits v.toNat 25 16
  match bits v.toNat 2 0 with
  | 0 => execThawCoreContext unit asid s
  | 1 => execThawHostFunction unit (b2n (v.getLsbD 26)) s
  | 2 => execThawDebugSession s
  | 4 => execThawPeerPort unit s
  | 5 => execThawQuarantinedCore unit s
  | 6 => execThawSequencerContext unit asid s
  | _ => .next s

/-- PCTL as written (R414): its three fields. -/
def pctlWrite (die : Nat) (v : BitVec 64) (s : State) : Out :=
  if die ≥ 8 || !s.pwr.ready then .next s
  else
    let p := bits v.toNat 2 0
    let s := s.modDies [die] fun x => { x with c3ok := v.getLsbD 3, shrink := v.getLsbD 4, preq := if p > 4 then x.preq else p }
    .next (if p > 4 then s else s.beginDrain die)

/-- A write of a doorbell page's register that has a row: TAIL of a chain, HEAD of the ring. -/
def doorOwnWrite (fn o : Nat) (v : BitVec 64) (s : State) : Out :=
  if o < 0x400 then execChainTailWrite fn (o / 0x100) v s else execRingHeadWrite (.fault fn) v s

/-- A write of a register whose write is a row of its own does what that row does. -/
def ownWrite (off : Nat) (v : BitVec 64) (s : State) : Out :=
  if off < 0x2000 then execEnWrite ((off - 0x1020) / 8) v s
  else if off < 0x20400 then execRingHeadWrite (ringOfNum ((off - 0x20000) / 0x100)) v s
  else if off < 0x21040 then
    let die := (off - 0x21000) / 8
    if v.getLsbD 16 then execFaultresolveAbort die (v.setWidth 16) s else execFaultresolveReplay die (v.setWidth 16) s
  else if off < 0x40000 then execVftabWrite ((off - 0x30000) / 8) v s
  else if off < 0x70000 then doorOwnWrite 0 (off - 0x60000) v s
  else if off = 0x70000 then thawWrite v s
  else if off < 0x80040 then pctlWrite ((off - 0x80000) / 8) v s
  else if off = 0x80080 then execModpwrWrite v s
  else if off < 0x90000 then execLtolWrite ((off - 0x81000) / 8) v s
  else doorOwnWrite ((off - 2 ^ 24) / 2 ^ 16) (off % 2 ^ 16) v s

/-- REGISTER_WRITE (R6): a write of a register; one whose write has a row of its own does what the row does. Read-only and
reserved fields are left. Until READY every write is ignored (R424). -/
def execRegisterWrite (off : Nat) (v : BitVec 64) (s : State) : Out :=
  if !s.pwr.ready then .next s
  else if ownRow off then ownWrite off v s
  else .next (s.barWrite off v)

end Sys2Proof.Machine
end

