-- ==== Sys2Proof/Machine/SPred.lean ====
section
/-! DEFINITION. S-lane predicate words and scalar floating point (spec 05, R118-R121). -/

namespace Sys2Proof.Machine

/-- A predicate result from two scalars (R118). -/
def cmpSP (s : State) (f : SP) (op : BitVec 64 → BitVec 64 → Bool) : State :=
  guarded s f.g fun s => s.modMe fun x =>
    let a := x.readS f.a
    let b := x.readB f.b
    x.deliverP f.pd 1 ⟨op a.v b.v, a.l ||| b.l ||| x.baseL f.g⟩

/-- A predicate result from two predicates (R118). -/
def cmpPP (s : State) (f : PP) (op : Bool → Bool → Bool) : State :=
  guarded s f.g fun s => s.modMe fun x =>
    let a := x.readP f.a
    let b := x.readP f.b
    x.deliverP f.pd 1 ⟨op a.v b.v, a.l ||| b.l ||| x.baseL f.g⟩

/-- CMP.cc (R118). -/
def execCmp (_h : Hdr) (f : SP) (cc : ICond) (s : State) : Out :=
  .next (cmpSP s f fun a b => icond cc 64 a.toNat b.toNat)

/-- TST.cc (R118). -/
def execTst (_h : Hdr) (f : SP) (ne : Bool) (s : State) : Out :=
  .next (cmpSP s f fun a b => decide (a &&& b = 0#64) ^^ ne)

/-- PAND (R118). -/
def execPand (_h : Hdr) (f : PP) (s : State) : Out := .next (cmpPP s f fun a b => a && b)

/-- POR (R118). -/
def execPor (_h : Hdr) (f : PP) (s : State) : Out := .next (cmpPP s f fun a b => a || b)

/-- PXOR (R118). -/
def execPxor (_h : Hdr) (f : PP) (s : State) : Out := .next (cmpPP s f fun a b => a ^^ b)

/-- PANDN (R118). -/
def execPandn (_h : Hdr) (f : PP) (s : State) : Out := .next (cmpPP s f fun a b => a && !b)

/-- PGET (R118). -/
def execPget (_h : Hdr) (d : Dst) (a : POp) (g : POp) (s : State) : Out :=
  .next (guarded s g fun s => s.modMe fun x =>
    let p := x.readP a
    x.deliver d 1 ⟨if p.v then 1#64 else 0#64, p.l ||| x.baseL g⟩)

/-- PSET (R118). -/
def execPset (_h : Hdr) (pd : BitVec 6) (a : SOp) (g : POp) (s : State) : Out :=
  .next (guarded s g fun s => s.modMe fun x =>
    let v := x.readS a
    x.deliverP pd 1 ⟨decide (v.v ≠ 0#64), v.l ||| x.baseL g⟩)

/-! ## Scalar floating point (R120, R121) -/

def ftFp : FT → FP
  | .f32 => .f32
  | .f64 => .f64

/-- Latency of the plain words and of FDIV and FSQRT (R99, R120). -/
def ftLat : FT → Nat
  | .f32 => 4
  | .f64 => 6

def ftLatDiv : FT → Nat
  | .f32 => 12
  | .f64 => 20

/-- The value an operand holds in a type (R120). -/
def ftVal (t : FT) (v : BitVec 64) : XVal := (ftFp t).decode (v.toNat % 2 ^ (ftFp t).width)

/-- One rounding to the type; the S lane sets no flag (R25). -/
def ftRes (t : FT) (rm : RMode) (x : XReal) : BitVec 64 := BitVec.ofNat 64 ((ftFp t).roundReal rm false 0 x).pat

/-- FCMP (R118, R34). -/
def execFcmp (_h : Hdr) (t : FT) (pd : BitVec 6) (a b : SOp) (g : POp) (cc : FCond) (s : State) : Out :=
  .next (guarded s g fun s => s.modMe fun x =>
    let a := x.readS a
    let b := x.readS b
    x.deliverP pd (ftLat t) ⟨fcond cc (ftVal t a.v) (ftVal t b.v), a.l ||| b.l ||| x.baseL g⟩)

/-- FADD (R120, R22). -/
def execFadd (_h : Hdr) (t : FT) (f : SA) (rm : RMode) (s : State) : Out :=
  .next (aluSA s f (ftLat t) fun a b => ftRes t rm (.ex (XVal.sum rm [ftVal t a, ftVal t b])))

/-- FSUB (R120, R22). -/
def execFsub (_h : Hdr) (t : FT) (f : SA) (rm : RMode) (s : State) : Out :=
  .next (aluSA s f (ftLat t) fun a b => ftRes t rm (.ex (XVal.sum rm [ftVal t a, (ftVal t b).neg])))

/-- FMUL (R120). -/
def execFmul (_h : Hdr) (t : FT) (f : SA) (rm : RMode) (s : State) : Out :=
  .next (aluSA s f (ftLat t) fun a b => ftRes t rm (.ex ((ftVal t a).mul (ftVal t b))))

/-- FFMA (R120, R26): one rounding. -/
def execFfma (_h : Hdr) (t : FT) (f : SA) (c : SOp) (rm : RMode) (s : State) : Out :=
  .next (guarded s f.g fun s => s.modMe fun x =>
    let a := x.readS f.a
    let b := x.readB f.b
    let c := x.readS c
    x.deliver f.d (ftLat t)
      ⟨ftRes t rm (.ex (XVal.sum rm [(ftVal t a.v).mul (ftVal t b.v), ftVal t c.v])), a.l ||| b.l ||| c.l ||| x.baseL f.g⟩)

/-- FDIV (R120, R35). -/
def execFdiv (_h : Hdr) (t : FT) (f : SA) (rm : RMode) (s : State) : Out :=
  .next (aluSA s f (ftLatDiv t) fun a b => ftRes t rm (divReal (ftVal t a) (ftVal t b)).1)

/-- FSQRT (R120, R35). -/
def execFsqrt (_h : Hdr) (t : FT) (f : SA1) (rm : RMode) (s : State) : Out :=
  .next (aluSA1 s f (ftLatDiv t) fun a => ftRes t rm (sqrtReal (ftVal t a)).1)

/-- FMIN (R120, R34). -/
def execFmin (_h : Hdr) (t : FT) (f : SA) (s : State) : Out :=
  .next (aluSA s f (ftLat t) fun a b => ftRes t .rne (.ex ((ftVal t a).fmin (ftVal t b))))

/-- FMAX (R120, R34). -/
def execFmax (_h : Hdr) (t : FT) (f : SA) (s : State) : Out :=
  .next (aluSA s f (ftLat t) fun a b => ftRes t .rne (.ex ((ftVal t a).fmax (ftVal t b))))

/-- The value a scalar holds as one of the four types of FCVT (R121). -/
def cvtVal (t : CvtT) (v : BitVec 64) : XVal :=
  match t with
  | .f32 => FP.f32.decode (v.toNat % 2 ^ 32)
  | .f64 => FP.f64.decode v.toNat
  | .s64 => XVal.ofInt v.toInt
  | .u64 => XVal.ofInt v.toNat

/-- A value converted to one of the four types (R32, R33, R121). -/
def cvtRes (t : CvtT) (rm : RMode) (x : XVal) : BitVec 64 :=
  match t with
  | .f32 => BitVec.ofNat 64 (FP.f32.round rm false 0 x).pat
  | .f64 => BitVec.ofNat 64 (FP.f64.round rm false 0 x).pat
  | .s64 => BitVec.ofInt 64 (roundInt rm (-(2 ^ 63)) (2 ^ 63 - 1) x).1
  | .u64 => BitVec.ofInt 64 (roundInt rm 0 (2 ^ 64 - 1) x).1

def ftCvt : FT → CvtT
  | .f32 => .f32
  | .f64 => .f64

/-- FCVT (R121): direction 0 from X to the type, direction 1 (`out`) from the type to X. -/
def execFcvt (_h : Hdr) (t : FT) (f : SA1) (rm : RMode) (x : CvtT) (out : Bool) (s : State) : Out :=
  .next (aluSA1 s f (ftLat t) fun a => if out then cvtRes x rm (cvtVal (ftCvt t) a) else cvtRes (ftCvt t) rm (cvtVal x a))

end Sys2Proof.Machine
end

