-- ==== Sys2Proof/Machine/VInt.lean ====
section
/-! DEFINITION. V-lane integer words, the 64-bit pairs among them (spec 06, R157-R159; 01, R36). -/

namespace Sys2Proof.Machine

/-- A source element as the integer it stands for, modified exactly (R72, R157). -/
def intSrc (u : Bool) (w : Nat) (neg abs : Bool) (v : Nat) : Int :=
  let z : Int := if u then v else signed w v
  let z := if abs then |z| else z
  if neg then -z else z

/-- A source of a comparison in an unsigned condition (R158): NEG is modulo 2^w. -/
def intSrcCmp (u : Bool) (w : Nat) (neg abs : Bool) (v : Nat) : Int :=
  if u then (if neg then ((2 ^ w - v) % 2 ^ w : Nat) else (v : Int)) else intSrc false w neg abs v

/-- An element-wise integer word (R157): sources read signed or unsigned, one wrap or saturation. -/
def vIntWord (s : State) (t : VI) (dest : BitVec 8) (srcs : List VOp) (mask : BitVec 3) (z u : Bool) (md : Option Mod)
    (op : List Int → Int) : State :=
  let x := s.me
  let w := viW t
  let n := lanes w
  let m := modOf md
  let r := srcs.zipIdx.map fun (o, i) =>
    let (els, l) := x.vread w n o
    let (ng, ab) := modSrc m i
    (els.map (intSrc u w ng ab), l)
  let cols := (r.map (·.1)).foldr (fun a acc => List.zipWith (fun v c => v :: c) a acc) (List.replicate n [])
  let lab := r.foldl (fun l e => l ||| e.2) (x.vlabel mask md false)
  let rng := x.clampI m
  vWord s (dest :: srcs.flatMap rowsOf) (clampBadI rng) lab fun x =>
    x.putElems dest w 2 (cols.map fun a => intElement w u m rng (op a)) mask z lab 0#5

/-- A word on the bits of its elements (R157). -/
def vBitWord (s : State) (t : VI) (dest : BitVec 8) (srcs : List VOp) (mask : BitVec 3) (z : Bool)
    (op : Nat → Nat → Nat → Nat) : State :=
  let x := s.me
  let w := viW t
  let n := lanes w
  let (a, la) := x.vread w n (srcs.getD 0 .vlat)
  let (b, lb) := if srcs.length > 1 then x.vread w n (srcs.getD 1 .vlat) else (List.replicate n 0, 0#8)
  let lab := la ||| lb ||| x.vlabel mask none false
  vWord s (dest :: srcs.flatMap rowsOf) false lab fun x =>
    x.putElems dest w 2 (List.zipWith (op w) a b) mask z lab 0#5

/-- VIADD (R157). -/
def execViadd (_h : Hdr) (t : VI) (f : VA2) (md : Option Mod) (s : State) : Out :=
  .next (vIntWord s t f.dest [f.a, f.b] f.mask f.z false md fun a => a.getD 0 0 + a.getD 1 0)

/-- VISUB (R157). -/
def execVisub (_h : Hdr) (t : VI) (f : VA2) (md : Option Mod) (s : State) : Out :=
  .next (vIntWord s t f.dest [f.a, f.b] f.mask f.z false md fun a => a.getD 0 0 - a.getD 1 0)

/-- VIMUL (R157). -/
def execVimul (_h : Hdr) (t : VI) (f : VA2) (md : Option Mod) (s : State) : Out :=
  .next (vIntWord s t f.dest [f.a, f.b] f.mask f.z false md fun a => a.getD 0 0 * a.getD 1 0)

/-- VIMULH (R157): the high half of the product, signed or unsigned by U. -/
def execVimulh (_h : Hdr) (t : VI) (f : VA2) (u : Bool) (md : Option Mod) (s : State) : Out :=
  .next (vIntWord s t f.dest [f.a, f.b] f.mask f.z u md fun a => a.getD 0 0 * a.getD 1 0 / (2 : Int) ^ viW t)

/-- VIMAD (R157, R36). -/
def execVimad (_h : Hdr) (t : VI) (f : VA3) (md : Option Mod) (s : State) : Out :=
  .next (vIntWord s t f.dest [f.a, f.b, f.c] f.mask f.z false md fun a => a.getD 0 0 * a.getD 1 0 + a.getD 2 0)

/-- VIMIN (R157). -/
def execVimin (_h : Hdr) (t : VI) (f : VA2) (u : Bool) (md : Option Mod) (s : State) : Out :=
  .next (vIntWord s t f.dest [f.a, f.b] f.mask f.z u md fun a => min (a.getD 0 0) (a.getD 1 0))

/-- VIMAX (R157). -/
def execVimax (_h : Hdr) (t : VI) (f : VA2) (u : Bool) (md : Option Mod) (s : State) : Out :=
  .next (vIntWord s t f.dest [f.a, f.b] f.mask f.z u md fun a => max (a.getD 0 0) (a.getD 1 0))

/-- VAND (R157). -/
def execVand (_h : Hdr) (t : VI) (f : VA2) (s : State) : Out :=
  .next (vBitWord s t f.dest [f.a, f.b] f.mask f.z fun _ a b => a &&& b)

/-- VOR (R157). -/
def execVor (_h : Hdr) (t : VI) (f : VA2) (s : State) : Out :=
  .next (vBitWord s t f.dest [f.a, f.b] f.mask f.z fun _ a b => a ||| b)

/-- VXOR (R157). -/
def execVxor (_h : Hdr) (t : VI) (f : VA2) (s : State) : Out :=
  .next (vBitWord s t f.dest [f.a, f.b] f.mask f.z fun _ a b => a ^^^ b)

/-- VANDN (R157). -/
def execVandn (_h : Hdr) (t : VI) (f : VA2) (s : State) : Out :=
  .next (vBitWord s t f.dest [f.a, f.b] f.mask f.z fun _ a b => a ^^^ (a &&& b))

/-- VNOT (R157). -/
def execVnot (_h : Hdr) (t : VI) (f : VA1) (s : State) : Out :=
  .next (vBitWord s t f.dest [f.a] f.mask f.z fun w a _ => 2 ^ w - 1 - a)

/-- VSHL (R157): the count is b's low bits. -/
def execVshl (_h : Hdr) (t : VI) (f : VA2) (s : State) : Out :=
  .next (vBitWord s t f.dest [f.a, f.b] f.mask f.z fun w a b => (a * 2 ^ (b % w)) % 2 ^ w)

/-- VSHR (R157). -/
def execVshr (_h : Hdr) (t : VI) (f : VA2) (s : State) : Out :=
  .next (vBitWord s t f.dest [f.a, f.b] f.mask f.z fun w a b => a / 2 ^ (b % w))

/-- VSAR (R157). -/
def execVsar (_h : Hdr) (t : VI) (f : VA2) (s : State) : Out :=
  .next (vBitWord s t f.dest [f.a, f.b] f.mask f.z fun w a b => unsigned w (signed w a / (2 : Int) ^ (b % w)))

/-- One of the unsigned conditions (R158). -/
def icondU (cc : ICond) : Bool :=
  match cc with
  | .ltu | .leu | .gtu | .geu => true
  | _ => false

/-- A condition on exact values (R158). -/
def icondZ (cc : ICond) (a b : Int) : Bool :=
  match cc with
  | .eq => decide (a = b)
  | .ne => decide (a ≠ b)
  | .lts | .ltu => decide (a < b)
  | .les | .leu => decide (a ≤ b)
  | .gts | .gtu => decide (a > b)
  | .ges | .geu => decide (a ≥ b)

/-- VICMP.cc (R158). -/
def execVicmp (_h : Hdr) (t : VI) (f : VCm) (cc : ICond) (md : Option Mod) (s : State) : Out :=
  let x := s.me
  let w := viW t
  let n := lanes w
  let m := modOf md
  let u := icondU cc
  let (a, la) := x.vread w n f.a
  let (b, lb) := x.vread w n f.b
  let lab := la ||| lb ||| x.vlabel f.mask md false
  .next (vWord s ([f.a, f.b].flatMap rowsOf) false lab fun x =>
    x.putCmp f.dm (List.zipWith (fun p q =>
      icondZ cc (intSrcCmp u w m.nega m.absa p) (intSrcCmp u w m.negb m.absb q)) a b) f.mask f.z lab)

/-- Number of one bits below bit `w`. -/
def popBits (w a : Nat) : Nat := ((List.range w).filter fun i => a.testBit i).length

/-- VPOPC (R157). -/
def execVpopc (_h : Hdr) (t : VI) (f : VA1) (s : State) : Out :=
  .next (vBitWord s t f.dest [f.a] f.mask f.z fun w a _ => popBits w a)

/-- VCLZ (R157): the width for 0. -/
def execVclz (_h : Hdr) (t : VI) (f : VA1) (s : State) : Out :=
  .next (vBitWord s t f.dest [f.a] f.mask f.z fun w a _ => if a = 0 then w else w - 1 - Nat.log2 a)

end Sys2Proof.Machine
end

