-- ==== Sys2Proof/Machine/VMove.lean ====
section
/-! DEFINITION. V-lane rearrangement, mask operations, windows and mode (spec 06, R160-R162, R171-R173). -/

namespace Sys2Proof.Machine

/-- A rearranging word of one row source and what a function makes of its elements (R160). -/
def vMoveWord (s : State) (w : VW) (dest : BitVec 8) (rows : List (BitVec 8)) (mask : BitVec 3) (z : Bool) (lat : Nat)
    (l : Label) (els : List Nat) : State :=
  let lab := l ||| s.me.vlabel mask none false
  vWord s (dest :: rows) false lab fun x => x.putElems dest (vwW w) lat els mask z lab 0#5

/-- VMOV (R160). -/
def execVmov (_h : Hdr) (w : VW) (f : VA1) (s : State) : Out :=
  let (a, l) := s.me.vread (vwW w) (lanes (vwW w)) f.a
  .next (vMoveWord s w f.dest (rowsOf f.a) f.mask f.z 2 l a)

/-- The elements of a list at computed places (R160): the place is taken modulo the lane count. -/
def gather (a : List Nat) (ix : List Int) : List Nat :=
  let v := a.toArray
  ix.map fun k => v.getD (k % (a.length : Int)).toNat 0

/-- VBCAST (R160). -/
def execVbcast (_h : Hdr) (w : VW) (f : VA1) (b : Bc) (s : State) : Out :=
  let n := lanes (vwW w)
  let (a, l) := s.me.vread (vwW w) n f.a
  let k := s.me.readBc b
  .next (vMoveWord s w f.dest (rowsOf f.a) f.mask f.z 2 (l ||| k.l) (gather a (List.replicate n k.v.toInt)))

/-- VIOTA (R160). -/
def execViota (_h : Hdr) (w : VW) (dest : BitVec 8) (a b : Bc) (mask : BitVec 3) (z : Bool) (s : State) : Out :=
  let p := s.me.readBc a
  let q := s.me.readBc b
  .next (vMoveWord s w dest [] mask z 2 (p.l ||| q.l)
    ((List.range (lanes (vwW w))).map fun (j : Nat) => unsigned (vwW w) (p.v.toInt + j * q.v.toInt)))

/-- VPERM (R160): the indices are unsigned elements of the word's width. -/
def execVperm (_h : Hdr) (w : VW) (f : VA2) (s : State) : Out :=
  let n := lanes (vwW w)
  let (a, la) := s.me.vread (vwW w) n f.a
  let (b, lb) := s.me.vread (vwW w) n f.b
  .next (vMoveWord s w f.dest ([f.a, f.b].flatMap rowsOf) f.mask f.z 3 (la ||| lb) (gather a (b.map fun (k : Nat) => (k : Int))))

/-- VROTL (R160). -/
def execVrotl (_h : Hdr) (w : VW) (f : VA1) (b : Bc) (s : State) : Out :=
  let n := lanes (vwW w)
  let (a, l) := s.me.vread (vwW w) n f.a
  let k := s.me.readBc b
  .next (vMoveWord s w f.dest (rowsOf f.a) f.mask f.z 3 (l ||| k.l)
    (gather a ((List.range n).map fun (j : Nat) => (j : Int) + k.v.toInt)))

/-! ## Zips (R161) -/

/-- Row codes of a span of `n` rows, or of the even rows of `n` pairs. -/
def spanRows (w : VW) (r : BitVec 8) (n : Nat) : List (BitVec 8) :=
  (List.range n).map fun k => r + BitVec.ofNat 8 (k * (if w = .w64 then 2 else 1))

/-- A zip or unzip: all sources are read at c, destination k is written at c + 3 + k. -/
def vZipWord (s : State) (w : VW) (dest a : BitVec 8) (n : Nat) (mask : BitVec 3) (z : Bool)
    (place : Nat → Nat → Nat → Nat × Nat) : State :=
  let k := vwW w
  let ln := lanes k
  let srcs := (spanRows w a n).map fun r => s.me.vread k ln (.row r)
  let lab := srcs.foldl (fun l e => l ||| e.2) (s.me.vlabel mask none false)
  let tab := (srcs.map fun e => e.1.toArray).toArray
  vWord s (spanRows w dest n ++ spanRows w a n) false lab fun x =>
    (spanRows w dest n).zipIdx.foldl (fun x e =>
      x.putElems e.1 k (3 + e.2) ((List.range ln).map fun j =>
        let (i, q) := place ln e.2 j
        (tab.getD i #[]).getD q 0) mask z lab 0#5) x

/-- VZIP.n (R161): stream element n·j + i is element j of source i. -/
def execVzip (_h : Hdr) (w : VW) (dest a : BitVec 8) (n1 : BitVec 2) (mask : BitVec 3) (z : Bool) (s : State) : Out :=
  let n := n1.toNat + 1
  .next (vZipWord s w dest a n mask z fun ln k j => ((k * ln + j) % n, (k * ln + j) / n))

/-- VUNZIP.n (R161): element j of destination i is stream element n·j + i. -/
def execVunzip (_h : Hdr) (w : VW) (dest a : BitVec 8) (n1 : BitVec 2) (mask : BitVec 3) (z : Bool) (s : State) : Out :=
  let n := n1.toNat + 1
  .next (vZipWord s w dest a n mask z fun ln i j => ((n * j + i) / ln, (n * j + i) % ln))

/-! ## Mask operations (R162) -/

/-- A mask word: the whole mask is written, readable from c + 2. -/
def vMaskWord (s : State) (d : BitVec 3) (srcs : List (BitVec 3)) (v : Nat) : State :=
  let lab := srcs.foldl (fun l m => l ||| (s.me.mreg m).l) s.me.iss.lab
  s.modMe fun x => x.putMask d v 0 true lab

/-- VMAND (R162). -/
def execVmand (_h : Hdr) (d a b : BitVec 3) (s : State) : Out :=
  .next (vMaskWord s d [a, b] ((s.me.mreg a).v.toNat &&& (s.me.mreg b).v.toNat))

/-- VMOR (R162). -/
def execVmor (_h : Hdr) (d a b : BitVec 3) (s : State) : Out :=
  .next (vMaskWord s d [a, b] ((s.me.mreg a).v.toNat ||| (s.me.mreg b).v.toNat))

/-- VMXOR (R162). -/
def execVmxor (_h : Hdr) (d a b : BitVec 3) (s : State) : Out :=
  .next (vMaskWord s d [a, b] ((s.me.mreg a).v.toNat ^^^ (s.me.mreg b).v.toNat))

/-- VMNOT (R162). -/
def execVmnot (_h : Hdr) (d a : BitVec 3) (s : State) : Out :=
  .next (vMaskWord s d [a] (2 ^ 512 - 1 - (s.me.mreg a).v.toNat))

/-- VMPOP (R162): a row at c + 2 with the count in element 0. -/
def execVmpop (_h : Hdr) (dest : BitVec 8) (a : BitVec 3) (s : State) : Out :=
  let lab := (s.me.mreg a).l ||| s.me.iss.lab
  .next (vWord s [dest] false lab fun x =>
    x.putElems dest 32 2 (popBits512 (x.mreg a).v.toNat :: List.replicate 127 0) 0#3 false lab 0#5)
where
  popBits512 (v : Nat) : Nat := ((List.range 512).filter fun i => v.testBit i).length

/-! ## Windows and mode (R171-R173) -/

/-- VWIN (R171): for V words from c + 1. -/
def execVwin (_h : Hdr) (p q : Option (BitVec 4)) (s : State) : Out :=
  .next (s.modMe fun x => x.due (x.iss.cyc + 1) phWrite lnV (.vwin (p.map (·.toNat)) (q.map (·.toNat))))

/-- VMODE (R172): the seed operand is read at c; both changes apply from c + 1. -/
def execVmode (_h : Hdr) (rm : Option RMode) (seed : Option Bc) (s : State) : Out :=
  .next (s.modMe fun x => x.due (x.iss.cyc + 1) phWrite lnV
    (.vmode (rm.map fun r => (encRMode r).toNat) (seed.map fun b => x.readBc b)))

end Sys2Proof.Machine
end

