-- ==== Sys2Proof/Machine/Dispatch.lean ====
section
/-! DEFINITION. One arm for each instruction: a direct call of its meaning. -/

namespace Sys2Proof.Machine

def exec (i : Instr) (s : State) : Host.Outcome State Fault Refusal :=
  match i with
  | .add h f => Sys2Proof.Machine.execAdd h f s
  | .sub h f => Sys2Proof.Machine.execSub h f s
  | .mul h f => Sys2Proof.Machine.execMul h f s
  | .mulhs h f => Sys2Proof.Machine.execMulhs h f s
  | .mulhu h f => Sys2Proof.Machine.execMulhu h f s
  | .divs h f => Sys2Proof.Machine.execDivs h f s
  | .divu h f => Sys2Proof.Machine.execDivu h f s
  | .rems h f => Sys2Proof.Machine.execRems h f s
  | .remu h f => Sys2Proof.Machine.execRemu h f s
  | .and h f => Sys2Proof.Machine.execAnd h f s
  | .or h f => Sys2Proof.Machine.execOr h f s
  | .xor h f => Sys2Proof.Machine.execXor h f s
  | .andn h f => Sys2Proof.Machine.execAndn h f s
  | .orn h f => Sys2Proof.Machine.execOrn h f s
  | .shl h f => Sys2Proof.Machine.execShl h f s
  | .shr h f => Sys2Proof.Machine.execShr h f s
  | .sar h f => Sys2Proof.Machine.execSar h f s
  | .rol h f => Sys2Proof.Machine.execRol h f s
  | .ror h f => Sys2Proof.Machine.execRor h f s
  | .clz h f => Sys2Proof.Machine.execClz h f s
  | .ctz h f => Sys2Proof.Machine.execCtz h f s
  | .popc h f => Sys2Proof.Machine.execPopc h f s
  | .brev h f => Sys2Proof.Machine.execBrev h f s
  | .mins h f => Sys2Proof.Machine.execMins h f s
  | .maxs h f => Sys2Proof.Machine.execMaxs h f s
  | .minu h f => Sys2Proof.Machine.execMinu h f s
  | .maxu h f => Sys2Proof.Machine.execMaxu h f s
  | .sext h f w => Sys2Proof.Machine.execSext h f w s
  | .zext h f w => Sys2Proof.Machine.execZext h f w s
  | .bfx h f lsb w1 => Sys2Proof.Machine.execBfx h f lsb w1 s
  | .bfi h f lsb w1 => Sys2Proof.Machine.execBfi h f lsb w1 s
  | .sel h f p => Sys2Proof.Machine.execSel h f p s
  | .mov h f => Sys2Proof.Machine.execMov h f s
  | .addImm h f => Sys2Proof.Machine.execAddImm h f s
  | .subImm h f => Sys2Proof.Machine.execSubImm h f s
  | .mulImm h f => Sys2Proof.Machine.execMulImm h f s
  | .andImm h f => Sys2Proof.Machine.execAndImm h f s
  | .orImm h f => Sys2Proof.Machine.execOrImm h f s
  | .xorImm h f => Sys2Proof.Machine.execXorImm h f s
  | .andnImm h f => Sys2Proof.Machine.execAndnImm h f s
  | .ornImm h f => Sys2Proof.Machine.execOrnImm h f s
  | .shlImm h f => Sys2Proof.Machine.execShlImm h f s
  | .shrImm h f => Sys2Proof.Machine.execShrImm h f s
  | .sarImm h f => Sys2Proof.Machine.execSarImm h f s
  | .rolImm h f => Sys2Proof.Machine.execRolImm h f s
  | .rorImm h f => Sys2Proof.Machine.execRorImm h f s
  | .minsImm h f => Sys2Proof.Machine.execMinsImm h f s
  | .maxsImm h f => Sys2Proof.Machine.execMaxsImm h f s
  | .minuImm h f => Sys2Proof.Machine.execMinuImm h f s
  | .maxuImm h f => Sys2Proof.Machine.execMaxuImm h f s
  | .movi h d imm g => Sys2Proof.Machine.execMovi h d imm g s
  | .cmp h f cc => Sys2Proof.Machine.execCmp h f cc s
  | .tst h f ne => Sys2Proof.Machine.execTst h f ne s
  | .pand h f => Sys2Proof.Machine.execPand h f s
  | .por h f => Sys2Proof.Machine.execPor h f s
  | .pxor h f => Sys2Proof.Machine.execPxor h f s
  | .pandn h f => Sys2Proof.Machine.execPandn h f s
  | .pget h d a g => Sys2Proof.Machine.execPget h d a g s
  | .pset h pd a g => Sys2Proof.Machine.execPset h pd a g s
  | .fcmp h t pd a b g cc => Sys2Proof.Machine.execFcmp h t pd a b g cc s
  | .fadd h t f rm => Sys2Proof.Machine.execFadd h t f rm s
  | .fsub h t f rm => Sys2Proof.Machine.execFsub h t f rm s
  | .fmul h t f rm => Sys2Proof.Machine.execFmul h t f rm s
  | .ffma h t f c rm => Sys2Proof.Machine.execFfma h t f c rm s
  | .fdiv h t f rm => Sys2Proof.Machine.execFdiv h t f rm s
  | .fsqrt h t f rm => Sys2Proof.Machine.execFsqrt h t f rm s
  | .fmin h t f => Sys2Proof.Machine.execFmin h t f s
  | .fmax h t f => Sys2Proof.Machine.execFmax h t f s
  | .fcvt h t f rm x out => Sys2Proof.Machine.execFcvt h t f rm x out s
  | .br h g off => Sys2Proof.Machine.execBr h g off s
  | .callt h g off => Sys2Proof.Machine.execCallt h g off s
  | .rett h g => Sys2Proof.Machine.execRett h g s
  | .loopb h g off => Sys2Proof.Machine.execLoopb h g off s
  | .lset h a dcnt long g => Sys2Proof.Machine.execLset h a dcnt long g s
  | .nop h g => Sys2Proof.Machine.execNop h g s
  | .dset h d fld a g => Sys2Proof.Machine.execDset h d fld a g s
  | .dget h d e w g => Sys2Proof.Machine.execDget h d e w g s
  | .boxsub h d e a b co g => Sys2Proof.Machine.execBoxsub h d e a b co g s
  | .boxdim h d e dim g => Sys2Proof.Machine.execBoxdim h d e dim g s
  | .dadv h d a dim g => Sys2Proof.Machine.execDadv h d a dim g s
  | .lds h d slot x y co g => Sys2Proof.Machine.execLds h d slot x y co g s
  | .sts h slot x y c co g => Sys2Proof.Machine.execSts h slot x y c co g s
  | .cadd h slot x c co g => Sys2Proof.Machine.execCadd h slot x c co g s
  | .crd h d slot x co g => Sys2Proof.Machine.execCrd h d slot x co g s
  | .fmtq h a g => Sys2Proof.Machine.execFmtq h a g s
  | .sync h => Sys2Proof.Machine.execSync h s
  | .segend h sig len => Sys2Proof.Machine.execSegend h sig len s
  | .segmentEndCheck => Sys2Proof.Machine.execSegmentEndCheck s
  | .waitge h slot idx a => Sys2Proof.Machine.execWaitge h slot idx a s
  | .waitgeSatisfied tid => Sys2Proof.Machine.execWaitgeSatisfied tid s
  | .park tid => Sys2Proof.Machine.execPark tid s
  | .parkedWake tid => Sys2Proof.Machine.execParkedWake tid s
  | .pcommit h => Sys2Proof.Machine.execPcommit h s
  | .pcancel h => Sys2Proof.Machine.execPcancel h s
  | .phaseRestoreComplete tid => Sys2Proof.Machine.execPhaseRestoreComplete tid s
  | .realign h f => Sys2Proof.Machine.execRealign h f s
  | .arg h x d mode merge g => Sys2Proof.Machine.execArg h x d mode merge g s
  | .spawn h ix g => Sys2Proof.Machine.execSpawn h ix g s
  | .gspawn h ix n1 g => Sys2Proof.Machine.execGspawn h ix n1 g s
  | .cont h off g => Sys2Proof.Machine.execCont h off g s
  | .tend h g => Sys2Proof.Machine.execTend h g s
  | .tfail h a g => Sys2Proof.Machine.execTfail h a g s
  | .lblget h f => Sys2Proof.Machine.execLblget h f s
  | .lblraise h mask g => Sys2Proof.Machine.execLblraise h mask g s
  | .sysrd h d n g => Sys2Proof.Machine.execSysrd h d n g s
  | .syswr h n a g => Sys2Proof.Machine.execSyswr h n a g s
  | .trap h code g => Sys2Proof.Machine.execTrap h code g s
  | .bkpt h g => Sys2Proof.Machine.execBkpt h g s
  | .breakResume tid => Sys2Proof.Machine.execBreakResume tid s
  | .fence h sc g => Sys2Proof.Machine.execFence h sc g s
  | .vadd h t f md => Sys2Proof.Machine.execVadd h t f md s
  | .vsub h t f md => Sys2Proof.Machine.execVsub h t f md s
  | .vmul h t f md => Sys2Proof.Machine.execVmul h t f md s
  | .vfma h t f md => Sys2Proof.Machine.execVfma h t f md s
  | .vmin h t f md => Sys2Proof.Machine.execVmin h t f md s
  | .vmax h t f md => Sys2Proof.Machine.execVmax h t f md s
  | .vcmp h t f cc md => Sys2Proof.Machine.execVcmp h t f cc md s
  | .vsel h w dest a b mask => Sys2Proof.Machine.execVsel h w dest a b mask s
  | .vrcp h t f md => Sys2Proof.Machine.execVrcp h t f md s
  | .vrsq h t f md => Sys2Proof.Machine.execVrsq h t f md s
  | .vsqrt h t f md => Sys2Proof.Machine.execVsqrt h t f md s
  | .vdiv h t f md => Sys2Proof.Machine.execVdiv h t f md s
  | .vexp2 h t f md => Sys2Proof.Machine.execVexp2 h t f md s
  | .vlog2 h t f md => Sys2Proof.Machine.execVlog2 h t f md s
  | .vtanh h t f md => Sys2Proof.Machine.execVtanh h t f md s
  | .vsigm h t f md => Sys2Proof.Machine.execVsigm h t f md s
  | .vcvt h dt st f sc nosat md => Sys2Proof.Machine.execVcvt h dt st f sc nosat md s
  | .vredsum h t dest a mask md => Sys2Proof.Machine.execVredsum h t dest a mask md s
  | .vredmax h t dest a mask md => Sys2Proof.Machine.execVredmax h t dest a mask md s
  | .vredmin h t dest a mask md => Sys2Proof.Machine.execVredmin h t dest a mask md s
  | .vredamax h t dest a mask md => Sys2Proof.Machine.execVredamax h t dest a mask md s
  | .vscan h t f md => Sys2Proof.Machine.execVscan h t f md s
  | .viadd h t f md => Sys2Proof.Machine.execViadd h t f md s
  | .visub h t f md => Sys2Proof.Machine.execVisub h t f md s
  | .vimul h t f md => Sys2Proof.Machine.execVimul h t f md s
  | .vimulh h t f u md => Sys2Proof.Machine.execVimulh h t f u md s
  | .vimad h t f md => Sys2Proof.Machine.execVimad h t f md s
  | .vimin h t f u md => Sys2Proof.Machine.execVimin h t f u md s
  | .vimax h t f u md => Sys2Proof.Machine.execVimax h t f u md s
  | .vand h t f => Sys2Proof.Machine.execVand h t f s
  | .vor h t f => Sys2Proof.Machine.execVor h t f s
  | .vxor h t f => Sys2Proof.Machine.execVxor h t f s
  | .vandn h t f => Sys2Proof.Machine.execVandn h t f s
  | .vnot h t f => Sys2Proof.Machine.execVnot h t f s
  | .vshl h t f => Sys2Proof.Machine.execVshl h t f s
  | .vshr h t f => Sys2Proof.Machine.execVshr h t f s
  | .vsar h t f => Sys2Proof.Machine.execVsar h t f s
  | .vicmp h t f cc md => Sys2Proof.Machine.execVicmp h t f cc md s
  | .vpopc h t f => Sys2Proof.Machine.execVpopc h t f s
  | .vclz h t f => Sys2Proof.Machine.execVclz h t f s
  | .vmov h w f => Sys2Proof.Machine.execVmov h w f s
  | .vbcast h w f b => Sys2Proof.Machine.execVbcast h w f b s
  | .viota h w dest a b mask z => Sys2Proof.Machine.execViota h w dest a b mask z s
  | .vperm h w f => Sys2Proof.Machine.execVperm h w f s
  | .vrotl h w f b => Sys2Proof.Machine.execVrotl h w f b s
  | .vzip h w dest a n1 mask z => Sys2Proof.Machine.execVzip h w dest a n1 mask z s
  | .vunzip h w dest a n1 mask z => Sys2Proof.Machine.execVunzip h w dest a n1 mask z s
  | .vmand h d a b => Sys2Proof.Machine.execVmand h d a b s
  | .vmor h d a b => Sys2Proof.Machine.execVmor h d a b s
  | .vmxor h d a b => Sys2Proof.Machine.execVmxor h d a b s
  | .vmnot h d a => Sys2Proof.Machine.execVmnot h d a s
  | .vmpop h dest a => Sys2Proof.Machine.execVmpop h dest a s
  | .vld h w f adv z => Sys2Proof.Machine.execVld h w f adv z s
  | .vst h w f adv => Sys2Proof.Machine.execVst h w f adv s
  | .vgth h w f ix => Sys2Proof.Machine.execVgth h w f ix s
  | .vsct h w f ix => Sys2Proof.Machine.execVsct h w f ix s
  | .vwin h p w => Sys2Proof.Machine.execVwin h p w s
  | .vmode h rm seed => Sys2Proof.Machine.execVmode h rm seed s
  | .mloadb h slot b x => Sys2Proof.Machine.execMloadb h slot b x s
  | .mma h t slot a x rows1 ovw chk zs => Sys2Proof.Machine.execMma h t slot a x rows1 ovw chk zs s
  | .mzero h t => Sys2Proof.Machine.execMzero h t s
  | .mcopy h d t => Sys2Proof.Machine.execMcopy h d t s
  | .mchkv h t ka kr rr cr => Sys2Proof.Machine.execMchkv h t ka kr rr cr s
  | .mtype h t int => Sys2Proof.Machine.execMtype h t int s
  | .accrel h n => Sys2Proof.Machine.execAccrel h n s
  | .accwake h t => Sys2Proof.Machine.execAccwake h t s
  | .accgate h t ret => Sys2Proof.Machine.execAccgate h t ret s
  | .accinjFlip => Sys2Proof.Machine.execAccinjFlip s
  | .cin h f => Sys2Proof.Machine.execCin h f s
  | .cout h f => Sys2Proof.Machine.execCout h f s
  | .coutNa h f => Sys2Proof.Machine.execCoutNa h f s
  | .cfill h src cnt advs => Sys2Proof.Machine.execCfill h src cnt advs s
  | .cslice h f n1 => Sys2Proof.Machine.execCslice h f n1 s
  | .rrot h dst src advd advs prev => Sys2Proof.Machine.execRrot h dst src advd advs prev s
  | .csig h slot idx amt => Sys2Proof.Machine.execCsig h slot idx amt s
  | .ratom h op wide tgt src cnt => Sys2Proof.Machine.execRatom h op wide tgt src cnt s
  | .cfence h sc => Sys2Proof.Machine.execCfence h sc s
  | .txload h src id => Sys2Proof.Machine.execTxload h src id s
  | .txrun h f id => Sys2Proof.Machine.execTxrun h f id s
  | .xsend h src die ch advs => Sys2Proof.Machine.execXsend h src die ch advs s
  | .xrecv h dst die ch at_ advd => Sys2Proof.Machine.execXrecv h dst die ch at_ advd s
  | .xsendDataArrive x => Sys2Proof.Machine.execXsendDataArrive x s
  | .xrecvPerform => Sys2Proof.Machine.execXrecvPerform s
  | .untimedWordComplete x => Sys2Proof.Machine.execUntimedWordComplete x s
  | .heldFaultFound x => Sys2Proof.Machine.execHeldFaultFound x s
  | .ratomAnswer x => Sys2Proof.Machine.execRatomAnswer x s
  | .ratomRetryTimeout x => Sys2Proof.Machine.execRatomRetryTimeout x s
  | .fetchGroup => Sys2Proof.Machine.execFetchGroup s
  | .sResultArrive => Sys2Proof.Machine.execSResultArrive s
  | .vRowWrite => Sys2Proof.Machine.execVRowWrite s
  | .timedStorePerform => Sys2Proof.Machine.execTimedStorePerform s
  | .mRowGroupAccumulate => Sys2Proof.Machine.execMRowGroupAccumulate s
  | .mloadbSlotReady => Sys2Proof.Machine.execMloadbSlotReady s
  | .mchkvResult => Sys2Proof.Machine.execMchkvResult s
  | .childCopyInComplete tid => Sys2Proof.Machine.execChildCopyInComplete tid s
  | .taskPick u => Sys2Proof.Machine.execTaskPick u s
  | .outwardCopyComplete tid => Sys2Proof.Machine.execOutwardCopyComplete tid s
  | .join tid => Sys2Proof.Machine.execJoin tid s
  | .taskAging tid => Sys2Proof.Machine.execTaskAging tid s
  | .gangReservationLapse tid => Sys2Proof.Machine.execGangReservationLapse tid s
  | .gangStart tid => Sys2Proof.Machine.execGangStart tid s
  | .timetabledStart tid => Sys2Proof.Machine.execTimetabledStart tid s
  | .forcedSave tid => Sys2Proof.Machine.execForcedSave tid s
  | .preemptComplete asid => Sys2Proof.Machine.execPreemptComplete asid s
  | .chainTailWrite fn ch v => Sys2Proof.Machine.execChainTailWrite fn ch v s
  | .chainReset fn ch => Sys2Proof.Machine.execChainReset fn ch s
  | .chainEntryStart fn ch => Sys2Proof.Machine.execChainEntryStart fn ch s
  | .launchComplete lid => Sys2Proof.Machine.execLaunchComplete lid s
  | .pageFaultRecord die asid page => Sys2Proof.Machine.execPageFaultRecord die asid page s
  | .faultresolveReplay die tag => Sys2Proof.Machine.execFaultresolveReplay die tag s
  | .faultresolveAbort die tag => Sys2Proof.Machine.execFaultresolveAbort die tag s
  | .pageWalkComplete die asid page => Sys2Proof.Machine.execPageWalkComplete die asid page s
  | .expandedViewRead asid va len => Sys2Proof.Machine.execExpandedViewRead asid va len s
  | .colDecision => Sys2Proof.Machine.execColDecision s
  | .bar2Access fn port a => Sys2Proof.Machine.execBar2Access fn port a s
  | .cxlMemAccess port a => Sys2Proof.Machine.execCxlMemAccess port a s
  | .debugRead asid at_ len => Sys2Proof.Machine.execDebugRead asid at_ len s
  | .createAs => Sys2Proof.Machine.execCreateAs s
  | .destroyAs => Sys2Proof.Machine.execDestroyAs s
  | .invalidate => Sys2Proof.Machine.execInvalidate s
  | .setKey => Sys2Proof.Machine.execSetKey s
  | .setDest => Sys2Proof.Machine.execSetDest s
  | .installPolicy => Sys2Proof.Machine.execInstallPolicy s
  | .removePolicy => Sys2Proof.Machine.execRemovePolicy s
  | .connect => Sys2Proof.Machine.execConnect s
  | .circuitRetuneComplete => Sys2Proof.Machine.execCircuitRetuneComplete s
  | .setWeight => Sys2Proof.Machine.execSetWeight s
  | .setWindow => Sys2Proof.Machine.execSetWindow s
  | .setPeerasid => Sys2Proof.Machine.execSetPeerasid s
  | .preempt => Sys2Proof.Machine.execPreempt s
  | .resume => Sys2Proof.Machine.execResume s
  | .timingGroup => Sys2Proof.Machine.execTimingGroup s
  | .mailboxUnknownCommand => Sys2Proof.Machine.execMailboxUnknownCommand s
  | .thawCoreContext core asid => Sys2Proof.Machine.execThawCoreContext core asid s
  | .thawHostFunction fn port => Sys2Proof.Machine.execThawHostFunction fn port s
  | .thawDebugSession => Sys2Proof.Machine.execThawDebugSession s
  | .thawPeerPort port => Sys2Proof.Machine.execThawPeerPort port s
  | .thawQuarantinedCore core => Sys2Proof.Machine.execThawQuarantinedCore core s
  | .thawSequencerContext sq asid => Sys2Proof.Machine.execThawSequencerContext sq asid s
  | .vftabWrite n v => Sys2Proof.Machine.execVftabWrite n v s
  | .ringHeadWrite r v => Sys2Proof.Machine.execRingHeadWrite r v s
  | .ringRecordWrite => Sys2Proof.Machine.execRingRecordWrite s
  | .peerFlitReceive port sq good rq => Sys2Proof.Machine.execPeerFlitReceive port sq good rq s
  | .peerNakReplay port sq => Sys2Proof.Machine.execPeerNakReplay port sq s
  | .peerRequest port => Sys2Proof.Machine.execPeerRequest port s
  | .peerLinkFail port => Sys2Proof.Machine.execPeerLinkFail port s
  | .peerRateStepDown port => Sys2Proof.Machine.execPeerRateStepDown port s
  | .peerRateStepUp port => Sys2Proof.Machine.execPeerRateStepUp port s
  | .flr fn port => Sys2Proof.Machine.execFlr fn port s
  | .frameTick => Sys2Proof.Machine.execFrameTick s
  | .patrolScrub sector => Sys2Proof.Machine.execPatrolScrub sector s
  | .sramError x unit off fatal => Sys2Proof.Machine.execSramError x unit off fatal s
  | .cpLockstepMismatch u => Sys2Proof.Machine.execCpLockstepMismatch u s
  | .cpRestartComplete u => Sys2Proof.Machine.execCpRestartComplete u s
  | .pctlPreqWrite die v => Sys2Proof.Machine.execPctlPreqWrite die v s
  | .pctlC3okWrite die v => Sys2Proof.Machine.execPctlC3okWrite die v s
  | .pctlShrinkWrite die v => Sys2Proof.Machine.execPctlShrinkWrite die v s
  | .pstateChange die => Sys2Proof.Machine.execPstateChange die s
  | .modpwrWrite v => Sys2Proof.Machine.execModpwrWrite v s
  | .ltolWrite fn v => Sys2Proof.Machine.execLtolWrite fn v s
  | .cstateEntry die => Sys2Proof.Machine.execCstateEntry die s
  | .dieWake die => Sys2Proof.Machine.execDieWake die s
  | .checkpointSave => Sys2Proof.Machine.execCheckpointSave s
  | .checkpointRestore => Sys2Proof.Machine.execCheckpointRestore s
  | .checkpointComplete => Sys2Proof.Machine.execCheckpointComplete s
  | .enWrite n v => Sys2Proof.Machine.execEnWrite n v s
  | .packageReset => Sys2Proof.Machine.execPackageReset s
  | .registerWrite off v => Sys2Proof.Machine.execRegisterWrite off v s
  | .gangReservationRenew tid => Sys2Proof.Machine.execGangReservationRenew tid s

end Sys2Proof.Machine
end

