-- ==== Sys2Proof/Machine/Moves.lean ====
section
/-! DEFINITION. The moves of the module: what one move does, which moves are possible, and how an instruction is laid
where a unit takes it next. The order among moves is left open (R249, R299, R325): log 4. -/

namespace Sys2Proof.Machine

/-! ## One move -/

/-- A move that is not possible here. -/
def noMove (s : State) : Out := noEvent s "the move is not possible"

/-- A move made, when it is possible. -/
def made (s : State) (o : Option State) : Out := match o with | some t => .next t | none => noMove s

/-- An entry leaves a TLB, or from key 16 on a micro-TLB (R318, log 13). -/
def State.evict (s : State) (key asid page : Nat) : Option State :=
  let mine (k : Nat) (e : Nat × Nat × Nat × Pte) : Bool := decide (e.1 = k) && decide (e.2.1 = asid) && decide (e.2.2.1 = page)
  if key < 16 then
    (if s.tlb.any (mine key) then some { s with tlb := s.tlb.filter fun e => !mine key e } else none)
  else if s.utlb.any (mine (key - 16)) then some { s with utlb := s.utlb.filter fun e => !mine (key - 16) e }
  else none

/-- A line leaves a die's UN read cache (R327, log 13). -/
def State.uncached (s : State) (die line : Nat) : Option State :=
  if s.uncache.any fun e => e.1 = die && e.2.1 = line then some (s.unDrop die line line) else none

/-- The first upset to come strikes (R391, log 17). -/
def State.strike (s : State) : Option State :=
  match s.upsets with
  | [] => none
  | c :: r => some { s with upsets := r, cells := s.cells ++ [c] }

/-- One move. -/
def State.act (s : State) (t : Turn) : Out :=
  match t with
  | .unit u => (s.moveUnit exec u).getD (noMove s)
  | .drain u => made s (s.drainUnit u)
  | .event i => exec i s
  | .piece x j => made s (s.movePiece x j)
  | .emit x => made s (s.emitBeat x)
  | .accept p => made s (s.acceptFlit p)
  | .evict d a p => made s (s.evict d a p)
  | .uncached d l => made s (s.uncached d l)
  | .upset => made s s.strike
  | .micro => made s s.micro
  | .boot => made s s.boot
  | .renew k => execGangReservationRenew k s
  | .request p => execPeerRequest p s
  | .rate up p => if up then execPeerRateStepUp p s else execPeerRateStepDown p s
  | .scrub a => execPatrolScrub a s
  | .restart u => execCpRestartComplete u s
  | .pstate d => execPstateChange d s
  | .cstate d => execCstateEntry d s
  | .wake d => execDieWake d s
  | .input => match s.inputs with
    | [] => noMove s
    | i :: r => exec i { s with inputs := r }

/-! ## The moves there may be -/

def range8 : List Nat := List.range 8

/-- Moves of units, and picks for them. -/
def State.unitMoves (s : State) : List Turn :=
  (s.units.flatMap fun e => [.unit e.1, .drain e.1]) ++ (List.range 432).map fun u => .event (.taskPick u)

/-- Moves of untimed words. -/
def State.wordMoves (s : State) : List Turn :=
  s.xwords.flatMap fun e =>
    [.emit e.1, .event (.untimedWordComplete e.1), .event (.heldFaultFound e.1), .event (.ratomAnswer e.1),
      .event (.ratomRetryTimeout e.1), .event (.xsendDataArrive e.1)]
    ++ (List.range (max e.2.src.pieces e.2.dst.pieces)).map fun j => .piece e.1 j

/-- What may happen to a task. -/
def State.taskMoves (s : State) : List Turn :=
  s.tasks.flatMap fun e =>
    let k := e.1
    [.event (.childCopyInComplete k), .event (.outwardCopyComplete k), .event (.join k), .event (.taskAging k),
      .event (.gangStart k), .event (.gangReservationLapse k), .renew k,
      .event (.timetabledStart k), .event (.park k), .event (.parkedWake k), .event (.forcedSave k),
      .event (.waitgeSatisfied k), .event (.phaseRestoreComplete k)]

/-- Launches, chains, contexts, pages. -/
def State.driverMoves (s : State) : List Turn :=
  (s.chains.map fun c => .event (.chainEntryStart c.1 c.2))
  ++ (s.launches.map fun e => .event (.launchComplete e.1))
  ++ (s.asids.map fun e => .event (.preemptComplete e.1))
  ++ (s.waits.map fun w => .event (.pageFaultRecord w.die w.asid w.page))
  ++ (s.stalls.map fun w => .event (.pageWalkComplete w.die w.asid w.page))

/-- The mailbox's commands. -/
def mailboxMoves : List Turn :=
  [.event .createAs, .event .destroyAs, .event .invalidate, .event .setKey, .event .setDest, .event .installPolicy,
    .event .removePolicy, .event .connect, .event .setWeight, .event .setWindow, .event .setPeerasid, .event .preempt,
    .event .resume, .event .timingGroup, .event .mailboxUnknownCommand]

/-- Steppe, the ports, the power controller, and the small moves. -/
def State.packageMoves (s : State) : List Turn :=
  [.input, .upset, .micro, .event .colDecision, .event .ringRecordWrite, .event .circuitRetuneComplete, .event .frameTick,
    .event .checkpointSave, .event .checkpointRestore, .event .checkpointComplete]
  ++ (if s.pwr.ready || s.pwr.fail then [] else [.boot])
  ++ (if s.mbox.busy then mailboxMoves else [])
  ++ (range8.flatMap fun d => [.pstate d, .cstate d, .wake d])
  ++ ((List.range 9).map fun u => .restart u)
  ++ (s.peers.flatMap fun e => [.accept e.1, .request e.1, .rate false e.1, .rate true e.1])
  ++ (s.cells.map fun c => .scrub c.sector) ++ (s.lostsev.map fun e => .scrub (64 * e.1))
  ++ (s.tlb.map fun e => .evict e.1 e.2.1 e.2.2.1) ++ (s.utlb.map fun e => .evict (16 + e.1) e.2.1 e.2.2.1)
  ++ (s.uncache.map fun e => .uncached e.1 e.2.1)

/-- Every move that may be possible. -/
def State.moves (s : State) : List Turn :=
  s.unitMoves ++ s.wordMoves ++ s.taskMoves ++ s.driverMoves ++ s.packageMoves

/-- A move is possible here: it changes something. -/
def State.enabled (s : State) (t : Turn) : Bool := match s.act t with | .next q => decide (q ≠ s) | _ => false

/-- The moves that are possible, of which one is chosen. -/
def State.possible (s : State) : List Turn := s.moves.filter s.enabled

/-- The next choice drawn (log 4): the counter that `Config.choice` is applied to. -/
def State.drawn (s : State) : State := { s with choices := s.choices + 1 }

/-- The chosen move of a list that is not empty (log 4). -/
def State.chosen (s : State) (t : Turn) (r : List Turn) : Turn :=
  ((t :: r)[Config.choice s.choices % (r.length + 1)]?).getD t

/-! ## Laying an instruction where it is taken next (log 5) -/

/-- Words of the instruction set that steering sequencers alone take (R97). -/
def seqOnly (i : Instr) : Bool := match i with | .arg .. | .spawn .. | .gspawn .. | .cont .. => true | _ => false

/-- The words stand at a unit's pc in untimed code, and the unit moves next. -/
def State.layCode (s : State) (u : Nat) (ws : List Word) : State :=
  { s.modUnit u fun x => { x with
      mode := .code, order := false, code := Mem.write x.code (8 * x.pc) (ws.flatMap fun w => leBytes 8 w.toNat)
      codeN := max x.codeN (max 8192 (x.pc + ws.length)) } with turn := some (.unit u) }

/-- The words have been fetched into a lane of an open segment, far enough into it for every lane's sampling times; they
are the only ones, and the unit moves next. -/
def State.laySeg (s : State) (u lane : Nat) (ws : List Word) : State :=
  { s.modUnit u fun x =>
      let q : QWord := ⟨x.pc, ws, 0, x.vol.lblpc, none⟩
      let g : Seg := { (default : Seg) with
        cyc := 64, npc := x.pc + ws.length, stopped := true, ps := 64, pv := 64, pm := 64, pc := 64, accF := 16, accC := 16 }
      { x with
        mode := .seg, task := none, pend := [], real := none, regs := { x.regs with acc := 16 }
        vol := { x.vol with accinj := default }
        code := Mem.write x.code (8 * x.pc) (ws.flatMap fun w => leBytes 8 w.toNat)
        codeN := max x.codeN (max 8192 (x.pc + ws.length))
        seg := match lane with
          | 0 => { g with sb := [q] }
          | 1 => { g with vb := [q] }
          | 2 => { g with mb := [q] }
          | _ => { g with cb := [q] } } with turn := some (.unit u) }

/-- An instruction laid where its kind of unit takes it: sequencer words on sequencer 0, timed words and SEGEND in a
segment of core 0, the others in core 0's untimed code. -/
def State.lay (s : State) (ws : List Word) : State :=
  match decode ws with
  | .error _ => s.layCode 0 ws
  | .ok (i, n) =>
    let lane := laneOf (ws.headD 0#64)
    if seqOnly i then s.layCode 384 ws
    else if decide (lane ≠ 0) || (match i with | .segend .. => true | _ => false) then s.laySeg 0 lane (ws.take n)
    else s.layCode 0 ws

end Sys2Proof.Machine
end

