-- ==== Sys2Proof/Machine/Step.lean ====
section
/-! DEFINITION. One step of the module, and an instruction stored where the next step takes it. -/

namespace Sys2Proof.Machine

/-- One step: the move that State names, else one of the possible moves; with none the module waits for ever. -/
def step (s : State) : Host.Outcome State Fault Refusal :=
  match s.turn with
  | some t => State.act { s with turn := none } t
  | none =>
    let s := s.drawn
    match s.possible with
    | [] => .fault .idle
    | t :: r => s.act (s.chosen t r)

/-- The instruction whose bits are `w` stored where `step` takes its next one. -/
def State.withFetchWord (s : State) (nbits w : Nat) : State := s.lay (wordsOfBytes 4 (tableBytes nbits w))

end Sys2Proof.Machine
end

