-- ==== Sys2Proof/Safety.lean ====
section
/-! DEFINITION. The words claims use for runs: a step that ends in a next state, states that no run can make stop other
than by waiting, and the canonical form of every store and table of a state. -/

namespace Sys2Proof.Safety

open Sys2Proof.Machine

/-- An outcome that is a next state. -/
def completes (o : Out) : Prop := ∃ t, o = .next t

/-- An outcome that is not a refusal. -/
def notRefused (o : Out) : Prop := ∀ r, o ≠ .refused r

/-- Every byte store of the module outside its units is in canonical form (Memory.wf). -/
def memsOk (s : State) : Prop :=
  Memory.wf s.dev = true ∧ Memory.wf s.hostMem = true ∧ (∀ p, Memory.wf (s.peerMem.get p) = true)
  ∧ ∀ c, Memory.wf (s.clstore.get c) = true

/-- The unit and task tables are in canonical form, so that a unit or a task reads as what was last stored for it. -/
def tablesOk (s : State) : Prop := Tab.wf s.units = true ∧ Tab.wf s.tasks = true

end Sys2Proof.Safety
end

