-- ==== Sys2Proof/Certificates/Slice0/Obligations.lean ====
section
/-! DEFINITION. The statements for the provers, and the words they are written in. A statement about a word speaks of the
active unit of a state in which that unit carries words out; its conclusion is the whole next state. -/

namespace Sys2Proof.Machine.Claims


/-! ## The unit that carries out a word -/

/-- The active unit carries out a word: one issuing in an open segment, or one of untimed code. -/
def working (s : State) : Prop :=
  (s.me.iss.timed = true ∧ s.me.mode = .seg) ∨ (s.me.iss.timed = false ∧ s.me.mode = .code)

/-- The active unit issues a word in an open segment. -/
def issuing (s : State) : Prop := s.me.iss.timed = true ∧ s.me.mode = .seg

/-- Effects a word adds to the effects to come of its unit: cycles after its issue, place, lane, effect. -/
def addEffs (x : Unit) (es : List (Nat × Nat × Nat × Eff)) : Unit :=
  { x with pend := es.foldl (fun l e => insertDue ⟨x.iss.cyc + e.1, e.2.1, e.2.2.1, x.iss.cyc, e.2.2.2⟩ l) x.pend }

/-- What a guard's label does (R356, R357): LBLPC is raised, for words fetched from the next cycle in a segment. -/
def withLabel (x : Unit) (l : Label) : Unit :=
  if x.iss.timed then addEffs x (if l = 0#8 then [] else [(1, phWrite, lnS, .raise l)])
  else { x with vol := { x.vol with lblpc := x.vol.lblpc ||| l } }

/-- A scalar result (R39) at latency `n`: in a segment the queue and the latch take it at issue + n and the named register
at issue + n + 1; in untimed code at once. -/
def scalarDone (x : Unit) (d : Dst) (n : Nat) (v : Lv 64) : Unit :=
  let r := physS x d.nidx.toNat
  if x.iss.timed then
    addEffs x ((n, phWrite, lnS, .sres x.iss.cyc v) :: (if d.nw then [(n + 1, phWrite, lnS, .sname r v)] else []))
  else { x with
    vol := { x.vol with q := (v :: x.vol.q).take 16, lat := v, latIss := some (2 ^ 32) }
    regs := { x.regs with s := if d.nw then x.regs.s.put r v else x.regs.s } }

/-- A predicate result (R118) at latency `n`; a write to `p0` is discarded (R41). -/
def predDone (x : Unit) (pd : BitVec 6) (n : Nat) (v : Pred) : Unit :=
  let r := physP x pd.toNat
  if x.iss.timed then addEffs x [(n, phWrite, lnS, .pred r v)]
  else { x with regs := { x.regs with p := if r = 0 then x.regs.p else x.regs.p.put r v } }

/-! ## The functions of R115, R116 and R118 -/

/-- A rotation by `k` of 64 bits to the left. -/
def rotl (a : BitVec 64) (k : Nat) : BitVec 64 := (a <<< k) ||| (a >>> (64 - k))

/-- Division as R36 has it. -/
def divS (a b : BitVec 64) : BitVec 64 := if b = 0#64 then BitVec.ofInt 64 (-1) else BitVec.ofInt 64 (a.toInt.tdiv b.toInt)
def divU (a b : BitVec 64) : BitVec 64 := if b = 0#64 then BitVec.ofNat 64 (2 ^ 64 - 1) else BitVec.ofNat 64 (a.toNat / b.toNat)

/-- Bits `[lsb + w - 1 : lsb]` set. -/
def ones (lsb w : Nat) : BitVec 64 := BitVec.ofNat 64 (2 ^ (lsb + w) - 2 ^ lsb)

def widthOf : ExtW → Nat
  | .w8 => 8
  | .w16 => 16
  | .w32 => 32

/-- Conditions of CMP (R118). -/
def holds (cc : ICond) (a b : BitVec 64) : Bool :=
  match cc with
  | .eq => decide (a.toNat = b.toNat)
  | .ne => decide (a.toNat ≠ b.toNat)
  | .lts => decide (a.toInt < b.toInt)
  | .les => decide (a.toInt ≤ b.toInt)
  | .gts => decide (b.toInt < a.toInt)
  | .ges => decide (b.toInt ≤ a.toInt)
  | .ltu => decide (a.toNat < b.toNat)
  | .leu => decide (a.toNat ≤ b.toNat)
  | .gtu => decide (b.toNat < a.toNat)
  | .geu => decide (b.toNat ≤ a.toNat)

/-- A scalar result: guard, destination, latency, and the value with its label as the unit reads its operands. -/
structure SRes where
  g : POp
  d : Dst
  n : Nat
  v : Unit → Lv 64

/-- Operands a and b, with the label of R111. -/
def ab (f : SA) (op : BitVec 64 → BitVec 64 → BitVec 64) (x : Unit) : Lv 64 :=
  ⟨op (x.readS f.a).v (x.readB f.b).v, (x.readS f.a).l ||| (x.readB f.b).l ||| ((x.readP f.g).l ||| x.iss.lab)⟩

def a1 (f : SA1) (op : BitVec 64 → BitVec 64) (x : Unit) : Lv 64 :=
  ⟨op (x.readS f.a).v, (x.readS f.a).l ||| ((x.readP f.g).l ||| x.iss.lab)⟩

/-- The same with the label of the code box: the field's place and width are immediates (R78). -/
def withImm (v : Unit → Lv 64) (x : Unit) : Lv 64 := ⟨(v x).v, (v x).l ||| x.vol.codeL⟩

def ai (f : SI) (op : BitVec 64 → BitVec 64 → BitVec 64) (x : Unit) : Lv 64 :=
  ⟨op (x.readS f.a).v (x.readImm f.imm).v,
    (x.readS f.a).l ||| (x.readImm f.imm).l ||| ((x.readP f.g).l ||| x.iss.lab)⟩

def sa (n : Nat) (f : SA) (op : BitVec 64 → BitVec 64 → BitVec 64) : Option SRes := some ⟨f.g, f.d, n, ab f op⟩
def sa1 (f : SA1) (op : BitVec 64 → BitVec 64) : Option SRes := some ⟨f.g, f.d, 1, a1 f op⟩
def si (n : Nat) (f : SI) (op : BitVec 64 → BitVec 64 → BitVec 64) : Option SRes := some ⟨f.g, f.d, n, ai f op⟩

def fnAdd (a b : BitVec 64) : BitVec 64 := BitVec.ofNat 64 (a.toNat + b.toNat)
def fnSub (a b : BitVec 64) : BitVec 64 := BitVec.ofInt 64 ((a.toNat : Int) - b.toNat)
def fnMul (a b : BitVec 64) : BitVec 64 := BitVec.ofNat 64 (a.toNat * b.toNat)
def fnShl (a b : BitVec 64) : BitVec 64 := BitVec.ofNat 64 (a.toNat * 2 ^ (b.toNat % 64))
def fnShr (a b : BitVec 64) : BitVec 64 := BitVec.ofNat 64 (a.toNat / 2 ^ (b.toNat % 64))
def fnSar (a b : BitVec 64) : BitVec 64 := BitVec.ofInt 64 (a.toInt / 2 ^ (b.toNat % 64))
def fnRol (a b : BitVec 64) : BitVec 64 := rotl a (b.toNat % 64)
def fnRor (a b : BitVec 64) : BitVec 64 := rotl a (64 - b.toNat % 64)
def fnMins (a b : BitVec 64) : BitVec 64 := BitVec.ofInt 64 (min a.toInt b.toInt)
def fnMaxs (a b : BitVec 64) : BitVec 64 := BitVec.ofInt 64 (max a.toInt b.toInt)
def fnMinu (a b : BitVec 64) : BitVec 64 := BitVec.ofNat 64 (min a.toNat b.toNat)
def fnMaxu (a b : BitVec 64) : BitVec 64 := BitVec.ofNat 64 (max a.toNat b.toNat)

/-- The words of R115 to R117, and PGET (R118), LBLGET (R235) and DGET (R129), whose results are theirs in the same way. -/
def scalarInt : Instr → Option SRes
  | .add _ f => sa 1 f fnAdd
  | .sub _ f => sa 1 f fnSub
  | .mul _ f => sa 3 f fnMul
  | .mulhs _ f => sa 3 f fun a b => BitVec.ofInt 64 (a.toInt * b.toInt / 2 ^ 64)
  | .mulhu _ f => sa 3 f fun a b => BitVec.ofNat 64 (a.toNat * b.toNat / 2 ^ 64)
  | .divs _ f => sa 20 f divS
  | .divu _ f => sa 20 f divU
  | .rems _ f => sa 20 f fun a b => a - b * divS a b
  | .remu _ f => sa 20 f fun a b => BitVec.ofNat 64 (a.toNat % b.toNat)
  | .and _ f => sa 1 f fun a b => a &&& b
  | .or _ f => sa 1 f fun a b => a ||| b
  | .xor _ f => sa 1 f fun a b => a ^^^ b
  | .andn _ f => sa 1 f fun a b => a &&& ~~~b
  | .orn _ f => sa 1 f fun a b => a ||| ~~~b
  | .shl _ f => sa 1 f fnShl
  | .shr _ f => sa 1 f fnShr
  | .sar _ f => sa 1 f fnSar
  | .rol _ f => sa 1 f fnRol
  | .ror _ f => sa 1 f fnRor
  | .clz _ f => sa1 f fun a => BitVec.ofNat 64 ((List.range 64).takeWhile fun i => !a.getLsbD (63 - i)).length
  | .ctz _ f => sa1 f fun a => BitVec.ofNat 64 ((List.range 64).takeWhile fun i => !a.getLsbD i).length
  | .popc _ f => sa1 f fun a => BitVec.ofNat 64 ((List.range 64).filter fun i => a.getLsbD i).length
  | .brev _ f => sa1 f fun a => a.reverse
  | .mins _ f => sa 1 f fnMins
  | .maxs _ f => sa 1 f fnMaxs
  | .minu _ f => sa 1 f fnMinu
  | .maxu _ f => sa 1 f fnMaxu
  | .sext _ f w => sa1 f fun a => (a.setWidth (widthOf w)).signExtend 64
  | .zext _ f w => sa1 f fun a => BitVec.ofNat 64 (a.toNat % 2 ^ widthOf w)
  | .bfx _ f lsb w1 => some ⟨f.g, f.d, 1, withImm (a1 f fun a => (a >>> lsb.toNat) &&& ones 0 (w1.toNat + 1))⟩
  | .bfi _ f lsb w1 => some ⟨f.g, f.d, 1, withImm (ab f fun a b =>
      (a &&& ~~~ones lsb.toNat (w1.toNat + 1)) ||| (b <<< lsb.toNat &&& ones lsb.toNat (w1.toNat + 1)))⟩
  | .sel _ f p => some ⟨f.g, f.d, 1, fun x =>
      ⟨if (x.readP p).v then (x.readS f.a).v else (x.readB f.b).v,
        (x.readS f.a).l ||| (x.readB f.b).l ||| (x.readP p).l ||| ((x.readP f.g).l ||| x.iss.lab)⟩⟩
  | .mov _ f => sa1 f fun a => a
  | .addImm _ f => si 1 f fnAdd
  | .subImm _ f => si 1 f fnSub
  | .mulImm _ f => si 3 f fnMul
  | .andImm _ f => si 1 f fun a b => a &&& b
  | .orImm _ f => si 1 f fun a b => a ||| b
  | .xorImm _ f => si 1 f fun a b => a ^^^ b
  | .andnImm _ f => si 1 f fun a b => a &&& ~~~b
  | .ornImm _ f => si 1 f fun a b => a ||| ~~~b
  | .shlImm _ f => si 1 f fnShl
  | .shrImm _ f => si 1 f fnShr
  | .sarImm _ f => si 1 f fnSar
  | .rolImm _ f => si 1 f fnRol
  | .rorImm _ f => si 1 f fnRor
  | .minsImm _ f => si 1 f fnMins
  | .maxsImm _ f => si 1 f fnMaxs
  | .minuImm _ f => si 1 f fnMinu
  | .maxuImm _ f => si 1 f fnMaxu
  | .movi _ d imm g => some ⟨g, d, 1, fun x =>
      ⟨(x.readImm imm).v, x.vol.codeL ||| ((x.readP g).l ||| x.iss.lab)⟩⟩
  | .pget _ d a g => some ⟨g, d, 1, fun x =>
      ⟨if (x.readP a).v then 1#64 else 0#64, (x.readP a).l ||| ((x.readP g).l ||| x.iss.lab)⟩⟩
  | .lblget _ f => some ⟨f.g, f.d, 1, fun x =>
      ⟨(x.readS f.a).l.setWidth 64, (x.readS f.a).l ||| ((x.readP f.g).l ||| x.iss.lab)⟩⟩
  | .dget _ d e w g => some ⟨g, d, 2, fun x =>
      ⟨(x.regs.d.get e.toNat).word w.toNat, (x.regs.d.get e.toNat).lab ||| ((x.readP g).l ||| x.iss.lab)⟩⟩
  | _ => none

/-! ## Scalar floating point (R120, R121) -/

/-- The value of an operand, and one rounding of an exact result to the type. -/
def fval (t : FT) (v : BitVec 64) : XVal :=
  match t with
  | .f32 => FP.f32.decode (v.toNat % 2 ^ 32)
  | .f64 => FP.f64.decode v.toNat

def fres (t : FT) (rm : RMode) (y : XReal) : BitVec 64 :=
  match t with
  | .f32 => BitVec.ofNat 64 (FP.f32.roundReal rm false 0 y).pat
  | .f64 => BitVec.ofNat 64 (FP.f64.roundReal rm false 0 y).pat

def latF : FT → Nat
  | .f32 => 4
  | .f64 => 6

def latDiv : FT → Nat
  | .f32 => 12
  | .f64 => 20

/-- The value FCVT takes, and the one it gives (R32, R33, R121). -/
def fcvtFrom (t : CvtT) (v : BitVec 64) : XVal :=
  match t with
  | .f32 => FP.f32.decode (v.toNat % 2 ^ 32)
  | .f64 => FP.f64.decode v.toNat
  | .s64 => XVal.ofInt v.toInt
  | .u64 => XVal.ofInt v.toNat

def fcvtTo (t : CvtT) (rm : RMode) (y : XVal) : BitVec 64 :=
  match t with
  | .f32 => BitVec.ofNat 64 (FP.f32.round rm false 0 y).pat
  | .f64 => BitVec.ofNat 64 (FP.f64.round rm false 0 y).pat
  | .s64 => BitVec.ofInt 64 (roundInt rm (-(2 ^ 63)) (2 ^ 63 - 1) y).1
  | .u64 => BitVec.ofInt 64 (roundInt rm 0 (2 ^ 64 - 1) y).1

def cvtOf : FT → CvtT
  | .f32 => .f32
  | .f64 => .f64

/-- The words of R120 and R121: the exact result of the operands, rounded once. -/
def scalarFp : Instr → Option SRes
  | .fadd _ t f rm => sa (latF t) f fun a b => fres t rm (.ex (XVal.sum rm [fval t a, fval t b]))
  | .fsub _ t f rm => sa (latF t) f fun a b => fres t rm (.ex (XVal.sum rm [fval t a, (fval t b).neg]))
  | .fmul _ t f rm => sa (latF t) f fun a b => fres t rm (.ex ((fval t a).mul (fval t b)))
  | .ffma _ t f c rm => some ⟨f.g, f.d, latF t, fun x =>
      ⟨fres t rm (.ex (XVal.sum rm [(fval t (x.readS f.a).v).mul (fval t (x.readB f.b).v), fval t (x.readS c).v])),
        (x.readS f.a).l ||| (x.readB f.b).l ||| (x.readS c).l ||| ((x.readP f.g).l ||| x.iss.lab)⟩⟩
  | .fdiv _ t f rm => sa (latDiv t) f fun a b => fres t rm (divReal (fval t a) (fval t b)).1
  | .fsqrt _ t f rm => some ⟨f.g, f.d, latDiv t, a1 f fun a => fres t rm (sqrtReal (fval t a)).1⟩
  | .fmin _ t f => sa (latF t) f fun a b => fres t .rne (.ex ((fval t a).fmin (fval t b)))
  | .fmax _ t f => sa (latF t) f fun a b => fres t .rne (.ex ((fval t a).fmax (fval t b)))
  | .fcvt _ t f rm x out => some ⟨f.g, f.d, latF t, a1 f fun a =>
      if out then fcvtTo x rm (fcvtFrom (cvtOf t) a) else fcvtTo (cvtOf t) rm (fcvtFrom x a)⟩
  | _ => none

/-! ## Predicate words (R118) -/

structure PRes where
  g  : POp
  pd : BitVec 6
  n  : Nat
  v  : Unit → Pred

def pab (f : SP) (op : BitVec 64 → BitVec 64 → Bool) : Option PRes :=
  some ⟨f.g, f.pd, 1, fun x => ⟨op (x.readS f.a).v (x.readB f.b).v,
    (x.readS f.a).l ||| (x.readB f.b).l ||| ((x.readP f.g).l ||| x.iss.lab)⟩⟩

def ppp (f : PP) (op : Bool → Bool → Bool) : Option PRes :=
  some ⟨f.g, f.pd, 1, fun x => ⟨op (x.readP f.a).v (x.readP f.b).v,
    (x.readP f.a).l ||| (x.readP f.b).l ||| ((x.readP f.g).l ||| x.iss.lab)⟩⟩

/-- The words of R118 that write a predicate. -/
def scalarPred : Instr → Option PRes
  | .cmp _ f cc => pab f (holds cc)
  | .tst _ f ne => pab f fun a b => if ne then decide (a &&& b ≠ 0#64) else decide (a &&& b = 0#64)
  | .pand _ f => ppp f fun a b => a && b
  | .por _ f => ppp f fun a b => a || b
  | .pxor _ f => ppp f fun a b => a != b
  | .pandn _ f => ppp f fun a b => a && !b
  | .pset _ pd a g => some ⟨g, pd, 1, fun x =>
      ⟨decide ((x.readS a).v.toNat ≠ 0), (x.readS a).l ||| ((x.readP g).l ||| x.iss.lab)⟩⟩
  | .fcmp _ t pd a b g cc => some ⟨g, pd, latF t, fun x =>
      ⟨fcond cc (fval t (x.readS a).v) (fval t (x.readS b).v),
        (x.readS a).l ||| (x.readS b).l ||| ((x.readP g).l ||| x.iss.lab)⟩⟩
  | _ => none

/-! ## Guards -/

/-- The guard of every S word that R112 speaks of; the control words BR, CALLT, RETT and LOOPB stand apart, since a false
guard lets fetch go on past them. -/
def guardOf : Instr → Option POp
  | .lset _ _ _ _ g | .nop _ g | .dset _ _ _ _ g | .boxsub _ _ _ _ _ _ g | .boxdim _ _ _ _ g | .dadv _ _ _ _ g
  | .lds _ _ _ _ _ _ g | .sts _ _ _ _ _ _ g | .cadd _ _ _ _ _ g | .crd _ _ _ _ _ g | .fmtq _ _ g | .arg _ _ _ _ _ g
  | .spawn _ _ g | .gspawn _ _ _ g | .cont _ _ g | .tend _ g | .tfail _ _ g | .lblraise _ _ g | .sysrd _ _ _ g
  | .syswr _ _ _ g | .trap _ _ g | .bkpt _ g | .fence _ _ g => some g
  | i => match scalarInt i, scalarFp i, scalarPred i with
    | some r, _, _ => some r.g
    | _, some r, _ => some r.g
    | _, _, some r => some r.g
    | _, _, _ => none

end Sys2Proof.Machine.Claims

open Sys2Proof Sys2Proof.Machine Sys2Proof.Machine.Claims

/-! ## S lane -/

/-- R115, R116, R117 (with PGET, LBLGET and DGET): under a true guard the word completes; its result, at its latency and
with the label of R111, is delivered as R39 says, and nothing else in the machine changes. -/
def Obligations.ScalarIntegerResult : Prop :=
  ∀ (s : State) (i : Instr) (r : SRes), working s → scalarInt i = some r → (s.me.readP r.g).v = true →
    exec i s = .next (s.modMe fun x => scalarDone (withLabel x (x.readP r.g).l) r.d r.n (r.v x))

/-- R120, R121: under a true guard the exact result of the operands, rounded once in the word's mode, is delivered as a
scalar result at the latency of the type; no flag is set and nothing else in the machine changes. -/
def Obligations.ScalarFloatResult : Prop :=
  ∀ (s : State) (i : Instr) (r : SRes), working s → scalarFp i = some r → (s.me.readP r.g).v = true →
    exec i s = .next (s.modMe fun x => scalarDone (withLabel x (x.readP r.g).l) r.d r.n (r.v x))

/-- R118, with FCMP of R120: under a true guard the predicate named is written at the word's latency with the label of R111;
a write to `p0` is discarded and nothing else in the machine changes. -/
def Obligations.PredicateResult : Prop :=
  ∀ (s : State) (i : Instr) (r : PRes), working s → scalarPred i = some r → (s.me.readP r.g).v = true →
    exec i s = .next (s.modMe fun x => predDone (withLabel x (x.readP r.g).l) r.pd r.n (r.v x))

/-- R112: a word whose guard is false has no effect but the guard's label in LBLPC. -/
def Obligations.FalseGuardNoEffect : Prop :=
  ∀ (s : State) (i : Instr) (g : POp), working s → guardOf i = some g → (s.me.readP g).v = false →
    exec i s = .next (s.modMe fun x => withLabel x (x.readP g).l)

/-! ## Control words (R122 to R127) -/

namespace Sys2Proof.Machine.Claims

/-- Fetch restarts at a target (R122, R241): held instructions are discarded, the S lane goes on at issue + 3. -/
def jump (x : Unit) (t : Nat) : Unit :=
  if x.iss.timed then
    { x with seg := { x.seg with
        ctl := none, held := [], npc := t, fetchC := x.iss.cyc + 1, taken := x.iss.cyc + 3, stopped := false, got := 0
        accF := x.seg.accC } }
  else { x with pc := t }

/-- Fetch goes on past a control word that is not taken (R241, R357): held instructions are deposited for the next cycle
with LBLPC as of now and the guard's label; a decode fault found among them is raised then (R98). -/
def goOn (x : Unit) (gl : Label) : Unit :=
  if x.iss.timed then
    let seg := (x.seg.held.filter fun q => q.bad.isNone).foldl
      (fun (g : Seg) q => g.deposit { q with first := max q.first (x.iss.cyc + 1), lab := x.vol.lblpc ||| gl })
      { x.seg with ctl := none, held := [], gl := (x.iss.cyc, gl) }
    let y := { x with seg := seg }
    match x.heldFault with
    | some (f, code, lane) =>
      { y with pend := insertDue ⟨max f x.iss.cyc, phPush, lnS, x.iss.cyc, .dfault code 0 lane (x.vol.lblpc ||| gl) false⟩ y.pend }
    | none => y
  else x

/-- The target of an offset (R67): counted from the word that holds it. -/
def targetOf (x : Unit) (off : BitVec 24) : Nat := ((x.iss.pc : Int) + off.toInt).toNat

/-- A taken word may lead there: not to SYNC from inside a segment (R126). -/
def mayLead (x : Unit) (t : Nat) : Prop := x.iss.timed = true → ∀ h, x.instrAt t ≠ some (.sync h)

/-- The guard of a control word. -/
def ctlGuard : Instr → Option POp
  | .br _ g _ | .callt _ g _ | .rett _ g | .loopb _ g _ => some g
  | _ => none

/-- LOOPB's counts, rotation bases and new p48 (R124, R45): from the next cycle in a segment, at once in untimed code. -/
def looped (x : Unit) (l : BitVec 32) (d : BitVec 16) (b : Bool) (gl : Label) : Unit :=
  let pb := x.regs.pbase - 1#4
  let v : Pred := ⟨b, x.vol.lblpc ||| gl⟩
  if x.iss.timed then
    addEffs x [(1, phWrite, lnS, if b then Eff.lcnt l else Eff.dcnt d), (1, phWrite, lnS, .base (x.regs.rbase - 1#4) pb),
      (1, phWrite, lnS, .pred (48 + pb.toNat) v)]
  else { x with regs := { x.regs with
    lcnt := l, dcnt := d, rbase := x.regs.rbase - 1#4, pbase := pb, p := x.regs.p.put (48 + pb.toNat) v } }

/-- LSET's counts and predicates (R125): p48 true and p49 to p63 false, with the label of the operand, of the code box
(R78: DCNT is an immediate) and of the word. -/
def lsetDone (x : Unit) (v : Lv 64) (dcnt : BitVec 16) (l : Label) : Unit :=
  let ps := (List.range 16).map fun i => (physP x (48 + i), (⟨decide (i = 0), v.l ||| x.vol.codeL ||| l⟩ : Pred))
  if x.iss.timed then
    addEffs x ((1, phWrite, lnS, .lcnt (v.v.setWidth 32)) :: (1, phWrite, lnS, .dcnt dcnt) :: ps.map fun p => (1, phWrite, lnS, .pred p.1 p.2))
  else { x with regs := { x.regs with
    lcnt := v.v.setWidth 32, dcnt := dcnt, p := ps.foldl (fun t p => t.put p.1 p.2) x.regs.p } }

/-! ## Descriptors (R128 to R132) -/

/-- A descriptor effect, readable from issue + 2 (R49). -/
def descDone (x : Unit) (e : Eff) (i : Nat) (d : Desc) : Unit :=
  if x.iss.timed then addEffs x [(2, phWrite, lnS, e)] else { x with regs := { x.regs with d := x.regs.d.put i d } }

/-- DSET's value is in the range of its field (R128): a present slot, 0 or 1 for VALID, and a dimension below the rank. -/
def fits (s : State) (d : Desc) (f : DFld) (v : BitVec 64) : Prop :=
  match f with
  | .slot => v.toNat ≤ 15 ∧ (s.box s.active v.toNat).present = true
  | .valid => v.toNat = 0 ∨ (v.toNat = 1 ∧ (s.box s.active d.slot.toNat).present = true)
  | .step i => i.toNat < (s.box s.active d.slot.toNat).rank ∧ v.toNat ≤ 255
  | .org i => i.toNat < (s.box s.active d.slot.toNat).rank ∧ -(2 ^ 29 : Int) ≤ v.toInt ∧ v.toInt < 2 ^ 29
  | .ext i => i.toNat < (s.box s.active d.slot.toNat).rank ∧ v.toNat < 2 ^ 30

/-- The handle after DSET (R128): SLOT gives the whole box, the others one field, with the label joined in. -/
def dsetTo (s : State) (d : Desc) (f : DFld) (v : BitVec 64) (l : Label) : Desc :=
  match f with
  | .slot =>
    let b := s.box s.active v.toNat
    { slot := BitVec.ofNat 4 v.toNat, valid := true, lab := b.lab ||| l, step := ⟨1, 1, 1, 1⟩, org := ⟨0, 0, 0, 0⟩
      ext := Quad.ofFn fun i => BitVec.ofNat 30 (if i < b.rank then b.ext.get i else 1) }
  | .valid => { d with valid := decide (v.toNat = 1), lab := d.lab ||| l }
  | .step i => { d with step := d.step.set i.toNat (BitVec.ofNat 8 v.toNat), lab := d.lab ||| l }
  | .org i => { d with org := d.org.set i.toNat (BitVec.ofNat 30 v.toNat), lab := d.lab ||| l }
  | .ext i => { d with ext := d.ext.set i.toNat (BitVec.ofNat 30 v.toNat), lab := d.lab ||| l }

/-- The effect that carries DSET's write: a field write is made on the handle as it stands at issue + 2. -/
def dsetEff (s : State) (i : Nat) (d : Desc) (f : DFld) (v : BitVec 64) (l : Label) : Eff :=
  match f with
  | .slot => .dput i (dsetTo s d f v l)
  | f => .dset i f v.toNat l

/-- Coordinates 2 and 3 of a COORD word (R77), 0 without one; a COORD word brings the code-box label. -/
def co2 (co : Option Coord) : Int := match co with | some c => c.c2.toInt | none => 0
def co3 (co : Option Coord) : Int := match co with | some c => c.c3.toInt | none => 0
def coLab (x : Unit) (co : Option Coord) : Label := if co.isSome then x.vol.codeL else 0#8

def fits30 (z : Int) : Prop := -(2 ^ 29 : Int) ≤ z ∧ z < 2 ^ 29

/-! ## Scalar memory (R133 to R139) -/

/-- A record in BOXERR (R275), made at the word's cycle; the first one stays. -/
def recorded (x : Unit) (kind slot : Nat) (l : Label) (det : BoxDet) : Unit :=
  if x.iss.timed then addEffs x [(0, phNow, lanS, .boxrec kind lanS slot x.iss.cyc 0 l det)]
  else if x.vol.boxerr.getLsbD 0 then x
  else { x with vol := { x.vol with
    boxerr := boxerrWord kind lanS slot 0xFFFFFFFF 0, boxerrL := x.vol.boxerrL ||| l, boxdet := det } }

/-- A scalar memory word may name the box (R134): present, no stream, no ZMASK and no counter layout. -/
def scalarBox (b : Box) : Prop := b.present = true ∧ b.mode ≠ .stream ∧ layZmask b.layout = false ∧ b.layout ≠ 0x30

/-- A counter word may name the box (R133, R137): present, of COUNTER64, and a stream only from a sequencer. -/
def counterBox (u : Nat) (b : Box) : Prop :=
  b.present = true ∧ b.layout = 0x30 ∧ (b.mode = .stream → 384 ≤ u)

/-- The signed layouts (R134). -/
def signedLay (l : Nat) : Bool := decide (l = 1) || decide (l = 2) || decide (l = 3) || decide (l = 4)

/-- An element's bits extended to 64 (R134). -/
def extended (sx : Bool) (w v : Nat) : BitVec 64 :=
  if sx && decide (2 ^ (w - 1) ≤ v) then BitVec.ofInt 64 ((v : Int) - 2 ^ w) else BitVec.ofNat 64 v

/-- The reads of scalar memory: guard, destination, slot, coordinates with their labels, the box rule, whether elements
are sign-extended. -/
structure SRead where
  g : POp
  d : Dst
  slot : Nat
  c : Unit → Quad Int
  cl : Unit → Label
  ok : Nat → Box → Prop
  sx : Box → Bool

def scalarRead : Instr → Option SRead
  | .lds _ d slot x y co g => some ⟨g, d, slot.toNat,
      fun u => ⟨(u.readC x).v.toInt, (u.readC y).v.toInt, co2 co, co3 co⟩,
      fun u => (u.readC x).l ||| (u.readC y).l ||| coLab u co, fun _ b => scalarBox b, fun b => signedLay b.layout⟩
  | .crd _ d slot x co g => some ⟨g, d, slot.toNat,
      fun u => ⟨(u.readC x).v.toInt, 0, co2 co, co3 co⟩, fun u => (u.readC x).l ||| coLab u co, counterBox,
      fun _ => false⟩
  | _ => none

/-! ## System registers (R63 to R65) -/

/-- What SYSRD reads of the unit that runs it (R63, R65), SEGCYC apart. -/
def sysValue (s : State) (n : Nat) : Lv 64 :=
  let x := s.me
  match n with
  | 0x01 => ⟨x.regs.lcnt.setWidth 64, 0#8⟩
  | 0x02 => ⟨x.regs.dcnt.setWidth 64, 0#8⟩
  | 0x03 => ⟨x.regs.rbase.setWidth 64, 0#8⟩
  | 0x04 => ⟨x.regs.pbase.setWidth 64, 0#8⟩
  | 0x05 => ⟨BitVec.ofNat 64 (x.vol.commits % 2 ^ 16 + 2 ^ 16 * x.vol.attempt), 0#8⟩
  | 0x06 => ⟨x.vol.boxerr, x.vol.boxerrL⟩
  | 0x07 => ⟨x.vol.lblpc.setWidth 64, x.vol.lblpc⟩
  | 0x08 => x.vol.chst
  | 0x09 => ⟨x.vol.mstat, x.vol.mstatL⟩
  | 0x0A => ⟨x.regs.vstat.setWidth 64, x.regs.vstatL⟩
  | 0x0B => ⟨x.regs.vmode, x.regs.seedLab⟩
  | 0x0C => if (s.asids.get (s.asidOf s.active)).debug then x.vol.accinj else ⟨0#64, 0#8⟩
  | 0x0D => ⟨(s.taskOf s.active).taskid.setWidth 64, 0#8⟩
  | 0x0E => ⟨BitVec.ofNat 64 (if s.active < 384 then s.active else 0x8000 + (s.active - 384)), 0#8⟩
  | _ => ⟨BitVec.ofNat 64 (s.taskOf s.active).level, 0#8⟩

/-- Registers a steering sequencer does not have (R65). -/
def notOnSeq (n : Nat) : Prop := n = 0x09 ∨ n = 0x0A ∨ n = 0x0B ∨ n = 0x0C

/-- What a SYSWR of an allowed register leaves (R63, R64, R191, R192); reserved fields read as zero (R6). -/
def sysWritten (x : Unit) (n : Nat) (v : Lv 64) : Unit :=
  match n with
  | 0x01 => { x with regs := { x.regs with lcnt := v.v.setWidth 32 } }
  | 0x02 => { x with regs := { x.regs with dcnt := v.v.setWidth 16 } }
  | 0x03 => { x with regs := { x.regs with rbase := v.v.setWidth 4 } }
  | 0x04 => { x with regs := { x.regs with pbase := v.v.setWidth 4 } }
  | 0x06 => { x with vol := { x.vol with boxerr := 0#64, boxerrL := v.l, boxdet := default } }
  | 0x09 => { x with vol := { x.vol with mstat := v.v &&& 0x7FFFFFFFF#64, mstatL := v.l } }
  | 0x0A => { x with regs := { x.regs with vstat := v.v.setWidth 5, vstatL := v.l } }
  | 0x0B => { x with regs := { x.regs with
      vmode := v.v &&& 0xFFFFFFFF00000FF7#64, seedLab := v.l, gens := seedGens (v.v.extractLsb' 32 32) } }
  | _ => { x with vol := { x.vol with accinj := ⟨v.v &&& 0x807FFFFFFFFFFFFF#64, v.l⟩ } }

/-- VMODE may be written (R64): a rounding mode of R19, windows on allotted tiles or left where they are. -/
def vmodeFits (x : Unit) (v : BitVec 64) : Prop :=
  (v.extractLsb' 0 3).toNat ≤ 4
  ∧ (v.extractLsb' 4 4 = x.regs.vmode.extractLsb' 4 4 ∨ (v.extractLsb' 4 4).toNat < x.regs.acc)
  ∧ (v.extractLsb' 8 4 = x.regs.vmode.extractLsb' 8 4 ∨ (v.extractLsb' 8 4).toNat < x.regs.acc)

/-- A SYSWR is allowed (R63 to R65). -/
def sysAllowed (s : State) (n : Nat) (v : BitVec 64) : Prop :=
  (n = 1 ∨ n = 2 ∨ n = 3 ∨ n = 4 ∨ n = 6 ∨ n = 9 ∨ n = 0xA ∨ n = 0xB ∨ n = 0xC)
  ∧ (384 ≤ s.active → ¬ notOnSeq n) ∧ (n = 6 → v = 0#64) ∧ (n = 0xB → vmodeFits s.me v)
  ∧ (n = 0xC → (s.asids.get (s.asidOf s.active)).debug = true)

/-- Incomplete words of the active unit, fences apart. -/
def openOf (s : State) : List Nat :=
  (s.xwords.filter fun e => decide (e.2.unit = s.active) && !e.2.done && !e.2.isFence).map (·.1)

/-- The active unit has a word, fences apart, that is not complete, whose counter addition is still to be made, or of which a
transaction or flit is on its way (R332). -/
def behind (s : State) : Prop :=
  ∃ e ∈ s.xwords, e.2.unit = s.active ∧ e.2.isFence = false
    ∧ (e.2.done = false ∨ e.2.cstat = .released ∨ e.2.cstat = .pending ∨ s.onWay e.1 = true ∨ s.flitOpen e.1 = true)

end Sys2Proof.Machine.Claims

open Sys2Proof Sys2Proof.Machine Sys2Proof.Machine.Claims

/-- R122, R241: a control word whose guard is false, and a LOOPB whose two counts are zero, let fetch go on past them. -/
def Obligations.BranchNotTaken : Prop :=
  ∀ (s : State) (i : Instr) (g : POp), working s → ctlGuard i = some g →
    (s.me.readP g).v = false ∨ (∃ h off, i = .loopb h g off ∧ s.me.regs.lcnt = 0#32 ∧ s.me.regs.dcnt = 0#16) →
    exec i s = .next (s.modMe fun x => goOn (withLabel x (x.readP g).l) (x.readP g).l)

/-- R122, R123, R126: BR, CALLT and RETT under a true guard go to their target; CALLT pushes the index after it onto a
return stack of eight, RETT pops it. A full return stack at CALLT, an empty one at RETT, and a taken word inside a segment
whose target is SYNC are ILLEGAL_OPERAND. -/
def Obligations.BranchTaken : Prop :=
  (∀ (s : State) (h : Hdr) (g : POp) (off : BitVec 24), working s → (s.me.readP g).v = true →
      let gl := (s.me.readP g).l
      (mayLead s.me (targetOf s.me off) →
        exec (.br h g off) s = .next (s.modMe fun x => jump (withLabel x gl) (targetOf x off)))
      ∧ (mayLead s.me (targetOf s.me off) → s.me.vol.rstack.length < 8 →
        exec (.callt h g off) s = .next (s.modMe fun x =>
          let y := withLabel x gl
          jump { y with vol := { y.vol with rstack := (x.iss.pc + x.iss.len) :: x.vol.rstack } } (targetOf x off)))
      ∧ (∀ (a : Nat) (r : List Nat), s.me.vol.rstack = a :: r → mayLead s.me a →
        exec (.rett h g) s = .next (s.modMe fun x =>
          let y := withLabel x gl
          jump { y with vol := { y.vol with rstack := r } } a)))
  ∧ (∀ (s : State) (h h' : Hdr) (g : POp) (off : BitVec 24), working s → (s.me.readP g).v = true →
      let stop := Host.Outcome.next ((s.modMe fun x => withLabel x (x.readP g).l).fail lanS fIllegalOperand 0
        ((s.me.readP g).l ||| s.me.iss.lab))
      (8 ≤ s.me.vol.rstack.length → exec (.callt h g off) s = stop)
      ∧ (s.me.vol.rstack = [] → exec (.rett h g) s = stop)
      ∧ (s.me.iss.timed = true → s.me.instrAt (targetOf s.me off) = some (.sync h') →
        exec (.br h g off) s = stop ∧ exec (.callt h g off) s = stop))

/-- R124, R45: LOOPB counts LCNT down and sets the new p48; after that it counts DCNT down and clears it; the rotation
bases fall by one each time it is taken. With both counts zero nothing changes and fetch goes on past it. -/
def Obligations.LoopTaken : Prop :=
  ∀ (s : State) (h : Hdr) (g : POp) (off : BitVec 24), working s → (s.me.readP g).v = true →
    mayLead s.me (targetOf s.me off) →
    let gl := (s.me.readP g).l
    (s.me.regs.lcnt ≠ 0#32 → exec (.loopb h g off) s = .next (s.modMe fun x =>
      jump (looped (withLabel x gl) (x.regs.lcnt - 1#32) x.regs.dcnt true gl) (targetOf x off)))
    ∧ (s.me.regs.lcnt = 0#32 → s.me.regs.dcnt ≠ 0#16 → exec (.loopb h g off) s = .next (s.modMe fun x =>
      jump (looped (withLabel x gl) x.regs.lcnt (x.regs.dcnt - 1#16) false gl) (targetOf x off)))
    ∧ (s.me.regs.lcnt = 0#32 → s.me.regs.dcnt = 0#16 → exec (.loopb h g off) s = .next (s.modMe fun x =>
      goOn (withLabel x gl) gl))

/-- R128, R130, R131, R132: descriptor words whose checks stand write their handle from issue + 2; BOXDIM gives an extent,
1 from the rank on. -/
def Obligations.DescriptorWords : Prop :=
  ∀ (s : State) (h : Hdr) (g : POp) (d e : BitVec 4) (a b : SOp) (f : DFld) (co : Option Coord) (dim : BitVec 2) (r : Dst),
    working s → (s.me.readP g).v = true →
    let x := s.me
    let gl := (x.readP g).l
    let base := gl ||| x.iss.lab
    let hd := x.regs.d.get d.toNat
    let he := x.regs.d.get e.toNat
    let rankOf (t : Desc) := (s.box s.active t.slot.toNat).rank
    let off : Quad Int := ⟨(x.readS a).v.toInt, (x.readS b).v.toInt, co2 co, co3 co⟩
    let lsub := (x.readS a).l ||| (x.readS b).l ||| coLab x co ||| base
    let org (i : Nat) : Int := he.orgZ i + off.get i * he.stepZ i
    let sub : Desc := { he with org := Quad.ofFn fun i => BitVec.ofInt 30 (org i), lab := he.lab ||| lsub }
    let la := (x.readS a).l ||| base
    let adv : Int := hd.orgZ dim.toNat + (x.readS a).v.toInt * hd.stepZ dim.toNat
    let box := s.box s.active e.toNat
    (fits s hd f (x.readS a).v → exec (.dset h d f a g) s = .next (s.modMe fun x =>
      descDone (withLabel x gl) (dsetEff s d.toNat hd f (x.readS a).v la) d.toNat (dsetTo s hd f (x.readS a).v la)))
    ∧ (he.valid = true → (∀ i < 4, (i < rankOf he ∨ off.get i = 0) ∧ fits30 (org i)) →
      exec (.boxsub h d e a b co g) s = .next (s.modMe fun x =>
        descDone (withLabel x gl) (.dput d.toNat sub) d.toNat sub))
    ∧ (hd.valid = true → dim.toNat < rankOf hd → fits30 adv →
      exec (.dadv h d a dim g) s = .next (s.modMe fun x =>
        descDone (withLabel x gl) (.dset d.toNat (.org dim) (BitVec.ofInt 30 adv).toNat la) d.toNat
          { hd with org := hd.org.set dim.toNat (BitVec.ofInt 30 adv), lab := hd.lab ||| la }))
    ∧ (box.present = true → exec (.boxdim h r e dim g) s = .next (s.modMe fun x =>
      scalarDone (withLabel x gl) r 2
        ⟨BitVec.ofNat 64 (if dim.toNat < box.rank then box.ext.get dim.toNat else 1), box.lab ||| base⟩))

/-- R134, R135, R138, R273: LDS and CRD of an element inside its box: in a segment it is sampled at issue + 2, in untimed
code it is read at once, wherever the box lies; outside the box the result is 0 and BOXERR keeps the first record. -/
def Obligations.ScalarLoad : Prop :=
  ∀ (s : State) (i : Instr) (r : SRead), working s → scalarRead i = some r → (s.me.readP r.g).v = true →
    let b := s.box s.active r.slot
    let x := s.me
    let gl := (x.readP r.g).l
    let l := b.lab ||| r.cl x ||| (gl ||| x.iss.lab)
    let c := r.c x
    let s1 := s.modMe fun x => withLabel x gl
    let named := if r.d.nw then some (physS x r.d.nidx.toNat) else none
    r.ok s.active b →
    (b.has c = true → x.iss.timed = true → exec i s = .next (s.modMe fun x =>
      addEffs (withLabel x gl) [(2, phSample, lnS, .sload named (b.loc c) (r.sx b) l)]))
    ∧ (∀ (t : State) (q : RdOk), b.has c = true → x.iss.timed = false →
      s1.readBox (s1.ctxOf s.active) s.active b (b.loc c).addr (b.loc c).bytes = (t, .ok q) → Label.sub q.lab b.lab = true →
      exec i s = .next (t.modMe fun x =>
        scalarDone x r.d 6 ⟨extended (r.sx b) (b.loc c).width ((b.loc c).of q.data), l⟩))
    ∧ (b.has c = false → exec i s = .next (s.modMe fun x =>
      scalarDone (recorded (withLabel x gl) kRead r.slot l (b.detail c)) r.d 6 ⟨0#64, l⟩))

/-- R135, R136, R137, R139: STS of an element inside a box it may write is performed at issue + 4 in a segment and at once in
untimed code, a sequencer's after its egress decision; outside the box it is a record and nothing else. CADD is performed at
issue + 4 or at once in untimed code, deferred to the commit under phase protection; FMTQ enters the format queue at
issue + 2, and finds it full in untimed code as in a segment (FORMAT_OVERFLOW). -/
def Obligations.ScalarStore : Prop :=
  ∀ (s : State) (h : Hdr) (g : POp) (slot : BitVec 4) (p q : SC) (v : SB) (co : Option Coord), working s →
    (s.me.readP g).v = true →
    let u := s.active
    let b := s.box u slot.toNat
    let x := s.me
    let gl := (x.readP g).l
    let base := gl ||| x.iss.lab
    let c : Quad Int := ⟨(x.readC p).v.toInt, (x.readC q).v.toInt, co2 co, co3 co⟩
    let l := (x.readB v).l ||| ((x.readC p).l ||| (x.readC q).l ||| coLab x co) ||| base
    let k : Quad Int := ⟨(x.readC p).v.toInt, 0, co2 co, co3 co⟩
    let lk := (x.readB v).l ||| ((x.readC p).l ||| coLab x co) ||| base
    let s1 := s.modMe fun x => withLabel x gl
    (scalarBox b → b.mode ≠ .in_ → Label.sub l b.lab = true → (384 ≤ u → s1.inGroupArg u slot.toNat c = false) →
      (b.has c = true → x.iss.timed = true → exec (.sts h slot p q v co g) s = .next (s.modMe fun x =>
        addEffs (withLabel x gl) [(4, phWrite, lnS, .sbits [(b.loc c, (x.readB v).v.toNat)])]))
      ∧ (b.has c = true → x.iss.timed = false → b.scope = .scratch → u < 384 →
        exec (.sts h slot p q v co g) s = .next (s1.modMe fun y =>
          let e := b.loc c
          let new := e.bytesOf (x.readB v).v.toNat
          { y with spad := Mem.write y.spad e.addr (overlay (Mem.bytes y.spad e.addr new.length) new e.maskOf) }))
      ∧ (∀ t t' : State, b.has c = true → x.iss.timed = false →
        (if 384 ≤ u then s1.seqEgress u b l (b.loc c).addr (b.loc c).bytes else (s1, none)) = (t, none) →
        t.writeBox (t.ctxOf u) u b l (b.loc c).addr ((b.loc c).bytesOf (x.readB v).v.toNat) (b.loc c).maskOf = (t', none) →
        exec (.sts h slot p q v co g) s = .next t')
      ∧ (b.has c = false → exec (.sts h slot p q v co g) s = .next (s.modMe fun x =>
        recorded (withLabel x gl) kWrite slot.toNat l (b.detail c))))
    ∧ (counterBox u b → b.mode ≠ .in_ → Label.sub lk b.lab = true → 384 ≤ u → b.has k = true → ∀ t t' : State,
      s1.seqEgress u b lk (b.addr k) 8 = (t, none) →
      t.counterAdd (t.ctxOf u) u b lk (b.addr k) (x.readB v).v.toNat = (t', none) →
      exec (.cadd h slot p v co g) s = .next t')
    ∧ (counterBox u b → b.mode ≠ .in_ → Label.sub lk b.lab = true → u < 384 →
      (b.has k = true → s.prot u = true → exec (.cadd h slot p v co g) s = .next (s.modMe fun x =>
        let y := withLabel x gl
        if x.iss.timed then addEffs y [(0, phNow, lnS, .defer (b.addr k) (x.readB v).v.toNat)]
        else { y with defer := y.defer ++ [(b.addr k, (x.readB v).v.toNat)] }))
      ∧ (b.has k = true → s.prot u = false → x.iss.timed = false → b.scope = .scratch → exec (.cadd h slot p v co g) s =
        .next (s1.modMe fun y =>
          let n := min (Mem.nat y.spad (b.addr k) 8 + (x.readB v).v.toNat) (2 ^ 64 - 1)
          { y with spad := Mem.write y.spad (b.addr k) (leBytes 8 n) }))
      ∧ (b.has k = true → s.prot u = false → x.iss.timed = true → exec (.cadd h slot p v co g) s = .next (s.modMe fun x =>
        addEffs (withLabel x gl) [(4, phWrite, lnS, .cadd (b.addr k) (x.readB v).v.toNat)]))
      ∧ (b.has k = false → exec (.cadd h slot p v co g) s = .next (s.modMe fun x =>
        recorded (withLabel x gl) kWrite slot.toNat lk (b.detail k))))
    ∧ ((x.iss.timed = false → x.que.fmtq.length < 16) → exec (.fmtq h v g) s = .next (s.modMe fun x =>
      let y := withLabel x gl
      let w : Fmt := ⟨(x.readB v).v, (x.readB v).l ||| base⟩
      if x.iss.timed then addEffs y [(2, phPush, lnS, .fpush w)]
      else { y with que := { y.que with fmtq := y.que.fmtq ++ [w] } }))
    ∧ (x.iss.timed = false → 16 ≤ x.que.fmtq.length → exec (.fmtq h v g) s =
      .next (s1.fail lanS 0x05 0 ((x.readB v).l ||| base)))

/-- R236, R63, R65: SYSRD gives the named register with its label and the word's; a number from 0x10 on, and a register
a sequencer lacks, is ILLEGAL_OPERAND. In a segment SEGCYC is the word's cycle. TASKID and LEVEL where no task runs are
the value of log 3. -/
def Obligations.SystemRead : Prop :=
  ∀ (s : State) (h : Hdr) (g : POp) (d : Dst) (n : BitVec 8), working s → (s.me.readP g).v = true →
    let gl := (s.me.readP g).l
    let base := gl ||| s.me.iss.lab
    let s1 := s.modMe fun x => withLabel x gl
    (0 < n.toNat → n.toNat < 0x10 → (384 ≤ s.active → ¬ notOnSeq n.toNat) → exec (.sysrd h d n g) s = .next (s1.modMe fun x =>
      scalarDone x d 2 ⟨(sysValue s1 n.toNat).v, (sysValue s1 n.toNat).l ||| base⟩))
    ∧ (n = 0#8 → s.me.iss.timed = true → s.active < 384 →
      exec (.sysrd h d n g) s = .next ({ s1 with frees := s1.frees + 1 }.modMe fun x =>
        scalarDone x d 2 ⟨BitVec.ofNat 64 x.iss.cyc, base⟩))
    ∧ (0x10 ≤ n.toNat ∨ (384 ≤ s.active ∧ notOnSeq n.toNat) →
      exec (.sysrd h d n g) s = .next (s1.fail lanS fIllegalOperand 0 base))

/-- R236, R63, R64, R65: an allowed SYSWR writes its register from issue + 2, reserved fields reading as zero; any other
is ILLEGAL_OPERAND, but ACCINJ without debug is PERMISSION. -/
def Obligations.SystemWrite : Prop :=
  ∀ (s : State) (h : Hdr) (g : POp) (n : BitVec 8) (a : SB), working s → (s.me.readP g).v = true →
    let gl := (s.me.readP g).l
    let v := s.me.readB a
    let s1 := s.modMe fun x => withLabel x gl
    (sysAllowed s n.toNat v.v → exec (.syswr h n a g) s = .next (s.modMe fun x =>
      let y := withLabel x gl
      if x.iss.timed then addEffs y [(2, phWrite, lnS, .sys n.toNat v)] else sysWritten y n.toNat v))
    ∧ (¬ sysAllowed s n.toNat v.v → exec (.syswr h n a g) s = .next (s1.fail lanS
      (if n = 0x0C#8 ∧ s.active < 384 then fPermission else fIllegalOperand) 0 (v.l ||| (gl ||| s.me.iss.lab))))

/-- R125, R127, R235, R237, R404: LSET sets the counts and p48 to p63 and raises LBLPC with its operand's label, an
operand of 2^32 or more being ILLEGAL_OPERAND; NOP does nothing; LBLRAISE raises LBLPC with its mask; TRAP raises TRAP with
its code as subcode; BKPT raises BREAK where debug is enabled and does nothing elsewhere. -/
def Obligations.SmallScalarWords : Prop :=
  (∀ (s : State) (h : Hdr) (g : POp) (a : SOp) (dcnt : BitVec 16) (long : Bool) (mask : BitVec 8), working s →
      (s.me.readP g).v = true →
      let gl := (s.me.readP g).l
      ((s.me.readS a).v.toNat < 2 ^ 32 → exec (.lset h a dcnt long g) s = .next (s.modMe fun x =>
        lsetDone (withLabel (withLabel x gl) (x.readS a).l) (x.readS a) dcnt (gl ||| x.iss.lab)))
      ∧ (2 ^ 32 ≤ (s.me.readS a).v.toNat → exec (.lset h a dcnt long g) s =
        .next ((s.modMe fun x => withLabel x gl).fail lanS fIllegalOperand 0
          ((s.me.readS a).l ||| s.me.vol.codeL ||| (gl ||| s.me.iss.lab))))
      ∧ exec (.nop h g) s = .next (s.modMe fun x => withLabel x gl)
      ∧ exec (.lblraise h mask g) s = .next (s.modMe fun x => withLabel (withLabel x gl) mask))
  ∧ (∀ (s : State) (h : Hdr) (g : POp) (code : BitVec 8), working s → (s.me.readP g).v = true →
      let gl := (s.me.readP g).l
      let s1 := s.modMe fun x => withLabel x gl
      exec (.trap h code g) s = .next (s1.fail lanS 0x10 code.toNat (s.me.vol.codeL ||| (gl ||| s.me.iss.lab)))
      ∧ exec (.bkpt h g) s = .next (if (s.asids.get (s.asidOf s.active)).debug then
          s1.fail lanS 0x11 0 (gl ||| s.me.iss.lab) else s1))

/-- R238, R215, R327, R332: FENCE never delays issue. Of scope DIE or wider it marks the UN lines later reads may not
use; where words of the core, or what they have sent, are still to be performed it leaves a fence word, which waits for
the words that are not complete. An addition deferred to a commit is waited for from that commit on (log 30, the model's
reading). -/
def Obligations.FenceWord : Prop :=
  ∀ (s : State) (h : Hdr) (g : POp) (sc : Scope), working s → (s.me.readP g).v = true →
    let s1 := s.modMe fun x => withLabel x (x.readP g).l
    let wide := sc = .die ∨ sc = .package ∨ sc = .system
    (384 ≤ s.active ∨ ¬ behind s → ∃ t, exec (.fence h sc g) s = .next t ∧ t.xwords = s.xwords
      ∧ (wide → t = s1.modMe fun x => { x with unMark := s.unNext }) ∧ (¬ wide → t = s1))
    ∧ (s.active < 384 → behind s → ∃ t, exec (.fence h sc g) s = .next t ∧ t.xnext = s.xnext + 1
      ∧ (t.xwords.get s.xnext).wait = openOf s ∧ (t.xwords.get s.xnext).kind = .cfence sc
      ∧ (t.xwords.get s.xnext).unit = s.active ∧ (∀ k, k ≠ s.xnext → t.xwords.get k = s.xwords.get k)
      ∧ (wide → t.me = { s1.me with unMark := s.unNext }) ∧ (¬ wide → t.me = s1.me))

/-! ## V lane (R141 to R173) -/

namespace Sys2Proof.Machine.Claims

/-- The row an operand stands for; a pair form takes a second one, nearer the head or one further on (R51, R52). -/
def rowRead (x : Unit) (o : VOp) (odd : Nat) : Lv 4096 :=
  match o with
  | .vlat => x.vol.vlat
  | .vq i => x.vol.vq.getD (i.toNat - odd) default
  | .row i => (x.regs.tiles.get (x.vplace i).1).rows.get ((x.vplace i).2 + odd)
  | .s _ | .k _ => default

/-- Element `j` of `w` bits of an operand (R141, R53): a scalar is the same for every element. -/
def elemAt (x : Unit) (w : Nat) (o : VOp) (j : Nat) : Nat :=
  match o with
  | .s i => (x.sreg i.toNat).v.toNat % 2 ^ w
  | .k i => (x.pool i.toNat).v.toNat % 2 ^ w
  | o =>
    if w = 64 then (rowRead x o 0).v.toNat / 2 ^ (32 * j) % 2 ^ 32 + 2 ^ 32 * ((rowRead x o 1).v.toNat / 2 ^ (32 * j) % 2 ^ 32)
    else (rowRead x o 0).v.toNat / 2 ^ (w * j) % 2 ^ w

/-- The label of an operand. -/
def elemLab (x : Unit) (w : Nat) (o : VOp) : Label :=
  match o with
  | .s i => (x.sreg i.toNat).l
  | .k i => (x.pool i.toNat).l
  | o => (rowRead x o 0).l ||| (if w = 64 then (rowRead x o 1).l else 0#8)

def orLabs (l : List Label) : Label := l.foldr (· ||| ·) 0#8

/-- Lanes of a row (R51): 4096 bits, two rows for elements of 64 bits. -/
def lanesOf (w : Nat) : Nat := if w = 64 then 128 else 4096 / w

/-- Whether a mask enables element `j` (R50): `m0` enables all. -/
def maskBit (x : Unit) (m : BitVec 3) (j : Nat) : Bool :=
  if m = 0#3 then decide (j < 512) else (x.regs.m.get m.toNat).v.getLsbD j

def maskLab (x : Unit) (m : BitVec 3) : Label := if m = 0#3 then 0#8 else (x.regs.m.get m.toNat).l

/-- Fields of `w` bits from bit 0 (R16, R51). -/
def fields (w n : Nat) (f : Nat → Nat) : Nat := pack w ((List.range n).map f)

/-- A row result of `n` elements of `w` bits (R142) written `lat` cycles after the issue: a masked-off element keeps its
bits, or is zero under Z; the row's own label replaces the old one where the whole row is written (R56). -/
def rowDone (x : Unit) (dest : BitVec 8) (w lat n : Nat) (el : Nat → Nat) (mask : BitVec 3) (z : Bool) (l : Label)
    (fl : Flags) : Unit :=
  let v (j : Nat) : Nat := if maskBit x mask j then el j else 0
  let e := if w = 64 then 32 else w
  let keep := fields e n fun j => if !maskBit x mask j && !z then 2 ^ e - 1 else 0
  let whole := decide (mask = 0#3) || z
  let t := (x.vplace dest).1
  let r := (x.vplace dest).2
  addEffs x ((lat, phWrite, lnV, .vrow x.iss.cyc t r ⟨BitVec.ofNat 4096 (fields e n v), l⟩ keep whole fl) ::
    (if w = 64 then
      [(lat, phWrite, lnV, .vrow x.iss.cyc t (r + 1) ⟨BitVec.ofNat 4096 (fields e n fun j => v j / 2 ^ 32), l⟩ keep whole fl)]
    else []))

/-- A mask result from issue + 2 (R148, R162); `m0` is never written. -/
def maskDone (x : Unit) (d : BitVec 3) (n : Nat) (b : Nat → Bool) (mask : BitVec 3) (z : Bool) (l : Label) : Unit :=
  if d = 0#3 then x
  else addEffs x [(2, phWrite, lnV, .vmask d.toNat
    ⟨BitVec.ofNat 512 (fields 1 n fun j => if maskBit x mask j && b j then 1 else 0), l⟩
    (fields 1 n fun j => if !maskBit x mask j && !z then 1 else 0) (decide (mask = 0#3) || z))]

/-- Every row is in a tile the unit may use now (R59, R60, R144): allotted, ON and awake. -/
def usable (x : Unit) (rows : List (BitVec 8)) : Prop :=
  ∀ i ∈ rows, (x.vplace i).1 < x.regs.acc ∧ (x.regs.tiles.get (x.vplace i).1).pow = .on
    ∧ (x.regs.tiles.get (x.vplace i).1).wake ≤ x.iss.cyc

/-- A word with a row result: the rows it names, its mask, element width, latency, number of elements, what each element
and its flags are, its label, its clamp range, and how the generators advance. -/
structure VRes where
  dest : BitVec 8
  rows : List (BitVec 8)
  mask : BitVec 3
  z    : Bool
  w    : Nat
  lat  : Nat
  n    : Nat
  el   : Unit → Nat → Nat
  fl   : Unit → Flags := fun _ => 0#5
  lab  : Unit → Label
  ok   : Unit → Prop := fun _ => True
  gens : Unit → Unit := id

/-- What such a word does: its row results, or ILLEGAL_OPERAND where a row is unusable or the clamp range is none. -/
def gives (s : State) (i : Instr) (r : VRes) : Prop :=
  (usable s.me (r.dest :: r.rows) → r.ok s.me → exec i s = .next (s.modMe fun x =>
    rowDone (r.gens x) r.dest r.w r.lat r.n (r.el x) r.mask r.z (r.lab x) (r.fl x)))
  ∧ (¬ (usable s.me (r.dest :: r.rows) ∧ r.ok s.me) → exec i s = .next (s.fail lanV fIllegalOperand 0 (r.lab s.me)))

/-- What L holds beside the sources (R143): fetch label, mask, MOD word, and the seed where a draw is taken. -/
def frame (x : Unit) (mask : BitVec 3) (md : Option Mod) (rsr : Bool) : Label :=
  x.iss.lab ||| maskLab x mask ||| (if md.isSome then x.vol.codeL else 0#8) ||| (if rsr then x.regs.seedLab else 0#8)

/-- The rounding mode in effect (R72): MOD's, else VMODE's. -/
def roundOf (x : Unit) (md : Option Mod) : RMode :=
  match md with
  | some m => m.rm.getD (decRMode (x.regs.vmode.extractLsb' 0 3))
  | none => decRMode (x.regs.vmode.extractLsb' 0 3)

/-- One draw for each element of a word in RSR (R23), and the generators after them. -/
def drawn (x : Unit) (rm : RMode) (w n j : Nat) : Nat := if rm = .rsr then (drawAll w n x.regs.gens).1.getD j 0 else 0
def advanced (x : Unit) (rm : RMode) (w n : Nat) : Unit :=
  if rm = .rsr then { x with regs := { x.regs with gens := (drawAll w n x.regs.gens).2 } } else x

/-- A source element as an exact value: ABS, then NEG, of its value (R72). -/
def srcVal (f : FP) (md : Option Mod) (k v : Nat) : XVal :=
  let m := modOf md
  let ng := if k = 0 then m.nega else if k = 1 then m.negb else m.negc
  let ab := if k = 0 then m.absa else if k = 1 then m.absb else m.absc
  let y := if ab then (f.decode v).abs else f.decode v
  if ng then y.neg else y

/-- An element-wise floating-point word. -/
def vfl (t : VF) (dest : BitVec 8) (srcs : List VOp) (mask : BitVec 3) (z : Bool) (md : Option Mod) (sp : Bool)
    (op : RMode → (Nat → XVal) → XReal × Flags) : Option VRes :=
  let f := vfFp t
  let n := 4096 / f.width
  let rm (x : Unit) : RMode := if sp then .rne else roundOf x md
  let src (x : Unit) (j k : Nat) : XVal := srcVal f md k (elemAt x f.width (srcs.getD k .vlat) j)
  let e (x : Unit) (j : Nat) : Rnd :=
    let y := op (rm x) (src x j)
    f.element (modOf md) (x.clampF (modOf md)) (rm x) (drawn x (rm x) f.width n j) y.1 y.2
  some {
    dest := dest, rows := srcs.flatMap rowsOf, mask := mask, z := z, w := f.width, lat := if sp then 12 else 4, n := n
    el := fun x j => (e x j).pat
    fl := fun x => (List.range n).foldl (fun a j => if maskBit x mask j then a ||| (e x j).fl else a) 0#5
    lab := fun x => orLabs (srcs.map fun o => elemLab x f.width o) ||| frame x mask md (decide (rm x = .rsr))
    ok := fun x => clampBadF (x.clampF (modOf md)) = false
    gens := fun x => advanced x (rm x) f.width n }

/-- An exact result; one made of no NaN that is a NaN is INVALID (R25). -/
def exactly (y : XVal) (l : List XVal) : XReal × Flags :=
  (.ex y, if y.isNan && !l.any XVal.isNan then flInvalid else 0#5)

/-- R147 (arithmetic, VMIN, VMAX) and R150 (special functions and VDIV, always RNE). -/
def vectorFloat : Instr → Option VRes
  | .vadd _ t f md => vfl t f.dest [f.a, f.b] f.mask f.z md false fun rm a => exactly (XVal.sum rm [a 0, a 1]) [a 0, a 1]
  | .vsub _ t f md => vfl t f.dest [f.a, f.b] f.mask f.z md false fun rm a =>
      exactly (XVal.sum rm [a 0, (a 1).neg]) [a 0, a 1]
  | .vmul _ t f md => vfl t f.dest [f.a, f.b] f.mask f.z md false fun _ a => exactly ((a 0).mul (a 1)) [a 0, a 1]
  | .vfma _ t f md => vfl t f.dest [f.a, f.b, f.c] f.mask f.z md false fun rm a =>
      exactly (XVal.sum rm [(a 0).mul (a 1), a 2]) [a 0, a 1, a 2]
  | .vmin _ t f md => vfl t f.dest [f.a, f.b] f.mask f.z md false fun _ a => exactly ((a 0).fmin (a 1)) [a 0, a 1]
  | .vmax _ t f md => vfl t f.dest [f.a, f.b] f.mask f.z md false fun _ a => exactly ((a 0).fmax (a 1)) [a 0, a 1]
  | .vrcp _ t f md => vfl t f.dest [f.a] f.mask f.z md true fun _ a => divReal (.fin false 1 0) (a 0)
  | .vrsq _ t f md => vfl t f.dest [f.a] f.mask f.z md true fun _ a => rsqrtReal (a 0)
  | .vsqrt _ t f md => vfl t f.dest [f.a] f.mask f.z md true fun _ a => sqrtReal (a 0)
  | .vdiv _ t f md => vfl t f.dest [f.a, f.b] f.mask f.z md true fun _ a => divReal (a 0) (a 1)
  | .vexp2 _ t f md => vfl t f.dest [f.a] f.mask f.z md true fun _ a => (exp2Real (a 0), 0#5)
  | .vlog2 _ t f md => vfl t f.dest [f.a] f.mask f.z md true fun _ a => log2Real (a 0)
  | .vtanh _ t f md => vfl t f.dest [f.a] f.mask f.z md true fun _ a => (tanhReal (a 0), 0#5)
  | .vsigm _ t f md => vfl t f.dest [f.a] f.mask f.z md true fun _ a => (sigmReal (a 0), 0#5)
  | _ => none

/-- The included elements of a reduction, in ascending order (R155). -/
def included (x : Unit) (f : FP) (md : Option Mod) (mask : BitVec 3) (a : VOp) : List XVal :=
  ((List.range (4096 / f.width)).filter fun j => maskBit x mask j).map fun j => srcVal f md 0 (elemAt x f.width a j)

/-- A reduction: element 0 is the result, the others are zero bits (R155); one draw, for element 0, in RSR. A reduction of
nothing brings no flag (R146). -/
def vred (t : VF) (dest : BitVec 8) (a : VOp) (mask : BitVec 3) (md : Option Mod) (lat : Nat)
    (op : RMode → List XVal → XVal) : Option VRes :=
  let f := vfFp t
  let e (x : Unit) : Rnd :=
    let l := included x f md mask a
    let y := exactly (op (roundOf x md) l) l
    f.element (modOf md) (x.clampF (modOf md)) (roundOf x md) (drawn x (roundOf x md) f.width 1 0) y.1 y.2
  some {
    dest := dest, rows := rowsOf a, mask := 0#3, z := false, w := f.width, lat := lat, n := 4096 / f.width
    el := fun x j => if j = 0 then (e x).pat else 0
    fl := fun x => if included x f md mask a = [] then 0#5 else (e x).fl
    lab := fun x => elemLab x f.width a ||| frame x mask md (decide (roundOf x md = .rsr))
    ok := fun x => clampBadF (x.clampF (modOf md)) = false
    gens := fun x => advanced x (roundOf x md) f.width 1 }

/-- R155: the exact sum with one rounding, and the greatest, the least, the greatest magnitude of the included elements. -/
def vectorReduce : Instr → Option VRes
  | .vredsum _ t dest a mask md => vred t dest a mask md 10 fun rm l => if l = [] then .fin false 0 0 else XVal.sum rm l
  | .vredmax _ t dest a mask md => vred t dest a mask md 8 fun _ l => l.foldl XVal.fmax (.inf true)
  | .vredmin _ t dest a mask md => vred t dest a mask md 8 fun _ l => l.foldl XVal.fmin (.inf false)
  | .vredamax _ t dest a mask md => vred t dest a mask md 8 fun _ l => (l.map XVal.abs).foldl XVal.fmax (.fin false 0 0)
  | _ => none

/-! ## V integer words (R157) -/

/-- A source element as an integer (R157): unsigned or two's complement, ABS and NEG exact. -/
def srcInt (u : Bool) (w : Nat) (md : Option Mod) (k v : Nat) : Int :=
  let m := modOf md
  let ng := if k = 0 then m.nega else if k = 1 then m.negb else m.negc
  let ab := if k = 0 then m.absa else if k = 1 then m.absb else m.absc
  let y : Int := if u || decide (v < 2 ^ (w - 1)) then v else (v : Int) - 2 ^ w
  let y := if ab then |y| else y
  if ng then -y else y

/-- The exact result as an element (R72, R73, R36): RABS, RNEG, the clamp, then SAT or one wrap. -/
def outInt (x : Unit) (u : Bool) (w : Nat) (md : Option Mod) (y : Int) : Nat :=
  let m := modOf md
  let y := if m.rabs then |y| else y
  let y := if m.rneg then -y else y
  let y := match x.clampI m with | none => y | some r => max r.1 (min r.2 y)
  let lo : Int := if u then 0 else -2 ^ (w - 1)
  let hi : Int := if u then 2 ^ w - 1 else 2 ^ (w - 1) - 1
  ((if m.sat then max lo (min hi y) else y) % 2 ^ w).toNat

def vin (t : VI) (dest : BitVec 8) (srcs : List VOp) (mask : BitVec 3) (z u : Bool) (md : Option Mod)
    (op : (Nat → Int) → Int) : Option VRes :=
  let w := viW t
  some {
    dest := dest, rows := srcs.flatMap rowsOf, mask := mask, z := z, w := w, lat := 2, n := lanesOf w
    el := fun x j => outInt x u w md (op fun k => srcInt u w md k (elemAt x w (srcs.getD k .vlat) j))
    lab := fun x => frame x mask md false ||| orLabs (srcs.map fun o => elemLab x w o)
    ok := fun x => clampBadI (x.clampI (modOf md)) = false }

def vbi (t : VI) (dest : BitVec 8) (srcs : List VOp) (mask : BitVec 3) (z : Bool) (op : Nat → (Nat → Nat) → Nat) :
    Option VRes :=
  let w := viW t
  some {
    dest := dest, rows := srcs.flatMap rowsOf, mask := mask, z := z, w := w, lat := 2, n := lanesOf w
    el := fun x j => op w fun k => elemAt x w (srcs.getD k .vlat) j
    lab := fun x => orLabs (srcs.map fun o => elemLab x w o) ||| frame x mask none false }

/-- R157. -/
def vectorInt : Instr → Option VRes
  | .viadd _ t f md => vin t f.dest [f.a, f.b] f.mask f.z false md fun a => a 0 + a 1
  | .visub _ t f md => vin t f.dest [f.a, f.b] f.mask f.z false md fun a => a 0 - a 1
  | .vimul _ t f md => vin t f.dest [f.a, f.b] f.mask f.z false md fun a => a 0 * a 1
  | .vimulh _ t f u md => vin t f.dest [f.a, f.b] f.mask f.z u md fun a => a 0 * a 1 / 2 ^ viW t
  | .vimad _ t f md => vin t f.dest [f.a, f.b, f.c] f.mask f.z false md fun a => a 0 * a 1 + a 2
  | .vimin _ t f u md => vin t f.dest [f.a, f.b] f.mask f.z u md fun a => min (a 0) (a 1)
  | .vimax _ t f u md => vin t f.dest [f.a, f.b] f.mask f.z u md fun a => max (a 0) (a 1)
  | .vand _ t f => vbi t f.dest [f.a, f.b] f.mask f.z fun _ a => a 0 &&& a 1
  | .vor _ t f => vbi t f.dest [f.a, f.b] f.mask f.z fun _ a => a 0 ||| a 1
  | .vxor _ t f => vbi t f.dest [f.a, f.b] f.mask f.z fun _ a => a 0 ^^^ a 1
  | .vandn _ t f => vbi t f.dest [f.a, f.b] f.mask f.z fun w a => a 0 &&& (2 ^ w - 1 - a 1)
  | .vnot _ t f => vbi t f.dest [f.a] f.mask f.z fun w a => 2 ^ w - 1 - a 0
  | .vshl _ t f => vbi t f.dest [f.a, f.b] f.mask f.z fun w a => a 0 * 2 ^ (a 1 % w) % 2 ^ w
  | .vshr _ t f => vbi t f.dest [f.a, f.b] f.mask f.z fun w a => a 0 / 2 ^ (a 1 % w)
  | .vsar _ t f => vbi t f.dest [f.a, f.b] f.mask f.z fun w a =>
      (((if a 0 < 2 ^ (w - 1) then (a 0 : Int) else (a 0 : Int) - 2 ^ w) / 2 ^ (a 1 % w)) % 2 ^ w).toNat
  | .vpopc _ t f => vbi t f.dest [f.a] f.mask f.z fun w a => ((List.range w).filter fun i => (a 0).testBit i).length
  | .vclz _ t f => vbi t f.dest [f.a] f.mask f.z fun w a =>
      ((List.range w).takeWhile fun i => !(a 0).testBit (w - 1 - i)).length
  | _ => none

/-! ## Conversion, rearrangement (R152 to R154, R156, R160) -/

/-- VCVT and VSCAN. -/
def vectorConvert : Instr → Option VRes
  | .vcvt _ d t f sc nosat md =>
    let m := modOf md
    let flt := (etyFp d).isSome
    let rm (x : Unit) : RMode := if !flt && decide (roundOf x md = .rsr) then .rne else roundOf x md
    let n := min 512 (4096 / max (etyW d) (etyW t))
    let a (x : Unit) (j : Nat) : XVal :=
      let y := etyVal t (elemAt x (etyW t) f.a j)
      let y := if m.absa then y.abs else y
      if m.nega then y.neg else y
    let k (x : Unit) (j : Nat) : XVal := match sc with
      | none => .fin false 1 0
      | some o =>
        let y := FP.f32.decode (elemAt x 32 o (j / 32))
        let y := if m.absb then y.abs else y
        if m.negb then y.neg else y
    let rf (x : Unit) := if flt then x.clampF m else none
    let ri (x : Unit) := if flt then none else x.clampI m
    let e (x : Unit) (j : Nat) : Rnd :=
      let y := ((a x j).mul (k x j)).scale m.exp.toInt
      convert d t nosat m (rf x) (ri x) (rm x) (drawn x (rm x) (etyW d) n j) y
        (if y.isNan && !(a x j).isNan && !(k x j).isNan then flInvalid else 0#5)
    some {
      dest := f.dest, rows := rowsOf f.a ++ sc.toList.flatMap rowsOf, mask := f.mask, z := f.z, w := etyW d, lat := 4, n := n
      el := fun x j => (e x j).pat
      fl := fun x => (List.range n).foldl (fun a j => if maskBit x f.mask j then a ||| (e x j).fl else a) 0#5
      lab := fun x => elemLab x (etyW t) f.a ||| orLabs (sc.toList.map fun o => elemLab x 32 o)
        ||| frame x f.mask md (decide (rm x = .rsr))
      ok := fun x => clampBadF (rf x) = false ∧ clampBadI (ri x) = false
      gens := fun x => advanced x (rm x) (etyW d) n }
  | .vscan _ t f md =>
    let p := vfFp t
    let n := 4096 / p.width
    let pre (x : Unit) (j : Nat) : List XVal :=
      ((List.range (j + 1)).filter fun i => maskBit x f.mask i).map fun i => srcVal p md 0 (elemAt x p.width f.a i)
    let e (x : Unit) (j : Nat) : Rnd :=
      let rm := roundOf x md
      let y := exactly (XVal.sum rm (pre x j)) (pre x j)
      if pre x j = [] then ⟨0, 0#5⟩
      else p.element (modOf md) (x.clampF (modOf md)) rm (drawn x rm p.width n j) y.1 y.2
    some {
      dest := f.dest, rows := rowsOf f.a, mask := f.mask, z := f.z, w := p.width, lat := 10, n := n
      el := fun x j => (e x j).pat
      fl := fun x => (List.range n).foldl (fun a j => if maskBit x f.mask j then a ||| (e x j).fl else a) 0#5
      lab := fun x => elemLab x p.width f.a ||| frame x f.mask md (decide (roundOf x md = .rsr))
      ok := fun x => clampBadF (x.clampF (modOf md)) = false
      gens := fun x => advanced x (roundOf x md) p.width n }
  | _ => none

def bcVal (x : Unit) : Bc → Lv 64
  | .s i => x.sreg i.toNat
  | .k i => x.pool i.toNat

/-- An element taken modulo the number of lanes (R160). -/
def wrapped (w : Nat) (k : Int) : Nat := (k % (lanesOf w : Int)).toNat

/-- R149, R160 and VMPOP (R162). -/
def vectorMove : Instr → Option VRes
  | .vmov _ w f =>
    let k := vwW w
    some { dest := f.dest, rows := rowsOf f.a, mask := f.mask, z := f.z, w := k, lat := 2, n := lanesOf k
           el := fun x j => elemAt x k f.a j
           lab := fun x => elemLab x k f.a ||| frame x f.mask none false }
  | .vbcast _ w f b =>
    let k := vwW w
    some { dest := f.dest, rows := rowsOf f.a, mask := f.mask, z := f.z, w := k, lat := 2, n := lanesOf k
           el := fun x _ => elemAt x k f.a (wrapped k (bcVal x b).v.toInt)
           lab := fun x => elemLab x k f.a ||| (bcVal x b).l ||| frame x f.mask none false }
  | .viota _ w dest a b mask z =>
    let k := vwW w
    some { dest := dest, rows := [], mask := mask, z := z, w := k, lat := 2, n := lanesOf k
           el := fun x j => (((bcVal x a).v.toInt + j * (bcVal x b).v.toInt) % 2 ^ k).toNat
           lab := fun x => (bcVal x a).l ||| (bcVal x b).l ||| frame x mask none false }
  | .vperm _ w f =>
    let k := vwW w
    some { dest := f.dest, rows := [f.a, f.b].flatMap rowsOf, mask := f.mask, z := f.z, w := k, lat := 3, n := lanesOf k
           el := fun x j => elemAt x k f.a (wrapped k (elemAt x k f.b j))
           lab := fun x => elemLab x k f.a ||| elemLab x k f.b ||| frame x f.mask none false }
  | .vrotl _ w f b =>
    let k := vwW w
    some { dest := f.dest, rows := rowsOf f.a, mask := f.mask, z := f.z, w := k, lat := 3, n := lanesOf k
           el := fun x j => elemAt x k f.a (wrapped k ((j : Int) + (bcVal x b).v.toInt))
           lab := fun x => elemLab x k f.a ||| (bcVal x b).l ||| frame x f.mask none false }
  | .vsel _ w dest a b mask =>
    let k := vwW w
    some { dest := dest, rows := [a, b].flatMap rowsOf, mask := 0#3, z := false, w := k, lat := 2, n := lanesOf k
           el := fun x j => if maskBit x mask j then elemAt x k a j else elemAt x k b j
           lab := fun x => elemLab x k a ||| elemLab x k b ||| frame x mask none false }
  | .vmpop _ dest a =>
    some { dest := dest, rows := [], mask := 0#3, z := false, w := 32, lat := 2, n := 128
           el := fun x j => if j = 0 then ((List.range 512).filter fun i => maskBit x a i).length else 0
           lab := fun x => maskLab x a ||| x.iss.lab }
  | _ => none

/-! ## Masks (R148, R158, R162) -/

/-- A word with a mask result. -/
structure MaskRes where
  d    : BitVec 3
  rows : List (BitVec 8)
  mask : BitVec 3
  z    : Bool
  n    : Nat
  bit  : Unit → Nat → Bool
  lab  : Unit → Label

/-- The unsigned conditions read elements unsigned; NEG is then modulo 2^w (R158). -/
def cmpInt (u : Bool) (w : Nat) (ng ab : Bool) (v : Nat) : Int :=
  if u then (if ng then (2 ^ w - v : Int) % 2 ^ w else v)
  else
    let y : Int := if v < 2 ^ (w - 1) then v else (v : Int) - 2 ^ w
    let y := if ab then |y| else y
    if ng then -y else y

def unsignedCc : ICond → Bool
  | .ltu | .leu | .gtu | .geu => true
  | _ => false

def ordered (cc : ICond) (a b : Int) : Bool :=
  match cc with
  | .eq => decide (a = b)
  | .ne => !decide (a = b)
  | .lts | .ltu => decide (a < b)
  | .les | .leu => decide (a ≤ b)
  | .gts | .gtu => decide (b < a)
  | .ges | .geu => decide (b ≤ a)

def maskOp2 (d a b : BitVec 3) (op : Bool → Bool → Bool) : Option MaskRes :=
  some ⟨d, [], 0#3, false, 512, fun x j => op (maskBit x a j) (maskBit x b j), fun x => x.iss.lab ||| maskLab x a ||| maskLab x b⟩

def maskResult : Instr → Option MaskRes
  | .vcmp _ t f cc md =>
    let p := vfFp t
    some ⟨f.dm, [f.a, f.b].flatMap rowsOf, f.mask, f.z, 4096 / p.width,
      fun x j => fcond cc (srcVal p md 0 (elemAt x p.width f.a j)) (srcVal p md 1 (elemAt x p.width f.b j)),
      fun x => elemLab x p.width f.a ||| elemLab x p.width f.b ||| frame x f.mask md false⟩
  | .vicmp _ t f cc md =>
    let w := viW t
    let m := modOf md
    some ⟨f.dm, [f.a, f.b].flatMap rowsOf, f.mask, f.z, lanesOf w,
      fun x j => ordered cc (cmpInt (unsignedCc cc) w m.nega m.absa (elemAt x w f.a j))
        (cmpInt (unsignedCc cc) w m.negb m.absb (elemAt x w f.b j)),
      fun x => elemLab x w f.a ||| elemLab x w f.b ||| frame x f.mask md false⟩
  | .vmand _ d a b => maskOp2 d a b (· && ·)
  | .vmor _ d a b => maskOp2 d a b (· || ·)
  | .vmxor _ d a b => maskOp2 d a b (· != ·)
  | .vmnot _ d a => some ⟨d, [], 0#3, false, 512, fun x j => !maskBit x a j, fun x => x.iss.lab ||| maskLab x a⟩
  | _ => none

/-! ## V memory (R163 to R170) -/

/-- A V memory access whose checks stand (R49, R164, R165). -/
def accessible (a : VAcc) (plain : Bool) : Prop := a.bad plain = false

/-- The coordinate of element `j` (R163). -/
def coordAt (a : VAcc) (j : Int) : Quad Int := ⟨a.h.orgZ 0 + j * a.h.stepZ 0, a.tail.1, a.tail.2.1, a.tail.2.2⟩

/-- Layouts that are neither packed nor ZMASK. -/
def flatBox (b : Box) : Prop := layZmask b.layout = false ∧ layFp6 b.layout = false ∧ layFp4 b.layout = false

/-- Elements of a row under a mask and their coordinates: the first of them outside the box is recorded (R166, R275). -/
def outside (x : Unit) (a : VAcc) (kind : Nat) (ix : List (Nat × Int)) (l : Label) : Unit :=
  match ix.find? fun e => !a.box.has (coordAt a e.2) with
  | some e => addEffs x [(0, phNow, recLn lanV,
      .boxrec kind lanV a.h.slot.toNat x.iss.cyc e.1 l (a.box.detail (coordAt a e.2)))]
  | none => x

/-- Where the elements inside the box lie: the bit of the row and the place in memory (R51, R166). -/
def placed (a : VAcc) (ix : List (Nat × Int)) : List (Nat × Loc) :=
  (ix.filter fun e => a.box.has (coordAt a e.2)).flatMap fun e =>
    let p := a.box.loc (coordAt a e.2)
    if a.w = 64 then [(32 * e.1, ⟨p.addr, 4, 0, 32⟩), (4096 + 32 * e.1, ⟨p.addr + 4, 4, 0, 32⟩)] else [(a.w * e.1, p)]

/-- The load sampled at issue + 2 (R166). -/
def loaded (x : Unit) (a : VAcc) (reg : BitVec 8) (items : List (Nat × Loc)) (n : Nat) (off : Nat → Bool) (z whole : Bool)
    (l : Label) : Unit :=
  let e := if a.w = 64 then 32 else a.w
  let drop := fields e n fun j => if off j then 2 ^ e - 1 else 0
  addEffs x [(2, phSample, lnV,
    .vload x.iss.cyc (x.vplace reg).1 (x.vplace reg).2 (decide (a.w = 64)) items drop (if z then 0 else drop) whole l)]

/-- The handle advanced for words from issue + 1 (R163). -/
def stepped (x : Unit) (d : BitVec 4) (a : VAcc) (n : Nat) (adv : Bool) : Unit :=
  if adv then addEffs x [(1, phWrite, lnV, if 2 ≤ a.box.rank then
      .dorg d.toNat 1 (BitVec.ofInt 30 (a.h.orgZ 1 + a.h.stepZ 1))
    else .dorg d.toNat 0 (BitVec.ofInt 30 (a.h.orgZ 0 + n * a.h.stepZ 0)))]
  else x

/-- The elements of VLD and VST: those enabled among the first N' (R166). -/
def rowIx (x : Unit) (mask : BitVec 3) (m : Nat) : List (Nat × Int) :=
  ((List.range m).filter fun j => maskBit x mask j).map fun j => (j, (j : Int))

/-- The elements of VGTH and VSCT: enabled, at the coordinates their signed index elements name (R167). -/
def ixOp : VIx → VOp
  | .vq i => .vq i
  | .row i => .row i

def namedIx (x : Unit) (mask : BitVec 3) (w : Nat) (ix : VIx) : List (Nat × Int) :=
  ((List.range (lanesOf w)).filter fun j => maskBit x mask j).map fun j =>
    let v := elemAt x w (ixOp ix) j
    (j, if v < 2 ^ (w - 1) then (v : Int) else (v : Int) - 2 ^ w)

/-- The bytes a list of elements stores, in ascending element (R166, R167). -/
def stored (x : Unit) (a : VAcc) (reg : BitVec 8) (ix : List (Nat × Int)) : List (Nat × Byte) :=
  (ix.filter fun e => a.box.has (coordAt a e.2)).flatMap fun e =>
    let p := a.box.loc (coordAt a e.2)
    (leBytes p.bytes (elemAt x a.w (.row reg) e.1)).zipIdx.map fun b => (p.addr + b.2, b.1)

/-- L of an access (R143, R168): handle, box, mask, COORD word. -/
def accLab (x : Unit) (f : VM) (a : VAcc) : Label :=
  a.h.lab ||| a.box.lab ||| frame x f.mask none false ||| (if f.coord.isSome then x.vol.codeL else 0#8)

def ixRow : VIx → List (BitVec 8)
  | .row i => [i]
  | .vq _ => []

end Sys2Proof.Machine.Claims

open Sys2Proof Sys2Proof.Machine Sys2Proof.Machine.Claims

/-- R141 to R144, R147, R150: each element is the exact result of its source elements, through EXP, rounding, RABS,
RNEG, clamp and SAT; the row is written at the word's latency under its mask, flags of enabled elements joined,
generators advanced in RSR; an unusable row or an ill-ordered clamp range is ILLEGAL_OPERAND. How the exact special
functions are enclosed is log 9. That the flags join VSTAT with the row, in its result cycle, is the model's choice (log 58). -/
def Obligations.VectorFloatResult : Prop :=
  ∀ (s : State) (i : Instr) (r : VRes), issuing s → vectorFloat i = some r → gives s i r

/-- R155: element 0 of the destination is the reduction of the included elements, rounded once; the others are zero bits and
the whole row is written. That the flags join VSTAT with the row, in its result cycle, is the model's choice (log 58). -/
def Obligations.VectorReduction : Prop :=
  ∀ (s : State) (i : Instr) (r : VRes), issuing s → vectorReduce i = some r → gives s i r

/-- R157, R36, R73: each element is the exact integer result of its source elements through the result fields of MOD, SAT or
one wrap; the row is written at issue + 2. -/
def Obligations.VectorIntegerResult : Prop :=
  ∀ (s : State) (i : Instr) (r : VRes), issuing s → vectorInt i = some r → gives s i r

/-- R152 to R154 (VCVT), R156 (VSCAN: each element is the sum of the included ones so far). NEGA of an integer 0 gives
−0, an integer beyond the range of another integer type sets INVALID alone, and flags join VSTAT with the row, in its result cycle: the model's choices
(logs 88, 96, 58). -/
def Obligations.VectorConvertAndScan : Prop :=
  ∀ (s : State) (i : Instr) (r : VRes), issuing s → vectorConvert i = some r → gives s i r

/-- R149, R160, R162 (VMPOP): moves, broadcasts, IOTA, permutations, rotations, selection and the population of a mask write
their row at their latency; indices are taken modulo the number of lanes. -/
def Obligations.VectorMoveResult : Prop :=
  ∀ (s : State) (i : Instr) (r : VRes), issuing s → vectorMove i = some r → gives s i r

/-- R148, R158, R162: comparisons and mask words write their mask from issue + 2; `m0` is never written. -/
def Obligations.MaskResult : Prop :=
  ∀ (s : State) (i : Instr) (r : MaskRes), issuing s → maskResult i = some r →
    (usable s.me r.rows → exec i s = .next (s.modMe fun x => maskDone x r.d r.n (r.bit x) r.mask r.z (r.lab x)))
    ∧ (¬ usable s.me r.rows → exec i s = .next (s.fail lanV fIllegalOperand 0 (r.lab s.me)))

/-- R161: destination row k of a zip is written at issue + 3 + k; stream element n·j + i is element j of source i. -/
def Obligations.VectorZip : Prop :=
  ∀ (s : State) (h : Hdr) (w : VW) (dest a : BitVec 8) (n1 : BitVec 2) (mask : BitVec 3) (z : Bool), issuing s →
    let n := n1.toNat + 1
    let k := vwW w
    let m := lanesOf k
    let span (r : BitVec 8) (i : Nat) : BitVec 8 := r + BitVec.ofNat 8 (if k = 64 then 2 * i else i)
    let lab := orLabs ((List.range n).map fun i => elemLab s.me k (.row (span a i))) ||| frame s.me mask none false
    let rows (r : BitVec 8) := (List.range n).map (span r)
    let put (el : Nat → Nat → Nat) (x : Machine.Unit) := (List.range n).foldl (fun y i =>
      rowDone y (span dest i) k (3 + i) m (el i) mask z lab 0#5) x
    usable s.me (rows dest ++ rows a) →
      exec (.vzip h w dest a n1 mask z) s = .next (s.modMe fun x => put (fun i j =>
        elemAt x k (.row (span a ((i * m + j) % n))) ((i * m + j) / n)) x)
      ∧ exec (.vunzip h w dest a n1 mask z) s = .next (s.modMe fun x => put (fun i j =>
        elemAt x k (.row (span a ((n * j + i) / m))) ((n * j + i) % m)) x)

/-- R171, R172: VWIN and VMODE take effect from issue + 1; VMODE's seed is read at the issue. -/
def Obligations.WindowAndMode : Prop :=
  ∀ (s : State) (h : Hdr) (p q : Option (BitVec 4)) (rm : Option RMode) (seed : Option Bc), issuing s →
    exec (.vwin h p q) s = .next (s.modMe fun x =>
      addEffs x [(1, phWrite, lnV, .vwin (p.map (·.toNat)) (q.map (·.toNat)))])
    ∧ exec (.vmode h rm seed) s = .next (s.modMe fun x =>
      addEffs x [(1, phWrite, lnV, .vmode (rm.map fun r => (encRMode r).toNat) (seed.map fun b => bcVal x b))])

/-- R163, R166, R167: VLD of a box that is neither packed nor ZMASK, and VGTH: elements inside the box are sampled at
issue + 2, the first one outside is recorded, the row label is the result's alone where every element is written (R56; where
elements at N' or above stay under m0 it joins the old one: log 84, the model's choice); an unusable row or a check that fails is
ILLEGAL_OPERAND. An origin advanced past its field wraps (log 83, the model's choice). -/
def Obligations.VectorLoad : Prop :=
  ∀ (s : State) (h : Hdr) (w : VW) (f : VM) (ix : VIx) (adv z : Bool), issuing s →
    let a := s.vacc w f
    let n := lanesOf a.w
    let m := min n (a.h.extN 0)
    let l := accLab s.me f a
    let lg := l ||| elemLab s.me a.w (ixOp ix)
    (usable s.me [f.reg] → accessible a false → flatBox a.box → exec (.vld h w f adv z) s = .next (s.modMe fun x =>
      let es := rowIx x f.mask m
      stepped (loaded (outside x a kRead es l) a f.reg (placed a es) n
        (fun j => !(decide (j < m) && maskBit x f.mask j)) z (z || (decide (f.mask = 0#3) && decide (m = n))) l) f.d a m adv))
    ∧ (usable s.me (f.reg :: ixRow ix) → accessible a true → exec (.vgth h w f ix) s = .next (s.modMe fun x =>
      let es := namedIx x f.mask a.w ix
      loaded (outside x a kRead es lg) a f.reg (placed a es) n (fun j => !maskBit x f.mask j) false
        (decide (f.mask = 0#3)) lg))
    ∧ (¬ (usable s.me [f.reg] ∧ accessible a false) → exec (.vld h w f adv z) s = .next (s.fail lanV fIllegalOperand 0 l))
    ∧ (¬ (usable s.me (f.reg :: ixRow ix) ∧ accessible a true) →
      exec (.vgth h w f ix) s = .next (s.fail lanV fIllegalOperand 0 lg))

/-- R166, R167: VST and VSCT store at issue + 5 the elements inside the box, in ascending element. R163, R164, R166,
R167: a store of a box of mode IN is PERMISSION, one whose label is beyond the box's is LABEL_FLOW, one of an unusable row or
of a handle, box or layout that does not fit is ILLEGAL_OPERAND. The model's choices: an origin advanced past its field wraps
(log 83), and the slot and leaf coordinates that the record of a fault names (log 41). -/
def Obligations.VectorStore : Prop :=
  (∀ (s : State) (h : Hdr) (w : VW) (f : VM) (ix : VIx) (adv : Bool), issuing s →
      let a := s.vacc w f
      let m := min (lanesOf a.w) (a.h.extN 0)
      let l := accLab s.me f a ||| elemLab s.me a.w (.row f.reg)
      let ls := accLab s.me f a ||| elemLab s.me a.w (ixOp ix) ||| elemLab s.me a.w (.row f.reg)
      (usable s.me [f.reg] → accessible a false → flatBox a.box → a.box.mode ≠ .in_ → Label.sub l a.box.lab = true →
        exec (.vst h w f adv) s = .next (s.modMe fun x =>
          let es := rowIx x f.mask m
          stepped (addEffs (outside x a kWrite es l) [(5, phWrite, lnV, .store (stored x a f.reg es))]) f.d a m adv))
      ∧ (usable s.me (f.reg :: ixRow ix) → accessible a true → a.box.mode ≠ .in_ → Label.sub ls a.box.lab = true →
        exec (.vsct h w f ix) s = .next (s.modMe fun x =>
          let es := namedIx x f.mask a.w ix
          addEffs (outside x a kWrite es ls) [(5, phWrite, lnV, .store (stored x a f.reg es))])))
  ∧ (∀ (s : State) (h : Hdr) (w : VW) (f : VM) (ix : VIx) (adv : Bool), issuing s →
      let a := s.vacc w f
      let l := accLab s.me f a ||| elemLab s.me a.w (.row f.reg)
      let ls := accLab s.me f a ||| elemLab s.me a.w (ixOp ix) ||| elemLab s.me a.w (.row f.reg)
      let say (code sub : Nat) (l : Label) := Host.Outcome.next
        (s.failBox lanV code sub l a.h.slot.toNat (a.box.detail (coordAt a 0)))
      (¬ (usable s.me [f.reg] ∧ accessible a false) → exec (.vst h w f adv) s = .next (s.fail lanV fIllegalOperand 0 l))
      ∧ (usable s.me [f.reg] → accessible a false → a.box.mode = .in_ → exec (.vst h w f adv) s = say fPermission 0 l)
      ∧ (usable s.me [f.reg] → accessible a false → a.box.mode ≠ .in_ → Label.sub l a.box.lab = false →
        exec (.vst h w f adv) s = say fLabelFlow 1 l)
      ∧ (¬ (usable s.me (f.reg :: ixRow ix) ∧ accessible a true) →
        exec (.vsct h w f ix) s = .next (s.fail lanV fIllegalOperand 0 ls))
      ∧ (usable s.me (f.reg :: ixRow ix) → accessible a true → a.box.mode = .in_ →
        exec (.vsct h w f ix) s = say fPermission 0 ls)
      ∧ (usable s.me (f.reg :: ixRow ix) → accessible a true → a.box.mode ≠ .in_ → Label.sub ls a.box.lab = false →
        exec (.vsct h w f ix) s = say fLabelFlow 1 ls))

/-- R165, R169, R170: VLD and VST of packed boxes move the enabled bytes of the row, those of a group with an element
outside the box apart; VLD and VST of ZMASK boxes move one group of enabled elements, or record element 0. The model's choices:
an origin advanced past its field wraps (log 83); alignment binds loads too, ELEM and the cycle of the PACK record (log 68); a ZMASK
group in part outside the box counts as outside (log 85); the slot and coordinates of a fault's record (log 41). -/
def Obligations.PackedAndZmaskAccess : Prop :=
  ∀ (s : State) (h : Hdr) (w : VW) (f : VM) (adv z : Bool), issuing s →
    let a := s.vacc w f
    let lay := a.box.layout
    let l := accLab s.me f a
    let ls := l ||| elemLab s.me a.w (.row f.reg)
    let bits := (s.me.mreg f.mask).v.toNat
    let g := layGroup lay
    let c := coordAt a 0
    let whole := decide (f.mask = 0#3) || z
    let note (x : Machine.Unit) (k : Nat) (l : Label) (b : Option (Nat × Quad Int)) := match b with
      | some (e, c) => addEffs x [(0, phNow, recLn lanV, .boxrec k lanV a.h.slot.toNat x.iss.cyc e l (a.box.detail c))]
      | none => x
    let drop := fields a.w g fun j => if maskBit s.me f.mask j then 0 else 2 ^ a.w - 1
    let inside := a.box.has c && a.box.has (coordAt a ((g : Int) - 1))
    let canStore := a.box.mode ≠ .in_ ∧ Label.sub ls a.box.lab = true
    usable s.me [f.reg] → accessible a false →
      (layZmask lay = false → (layFp6 lay || layFp4 lay) = true →
        (exec (.vld h w f adv z) s = .next (s.modMe fun x =>
          let y := note x kRead l (a.packBad bits)
          let off := fieldMask 8 (a.packOff bits)
          let y := addEffs y [(2, phSample, lnV, .vload x.iss.cyc (x.vplace f.reg).1 (x.vplace f.reg).2 false
            (a.runs bits true) off (if z then 0 else off)
            (z || (decide (f.mask = 0#3) && (a.packOff bits).all fun k => !k)) l)]
          stepped y f.d a a.packN adv))
        ∧ (canStore → exec (.vst h w f adv) s = .next (s.modMe fun x =>
          let y := note x kWrite ls (a.packBad bits)
          let row := (rowRead x (.row f.reg) 0).v.toNat
          let y := addEffs y [(5, phWrite, lnV,
            .sbits ((a.runs bits false).map fun e => (e.2, row / 2 ^ e.1 % 2 ^ e.2.width)))]
          stepped y f.d a a.packN adv)))
      ∧ (layZmask lay = true → inside = true →
        (exec (.vld h w f adv z) s = .next (s.modMe fun x =>
          stepped (addEffs x [(2, phSample, lnV, .vzload x.iss.cyc (x.vplace f.reg).1 (x.vplace f.reg).2 (a.box.addr c)
            a.box.cap g a.w drop (if z then 0 else drop) whole l a.h.slot.toNat (a.box.detail c))]) f.d a g adv))
        ∧ (canStore → exec (.vst h w f adv) s = .next (s.modMe fun x =>
          let vs := (List.range g).map fun j => if maskBit x f.mask j then elemAt x a.w (.row f.reg) j else 0
          stepped (addEffs x [(7, phWrite, lnV,
            .vzstore (a.box.addr c) a.box.cap g a.w vs a.h.slot.toNat ls (a.box.detail c))]) f.d a g adv)))
      ∧ (layZmask lay = true → inside = false →
        (exec (.vld h w f adv z) s = .next (s.modMe fun x =>
          let y := addEffs x [(2, phSample, lnV, .vload x.iss.cyc (x.vplace f.reg).1 (x.vplace f.reg).2 false []
            drop (if z then 0 else drop) whole l)]
          stepped (note y kRead l (some (0, c))) f.d a g adv))
        ∧ (canStore → exec (.vst h w f adv) s = .next (s.modMe fun x =>
          stepped (note x kWrite ls (some (0, c))) f.d a g adv)))

/-! ## M lane (R174 to R196) -/

namespace Sys2Proof.Machine.Claims

/-- The handle and the box of an operand (R49). -/
def handle (s : State) (d : BitVec 4) : Hnd :=
  ⟨s.me.regs.d.get d.toNat, s.box s.active (s.me.regs.d.get d.toNat).slot.toNat⟩

/-- L of an M word (R175): format word, operand, the scale's where a scheme is named, fetch label. -/
def mLab (s : State) (fw : Fmt) (h sc : Hnd) : Label :=
  fw.l ||| (h.desc.lab ||| h.box.lab) ||| (if fwScale fw.v.toNat = 0 then 0#8 else sc.desc.lab ||| sc.box.lab)

/-- The word popped from the format queue, faulty or not (R179). -/
def popped (x : Unit) : Unit := { x with que := { x.que with fmtq := x.que.fmtq.tail } }

/-- A run of the matrix engine entered under the next key. -/
def running (x : Unit) (r : MRun) : Unit :=
  { x with que := { x.que with mruns := x.que.mruns.put x.que.mnext r, mnext := x.que.mnext + 1 } }

/-- A record made in the cycle of the issue. -/
def noteAt (x : Unit) (kind lane slot elem : Nat) (l : Label) (d : BoxDet) : Unit :=
  addEffs x [(0, phNow, recLn lane, .boxrec kind lane slot x.iss.cyc elem l d)]

/-- The first operand element outside its box, with its position along the line (R181, R182, R275); data before scales, which
is the model's choice (log 87). -/
def noteOut (x : Unit) (h sc : Hnd) (out scOut : Option (Nat × Quad Int)) (l : Label) : Unit :=
  match out, scOut with
  | some e, _ => noteAt x kRead lanM h.desc.slot.toNat e.1 l (h.box.detail e.2)
  | none, some e => noteAt x kRead lanM sc.desc.slot.toNat e.1 l (sc.box.detail e.2)
  | none, none => x

/-- A tile a word may use now (R59, R60): allotted, ON, past its wake. -/
def tileReady (x : Unit) (t : Nat) : Prop :=
  t < x.regs.acc ∧ (x.regs.tiles.get t).pow = .on ∧ (x.regs.tiles.get t).wake ≤ x.iss.cyc

/-- MCHKV's tolerances (R190): neither NaN, infinite nor negative. -/
def tolerance (v : Nat) : Prop :=
  ∃ (n : Bool) (m : Nat) (e : Int), FP.f32.decode v = .fin n m e ∧ (n = true → m = 0)

end Sys2Proof.Machine.Claims

open Sys2Proof Sys2Proof.Machine Sys2Proof.Machine.Claims

/-- R179, R180, R182, R183: MLOADB pops one format word; a sound one starts a load sampled at issue + 1 to issue + 32 and
usable from issue + 34. The model's choices: a ZMASK group in part outside the extents counts as outside, and A handles with a
negative ORG0 (log 85); boxes that lie in no scratchpad (log 86); data and scales both outside make one record (log 87). -/
def Obligations.MatrixLoad : Prop :=
  ∀ (s : State) (h : Hdr) (slot : Bool) (b sx : BitVec 4), issuing s →
    let hb := handle s b
    let sc := handle s sx
    let si := if slot then 1 else 0
    (s.me.que.fmtq = [] → exec (.mloadb h slot b sx) s = .next (s.fail lanM fFormatUnderflow 0 s.me.iss.lab))
    ∧ ∀ (fw : Fmt) (r : List Fmt), s.me.que.fmtq = fw :: r →
      let w := fw.v.toNat
      let l := mLab s fw hb sc ||| s.me.iss.lab
      let sound := hb.okM (fmtLayB (fwB w)) false = true ∧ sc.okScale (fwScale w) = true
      (fwValid w = true → sound → exec (.mloadb h slot b sx) s = .next (s.modMe fun x =>
        let k := x.que.mnext
        let y := running (popped x) { (default : MRun) with
          issue := x.iss.cyc, slot := si, fw := w, lab := l, src := hb, scl := sc }
        let sl := x.que.slots.get si
        let y := { y with que := { y.que with slots := x.que.slots.put si { sl with ready := x.iss.cyc + 34 } } }
        let y := noteOut y hb sc (hb.firstOut 128) (sc.scaleOut (scalePts true (fwScale w) 0)) l
        addEffs y ([(1, phSample, lnM, .mscal k)] ++ (List.range 32).map (fun t => (1 + t, phSample, lnM, .mload k t))
          ++ [(34, phWrite, lnM, .mslot k)])))
      ∧ (fwValid w = false →
        exec (.mloadb h slot b sx) s = .next ((s.modMe popped).fail lanM fFormatInvalid 0 (fw.l ||| s.me.iss.lab)))
      ∧ (fwValid w = true → ¬ sound →
        exec (.mloadb h slot b sx) s = .next ((s.modMe popped).fail lanM fIllegalOperand 0 l))

/-- R179, R180, R184, R185: MMA pops one format word; with a loaded slot of its formats, a ready tile of its type and a
sound A it samples row group g at issue + 2 + gap·g and accumulates it at issue + 14 + gap·g. The model's choices: a ZMASK group in part outside the extents counts as outside,
and A handles with a negative ORG0 (log 85); boxes that lie in no scratchpad (log 86); data and scales both outside make one
record (log 87). -/
def Obligations.MatrixMultiply : Prop :=
  ∀ (s : State) (h : Hdr) (t : BitVec 4) (slot : Bool) (a sx : BitVec 4) (rows1 : BitVec 7) (ovw chk zs : Bool), issuing s →
    let ha := handle s a
    let sc := handle s sx
    let i := Instr.mma h t slot a sx rows1 ovw chk zs
    let si := if slot then 1 else 0
    let sl := s.me.que.slots.get si
    let rows := rows1.toNat + 1
    let tl := s.me.regs.tiles.get t.toNat
    (s.me.iss.cyc < s.me.iss.dep + 23 → exec i s = .next (s.fail lanM fScheduleMiss 3 s.me.iss.lab))
    ∧ (s.me.iss.dep + 23 ≤ s.me.iss.cyc → s.me.que.fmtq = [] →
      exec i s = .next (s.fail lanM fFormatUnderflow 0 s.me.iss.lab))
    ∧ ∀ (fw : Fmt) (r : List Fmt), s.me.iss.dep + 23 ≤ s.me.iss.cyc → s.me.que.fmtq = fw :: r →
      let w := fw.v.toNat
      let l := mLab s fw ha sc ||| sl.lab ||| s.me.iss.lab
      let agrees := fwValid w = true ∧ tl.int = fwInt w ∧ (sl.valid = true → sl.bfmt = fwB w ∧ sl.sch = fwScale w)
      let sound := ha.okM (fmtLayA (fwA w)) true = true ∧ sc.okScale (fwScale w) = true
      (agrees → sl.valid = true → chk = fwChk w → tileReady s.me t.toNat → sound → exec i s = .next (s.modMe fun x =>
        let k := x.que.mnext
        let y := running (popped x) { (default : MRun) with
          issue := x.iss.cyc, tile := t.toNat, slot := si, fw := w, rows := rows, ovw := ovw, lab := l, src := ha
          scl := sc }
        let y := noteOut y ha sc (if ha.box.mode = .stream then none else ha.firstOut rows)
          (sc.scaleOut (scalePts false (fwScale w) rows)) l
        addEffs y ([(2, phSample, lnM, .mscal k)] ++ (List.range (groupsOf w rows)).flatMap fun g =>
          [(2 + groupGap w * g, phSample, lnM, .msamp k g), (14 + groupGap w * g, phWrite, lnM, .mrow k g)])))
      ∧ (¬ agrees → exec i s = .next ((s.modMe popped).fail lanM fFormatInvalid 0 (fw.l ||| s.me.iss.lab)))
      ∧ (agrees → sl.valid = false → exec i s = .next ((s.modMe popped).fail lanM fIllegalOperand 0 l))
      ∧ (agrees → sl.valid = true → chk ≠ fwChk w → exec i s = .next ((s.modMe popped).fail lanM fFormatInvalid 0 l))
      ∧ (agrees → sl.valid = true → chk = fwChk w → ¬ (tileReady s.me t.toNat ∧ sound) →
        exec i s = .next ((s.modMe popped).fail lanM fIllegalOperand 0 l))

/-- R190, R193, R195, R194, R60: MZERO, MCOPY, MTYPE and MCHKV on ready tiles set their effects going, on any other tile
they are ILLEGAL_OPERAND. ACCREL and ACCGATE with no effect of an earlier M word to come on the tiles they name, and ACCWAKE,
which opens a window of 12 cycles on a tile that is not ON (that SYNC waits for the window is log 59, the model's choice). When
MCHKV reads its row and the checksum state, and the label of the rows MCOPY writes, are log 70, the model's choice. -/
def Obligations.TileWords : Prop :=
  (∀ (s : State) (h : Hdr) (t d : BitVec 4) (int : Bool) (ka kr : BitVec 5) (rr cr : BitVec 8), issuing s →
      let stop (l : Label) := Host.Outcome.next (s.fail lanM fIllegalOperand 0 l)
      let l := s.me.iss.lab
      let tl := s.me.regs.tiles.get t.toNat
      let pa := s.me.pool ka.toNat
      let pr := s.me.pool kr.toNat
      let lc := l ||| (if tl.int then 0#8 else pa.l ||| pr.l)
      let ta := pa.v.toNat % 2 ^ 32
      let tr := pr.v.toNat % 2 ^ 32
      let checkable := tileReady s.me t.toNat ∧ (tl.int = false → tolerance ta ∧ tolerance tr)
        ∧ tileReady s.me (s.me.vplace rr).1 ∧ tileReady s.me (s.me.vplace cr).1 ∧ s.me.vplace rr ≠ s.me.vplace cr
      (tileReady s.me t.toNat →
        exec (.mzero h t) s = .next (s.modMe fun x => addEffs x [(8, phWrite, lnM, .mzero t.toNat x.iss.lab)])
        ∧ exec (.mtype h t int) s = .next (s.modMe fun x => addEffs x [(0, phNow, lnM, .mtype t.toNat int)]))
      ∧ (tileReady s.me t.toNat → tileReady s.me d.toNat → exec (.mcopy h d t) s = .next (s.modMe fun x =>
          addEffs x ([(4, phWrite, lnM, .mctype d.toNat t.toNat)]
            ++ (List.range 64).map (fun k => (4 + k, phSample, lnM, .mcopy d.toNat t.toNat k x.iss.lab))
            ++ [(67, phWrite, lnM, .mcsum d.toNat t.toNat)])))
      ∧ (checkable → exec (.mchkv h t ka kr rr cr) s = .next (s.modMe fun x =>
          let k := x.que.mnext
          let y := running x { (default : MRun) with
            issue := x.iss.cyc, tile := t.toNat, lab := lc, int := tl.int, rr := x.vplace rr, cr := x.vplace cr
            ka := ta, kr := tr }
          addEffs y ([(1, phSample, lnM, .mcst k)] ++ (List.range 128).map (fun i => (1 + i, phSample, lnM, .mcs k i))
            ++ [(136, phWrite, lnM, .mchk k)])))
      ∧ (¬ tileReady s.me t.toNat → exec (.mzero h t) s = stop l ∧ exec (.mtype h t int) s = stop l
          ∧ exec (.mcopy h d t) s = stop l)
      ∧ (¬ tileReady s.me d.toNat → exec (.mcopy h d t) s = stop l)
      ∧ (¬ checkable → exec (.mchkv h t ka kr rr cr) s = stop lc))
  ∧ (∀ (s : State) (h : Hdr) (n : BitVec 5) (t : BitVec 4) (ret : Bool), issuing s →
      let busy (p : Nat → Prop) := ∃ e ∈ s.me.pend, ∃ k ∈ s.me.effTiles e.eff, p k
      let stop := Host.Outcome.next (s.fail lanM fIllegalOperand 0 s.me.iss.lab)
      (¬ busy (n.toNat ≤ ·) → exec (.accrel h n) s = .next (s.modMe fun x => addEffs x [(0, phNow, lnM, .macc n.toNat)]))
      ∧ (busy (n.toNat ≤ ·) → exec (.accrel h n) s = stop)
      ∧ (¬ busy (· = t.toNat) →
        exec (.accgate h t ret) s = .next (s.modMe fun x => addEffs x [(0, phNow, lnM, .mgate t.toNat ret)]))
      ∧ (busy (· = t.toNat) → exec (.accgate h t ret) s = stop)
      ∧ ((s.me.regs.tiles.get t.toNat).pow ≠ .on → exec (.accwake h t) s = .next (s.modMe fun x =>
        addEffs x [(0, phNow, lnM, .mwake t.toNat (x.iss.cyc + 12)), (12, phSample, lnM, .wake t.toNat)]))
      ∧ ((s.me.regs.tiles.get t.toNat).pow = .on → exec (.accwake h t) s = .next (s.modMe fun x => x)))

/-! ## C lane (R197 to R218) -/

namespace Sys2Proof.Machine.Claims

/-- What a C word names at its issue: its kind, source, destination, counter and amount, the checks of its own, and what
else it does to its unit, a second source element (a CAS), what it sends to another die, and the first source and destination
elements outside their boxes. -/
structure CRes where
  kind : XKind
  src  : Option Hnd
  dst  : Option Hnd
  cnt  : Option (BitVec 4 × BitVec 8)
  amt  : Nat
  ok   : Prop
  late : Prop := False
  own  : Label → Prop := fun _ => True
  next : Unit → Unit := id
  also : Option Hnd := none
  sends : Option XMsg := none
  outS : Option (Quad Int) := src.bind fun h => h.outside true
  outD : Option (Quad Int) := dst.bind fun h => h.outside false

/-- A handle advanced by adv, for words from the next cycle (R205). -/
def steppedC (x : Unit) (d : BitVec 4) (h : Hnd) (adv : Bool) : Unit :=
  if adv then addEffs x [(1, phWrite, lnC, if 2 ≤ h.box.rank then
      .dorg d.toNat 1 (BitVec.ofInt 30 (h.desc.orgZ 1 + h.desc.stepZ 1))
    else .dorg d.toNat 0 (BitVec.ofInt 30 (h.desc.orgZ 0 + h.desc.extN 0 * h.desc.stepZ 0)))]
  else x

/-- Beat b of a timed source is read at issue + 3 + b (R198). -/
def beats (x : Unit) (k : Nat) (h : Hnd) : Unit :=
  addEffs x ((List.range ((h.size + 255) / 256)).map fun b => (3 + b, phSample, lnC, .beat k b))

/-- The box of the counter a word names (R201). -/
def counterOf (s : State) (r : CRes) : Option Box := r.cnt.map fun c => s.box s.active c.1.toNat

/-- The label of a C word's immediate (R78): CSIG's amount, XRECV's cycle. -/
def immLab (s : State) : XKind → Label
  | .csig _ | .xrecv .. => s.me.vol.codeL
  | _ => 0#8

/-- L of a C word (R199): source handle and box, destination handle, counter box, immediate, fetch label. -/
def cLab (s : State) (r : CRes) : Label :=
  let a : Label := match r.src with | some h => h.desc.lab ||| h.box.lab | none => 0#8
  let b : Label := match r.dst with | some h => h.desc.lab | none => 0#8
  let c : Label := match counterOf s r with | some b => b.lab | none => 0#8
  a ||| b ||| c ||| immLab s r.kind ||| s.me.iss.lab

/-- A counter is named as R201 asks: COUNTER64, in the scratchpad or a STREAM argument. -/
def counterFits (s : State) (r : CRes) : Prop :=
  ∀ b, counterOf s r = some b → b.present = true ∧ b.layout = 0x30 ∧ (b.scope = .scratch ∨ b.mode = .stream)

/-- The words the copy engine counts have room (R202). -/
def roomLeft (s : State) (r : CRes) : Prop := r.kind.counted = true → s.underWay s.active < 32

/-- Every check of a C word stands (R198 to R202). -/
def cleared (s : State) (r : CRes) : Prop :=
  r.ok ∧ counterFits s r ∧ ¬ r.late ∧ roomLeft s r ∧ r.own (cLab s r)
  ∧ (∀ h, r.dst = some h → h.box.mode ≠ .in_ ∧ Label.sub (cLab s r) h.box.lab = true)
  ∧ (∀ b, counterOf s r = some b → b.mode ≠ .in_ ∧ Label.sub (cLab s r) b.lab = true)

/-- The counter's index is inside its box; where it is not, the word counts nothing (R201). -/
def counted (s : State) (r : CRes) : Option (Hnd × Nat × Nat) :=
  match r.cnt with
  | some c =>
    let b := s.box s.active c.1.toNat
    if b.has ⟨(c.2.toNat : Int), 0, 0, 0⟩ then some (⟨{ (default : Desc) with slot := c.1 }, b⟩, c.2.toNat, r.amt) else none
  | none => none

/-- The word under way: what every C word records at its issue (R197, R200), what a CSIG waits for (R212) and what earlier
fences hold before it (R215, R332). -/
def underWay (s : State) (r : CRes) : XWord :=
  let w : XWord := { (default : XWord) with
    kind := r.kind, unit := s.active, task := s.me.task.getD 0, asid := s.asidOf s.active, issue := s.me.iss.cyc
    segno := s.me.seg.segno, segs := s.me.segs, phase := s.me.vol.commits, mark := s.me.unMark, tick := s.me.seg.tick.getD 0
    lab := cLab s r, src := r.src.getD default, dst := r.dst.getD default, cnt := counted s r
    cstat := if (counted s r).isNone then .none else if s.prot s.active then .pending else .released }
  { w with
    wait := match r.kind with | .csig _ => s.waitsOf s.active | _ => []
    after := if w.beyond then s.afterOf s.active else [] }

/-- A record of an element outside its box, if there is one. -/
def mayNote (x : Unit) (kind : Nat) (l : Label) (h : Option Hnd) (c : Option (Quad Int)) : Unit :=
  match h, c with
  | some h, some c => noteAt x kind lanC h.desc.slot.toNat 0 l (h.box.detail c)
  | _, _ => x

/-- The record of a counter's index outside its box (R201). -/
def noteCnt (s : State) (r : CRes) (x : Unit) : Unit :=
  match r.cnt with
  | some c =>
    let b := s.box s.active c.1.toNat
    let q : Quad Int := ⟨(c.2.toNat : Int), 0, 0, 0⟩
    if b.has q then x else noteAt x kWrite lanC c.1.toNat 0 (cLab s r) (b.detail q)
  | none => x

/-- Elements outside their boxes, source, destination, counter (R198, R201, R207): the first record stays. -/
def notedC (s : State) (r : CRes) (x : Unit) : Unit :=
  let y := mayNote x kRead (cLab s r) r.src r.outS
  let y := mayNote y kRead (cLab s r) r.also (r.also.bind fun h => h.outside true)
  noteCnt s r (mayNote y kWrite (cLab s r) r.dst r.outD)

/-- A C word issues: it is under way from then on, and its unit goes on. -/
def issues (s : State) (i : Instr) (r : CRes) : Prop :=
  exec i s = .next (({ s with
    xwords := s.xwords.put s.xnext (underWay s r), xnext := s.xnext + 1, xin := s.xin ++ r.sends.toList }).modMe fun x =>
    r.next (notedC s r x))

/-- The copies (R205, R206, R208 to R211, R216): CIN, COUT, COUT.NA, CSLICE, RROT, TXRUN, TXLOAD. -/
def copyWord (s : State) : Instr → Option CRes
  | .cin _ f =>
    let a := handle s f.src
    let b := handle s f.dst
    some { kind := .cin, src := some a, dst := some b, cnt := f.cnt, amt := 1
           ok := copyOk a b = true ∧ a.box.mode = .stream ∧ b.box.mode ≠ .stream
           next := fun x => steppedC (steppedC x f.dst b f.advd) f.src a f.advs }
  | .cout _ f =>
    let a := handle s f.src
    let b := handle s f.dst
    some { kind := .cout false, src := some a, dst := some b, cnt := f.cnt, amt := 1
           ok := copyOk a b = true ∧ b.box.mode = .stream ∧ a.box.mode ≠ .stream
           next := fun x => beats (steppedC (steppedC x f.dst b f.advd) f.src a f.advs) s.xnext a }
  | .coutNa _ f =>
    let a := handle s f.src
    let b := handle s f.dst
    some { kind := .cout true, src := some a, dst := some b, cnt := f.cnt, amt := 1
           ok := copyOk a b = true ∧ b.box.mode = .stream ∧ a.box.mode ≠ .stream
           next := fun x => beats (steppedC (steppedC x f.dst b f.advd) f.src a f.advs) s.xnext a }
  | .cslice _ f n1 =>
    let a := handle s f.src
    let b := handle s f.dst
    some { kind := .cslice (n1.toNat + 1), src := some a, dst := some b, cnt := f.cnt, amt := 1
           ok := copyOk a b = true ∧ a.box.mode = .stream ∧ b.box.mode ≠ .stream
             ∧ a.desc.extN 1 % (n1.toNat + 1) = 0 ∧ n1.toNat + 1 = s.gangSize s.active
           next := fun x => addEffs (steppedC (steppedC x f.dst b f.advd) f.src a f.advs)
             [(0, phNow, lnC, .rmatch s.xnext)] }
  | .rrot _ dst src advd advs prev =>
    let a := handle s src
    let b := handle s dst
    some { kind := .rrot prev, src := some a, dst := some b, cnt := none, amt := 0
           ok := copyOk a b = true ∧ a.lines64 = true ∧ b.lines64 = true ∧ a.dense = true ∧ b.dense = true
             ∧ a.overlaps b = false ∧ 2 ≤ s.gangSize s.active
           next := fun x => addEffs (steppedC (steppedC x dst b advd) src a advs)
             ([(0, phNow, lnC, .rmatch s.xnext)] ++ (List.range ((a.size + 511) / 512)).flatMap fun t =>
               [(4 + t, phSample, lnC, .rrot s.xnext t), (4 + t, phWrite, lnC, .rput s.xnext t)]) }
  | .txrun _ f id =>
    let a := handle s f.src
    let b := handle s f.dst
    some { kind := .txrun id.toNat, src := some a, dst := some b, cnt := f.cnt, amt := 1
           ok := a.okC = true ∧ b.okC = true ∧ a.box.mode = .stream ∧ a.box.scope.inDev = true ∧ a.box.layout = 0
             ∧ layZmask b.box.layout = false
           next := fun x => steppedC (steppedC x f.dst b f.advd) f.src a f.advs }
  | .txload _ src id =>
    let a := handle s src
    some { kind := .txload id.toNat, src := some a, dst := none, cnt := none, amt := 0, ok := a.okC = true ∧ a.box.layout = 0 }
  | _ => none

/-- CSIG (R212), RATOM (R213: the core's next tag, the operands read at issue + 2), CFILL (R207: its rows take their places
in the A FIFO). -/
def signalWord (s : State) : Instr → Option CRes
  | .csig _ slot idx amt =>
    some { kind := .csig amt.toNat, src := none, dst := none, cnt := some (slot, idx), amt := amt.toNat, ok := True }
  | .ratom _ op wide tgt src cnt =>
    let first (h : Hnd) : Hnd := { h with desc := { h.desc with
      org := h.desc.org.set 0 (BitVec.ofInt 30 (h.desc.orgZ 0)), ext := ⟨1, 1, 1, 1⟩ } }
    let a := first (handle s src)
    let b := first (handle s tgt)
    let lay := if wide then 4 else 3
    some { kind := .ratom op wide s.me.regs.tag 0 0 0, src := some a, dst := some b, cnt := cnt, amt := 1
           ok := b.okC = true ∧ a.okC = true ∧ b.box.mode = .stream ∧ a.box.mode ≠ .stream ∧ b.box.layout = lay
             ∧ a.box.layout = lay
           also := match op with
             | .cas => some { a with desc := { a.desc with
                 org := a.desc.org.set 0 (BitVec.ofInt 30 (a.desc.orgZ 0 + a.desc.stepZ 0)) } }
             | _ => none
           own := fun l => a.box.mode ≠ .in_ ∧ Label.sub (l ||| b.box.lab) a.box.lab = true
           next := fun x => addEffs { x with regs := { x.regs with tag := x.regs.tag + 1#16 } }
             [(2, phSample, lnC, .rsamp s.xnext)] }
  | .cfill _ src cnt advs =>
    let h := handle s src
    let n := h.desc.extN 1
    let rows : Hnd := { h with desc := { h.desc with ext := ⟨128, BitVec.ofNat 30 n, 1, 1⟩ } }
    some { kind := .cfill, src := some rows, dst := none, cnt := cnt, amt := 1
           ok := h.box.present = true ∧ h.desc.usable h.box.rank = true ∧ h.box.mode = .stream
             ∧ streamLay h.box.layout = true
             ∧ (if layZmask h.box.layout then h.desc.orgZ 0 % 128 = 0 ∧ h.desc.stepZ 0 = 1
                  ∧ 0 ≤ h.desc.orgZ 0 ∧ h.desc.orgZ 0 < (layGroup h.box.layout : Int)
                else rows.whole = true)
           late := n = 0 ∨ 32 < s.me.que.ares + n
           outS := (rows.firstOut (rows.desc.extN 1)).map (·.2)
           next := fun x =>
             let q := x.que
             let new : List ARow := (List.range n).map fun i => ⟨s.xnext, i, [], 0#8, false⟩
             steppedC { x with que := { q with ares := q.ares + n, afifo := q.afifo ++ new } } src h advs }
  | _ => none

/-- A die XSEND and XRECV may name (R217, R258): the segment opened at a frame tick, and that other live die is of the same
timing group and has opened a segment at the same tick. -/
def reaches (s : State) (die : BitVec 3) : Prop :=
  ∃ t, s.me.seg.tick = some t ∧ (s.dies.get die.toNat).live = true ∧ die.toNat ≠ dieOf s.active
    ∧ (s.dies.get die.toNat).group.isSome = true
    ∧ (s.dies.get die.toNat).group = (s.dies.get (dieOf s.active)).group ∧ (s.dies.get die.toNat).ticks.contains t = true

/-- XSEND and XRECV (R217, R218), in a segment that opened at a frame tick, to another live die of its timing group: what is
sent is numbered within its channel and tick and has its place in the receive buffer from the issue on. -/
def crossWord (s : State) : Instr → Option CRes
  | .xsend _ src die ch advs =>
    let h := handle s src
    let tick := s.me.seg.tick.getD 0
    let seq := s.sentCount (dieOf s.active) die.toNat ch.toNat tick
    let n := (h.size + 255) / 256
    let l := (h.desc.lab ||| h.box.lab) ||| s.me.iss.lab
    some { kind := .xsend die.toNat ch.toNat seq, src := some h, dst := none, cnt := none, amt := 0
           ok := h.okC = true ∧ h.lines64 = true ∧ h.size ≤ 512 ∧ reaches s die
           sends := some ⟨dieOf s.active, die.toNat, ch.toNat, seq, tick, s.xnext, s.me.iss.cyc, n, h.size, l, [], false, false,
         s.fnOf s.active⟩
           next := fun x => beats (steppedC x src h advs) s.xnext h }
  | .xrecv _ dst die ch t advd =>
    let h := handle s dst
    let tick := s.me.seg.tick.getD 0
    let seq := s.recvCount die.toNat (dieOf s.active) ch.toNat tick
    some { kind := .xrecv die.toNat ch.toNat seq t.toNat, src := none, dst := some h, cnt := none, amt := 0
           ok := h.okC = true ∧ h.lines64 = true ∧ h.size ≤ 512 ∧ reaches s die ∧ s.me.iss.cyc < t.toNat
             ∧ (∀ m, s.senderOf die.toNat (dieOf s.active) ch.toNat seq tick = some m → m.size = h.size)
           next := fun x =>
             let y := steppedC x dst h advd
             { y with pend := insertDue ⟨t.toNat, phWrite, lnC, x.iss.cyc, .xrecv s.xnext⟩ y.pend } }
  | _ => none

end Sys2Proof.Machine.Claims

open Sys2Proof Sys2Proof.Machine Sys2Proof.Machine.Claims

/-- R197 to R201, R205, R206, R208 to R211, R216: a copy word whose checks stand is under way from its issue with its handles,
counter and label, records the first element outside each box, advances the handles it names, and nothing else changes. An origin advanced past its field wraps (log 83, the model's choice). -/
def Obligations.CopyWordsIssue : Prop :=
  ∀ (s : State) (i : Instr) (r : CRes), issuing s → copyWord s i = some r → cleared s r → issues s i r

/-- R217, R218: XSEND and XRECV whose checks stand are under way from their issue with the number of the send or receive of
their channel at this tick; what XSEND sends has its place in the receive buffer; XRECV is performed at the cycle it names. An origin advanced past its field wraps (log 83, the model's choice). -/
def Obligations.CrossDieWordsIssue : Prop :=
  ∀ (s : State) (i : Instr) (r : CRes), issuing s → crossWord s i = some r → cleared s r → issues s i r

/-- R198, R199, R201, R202, R207, R213: a check of a C word that fails, in their order: ILLEGAL_OPERAND, SCHEDULE_MISS (5 for
CFILL's rows, 6 for the 32 words under way), then PERMISSION of the destination and of the counter's box, LABEL_FLOW of the
two, and for RATOM both of the box its source stands in, which the result comes back to. Which slot and element a record
names is log 41, the model's choice. -/
def Obligations.CWordFaults : Prop :=
  ∀ (s : State) (i : Instr) (r : CRes), issuing s → copyWord s i = some r ∨ signalWord s i = some r ∨ crossWord s i = some r →
    let l := cLab s r
    let stands := r.ok ∧ counterFits s r ∧ ¬ r.late ∧ roomLeft s r
    let writes := ∀ h, r.dst = some h → h.box.mode ≠ .in_
    let counts := ∀ b, counterOf s r = some b → b.mode ≠ .in_
    let flows := ∀ h, r.dst = some h → Label.sub l h.box.lab = true
    let boxFlt (code sub : Nat) (l : Label) (h : Hnd) := exec i s =
      .next (s.failBox lanC code sub l h.desc.slot.toNat (h.box.detail (h.coord 0)))
    (¬ (r.ok ∧ counterFits s r) → exec i s = .next (s.fail lanC fIllegalOperand 0 l))
    ∧ (r.ok → counterFits s r → r.late → exec i s = .next (s.fail lanC fScheduleMiss 5 l))
    ∧ (r.ok → counterFits s r → ¬ r.late → ¬ roomLeft s r → exec i s = .next (s.fail lanC fScheduleMiss 6 l))
    ∧ (stands → ∀ h, r.dst = some h → h.box.mode = .in_ → boxFlt fPermission 0 l h)
    ∧ (stands → writes → ∀ b, counterOf s r = some b → b.mode = .in_ → exec i s = .next (s.fail lanC fPermission 0 l))
    ∧ (stands → writes → counts → ∀ h, r.dst = some h → Label.sub l h.box.lab = false → boxFlt fLabelFlow 1 l h)
    ∧ (stands → writes → counts → flows → ∀ b, counterOf s r = some b → Label.sub l b.lab = false →
        exec i s = .next (s.fail lanC fLabelFlow 1 l))
    ∧ (∀ (h : Hdr) op wide tgt src cnt (a b : Hnd), i = .ratom h op wide tgt src cnt → r.src = some a → r.dst = some b →
        stands → writes → counts → flows → (∀ c, counterOf s r = some c → Label.sub l c.lab = true) →
        (a.box.mode = .in_ → boxFlt fPermission 0 l a)
        ∧ (a.box.mode ≠ .in_ → Label.sub (l ||| b.box.lab) a.box.lab = false → boxFlt fLabelFlow 1 (l ||| b.box.lab) a))

/-- R207, R212, R213: the signal words. R215, R238, R327: CFENCE is a word of its own that waits for the incomplete words
before it; of scope DIE or wider it marks the UN lines later reads may not use. The model's choices: CFILL's origin advanced past its field wraps (log 83), a fence
waits for an addition only from the commit that releases it on (log 30), and RATOM takes the first element of its regions (log 102). -/
def Obligations.SignalWordsIssue : Prop :=
  (∀ (s : State) (i : Instr) (r : CRes), issuing s → signalWord s i = some r → cleared s r → issues s i r)
  ∧ (∀ (s : State) (h : Hdr) (sc : Scope), issuing s →
      ∃ t, exec (.cfence h sc) s = .next t ∧ t.xnext = s.xnext + 1
        ∧ (t.xwords.get s.xnext).kind = .cfence sc ∧ (t.xwords.get s.xnext).unit = s.active
        ∧ (t.xwords.get s.xnext).wait = openOf s ∧ (t.xwords.get s.xnext).issue = s.me.iss.cyc
        ∧ (∀ k, k ≠ s.xnext → t.xwords.get k = s.xwords.get k)
        ∧ t.me = if sc = .die ∨ sc = .package ∨ sc = .system then { s.me with unMark := s.unNext } else s.me)
/-! ## Segments, phases and tasks (spec 08, 09, 15) -/

namespace Sys2Proof.Machine.Claims

/-- The active unit carries out untimed code; its task, if it has one, runs and is of no gang. -/
def solo (s : State) : Prop :=
  s.me.iss.timed = false ∧ s.me.mode = .code ∧ ∀ k, s.me.task = some k → (s.task k).st = .running ∧ (s.task k).gang = none

/-- The unit stands at the word it has just come to. -/
def atWord (m : UMode) (x : Unit) : Unit := { x with mode := m, pc := x.iss.pc }

/-- No C word of the active unit's task is on its way. -/
def noWords (s : State) : Prop := ∀ e ∈ s.xwords, some e.2.task ≠ s.me.task

/-- A phase ends on a unit with no C word under way (R224): the registers and the staged boxes become the committed state,
with whether a SYNC must come next; then deferred additions are made, PHASE counts the phase and starts at attempt 0. -/
def phaseEnd (s : State) (order : Bool) : State :=
  s.modMe fun x => { x with
    snap := some x.regs, snapPc := x.pc, snapOrd := order, snapM := s.stagedCopies s.active Box.allocBytes
    vol := { x.vol with commits := x.vol.commits + 1, attempt := 0 }
    spad := applyDefer x.spad x.defer, defer := [] }

/-- The check literals of a segment agree with its signature and length (R221, R222). -/
def signatureOf (s : State) : BitVec 64 := crcBytes s.me.seg.crc (leBytes 4 (s.me.seg.last + 1))

/-- Words of the segment are still in the lanes' buffers. -/
def buffered (s : State) : Prop := ¬ (s.me.seg.sb = [] ∧ s.me.seg.vb = [] ∧ s.me.seg.mb = [] ∧ s.me.seg.cb = [])

/-- A task word under a true guard, its label raised. -/
def lifted (s : State) (g : POp) : State := s.modMe fun x => withLabel x (x.readP g).l

/-- The label of a task word's result. -/
def taskLab (s : State) (g : POp) : Label := (s.me.readP g).l ||| s.me.iss.lab

/-- TEND and TFAIL stand where R233 allows them. -/
def mayEnd (s : State) : Prop :=
  s.me.iss.timed = false ∧ (s.taskOf s.active).args = []
    ∧ ((s.taskOf s.active).group = [] ∨ (s.taskOf s.active).closed = true)

/-- A child of a spawn agrees with argument `a` of its parent box (R229). -/
def argBox (pb : Box) (a : Arg) (b : Box) : Prop :=
  b.present = true ∧ b.layout = pb.layout ∧ b.rank = pb.rank ∧ b.mode = a.mode ∧ b.merge = a.merge
    ∧ (a.mode ≠ .loc → b.lab = a.lab ∧ b.root = pb.root) ∧ ∀ i, i < 4 → i < pb.rank → b.ext.get i = a.desc.extN i

/-- What a spawn of `n` children at index `idx` leaves (R230, R231). -/
def spawned (s t : State) (p idx n : Nat) (gang : Bool) : Prop :=
  t.spawns = s.spawns + n
    ∧ (t.task p).group = (s.task p).group ++ (List.range n).map (s.spawns + ·) ∧ (t.task p).args = []
    ∧ (∀ k, k < s.spawns → k ≠ p → t.task k = s.task k)
    ∧ ∀ i, i < n →
        let c := t.task (s.spawns + i)
        c.st = .spawned ∧ c.parent = some p ∧ c.index = idx ∧ c.child = (s.task p).group.length + i
        ∧ c.lid = (s.task p).lid ∧ c.level = ((s.launch (s.task p).lid).entryOf idx).level
        ∧ c.gang = (if gang then some (s.spawns, i, n) else none)
        ∧ ∀ a ∈ (s.task p).args, argBox (s.box s.active a.desc.slot.toNat) a (c.boxes.get a.slot)

/-- A task off its unit, ended as failed without a record of its own: freezes its words still hold have theirs (R402), its
space is given back. -/
def endedBy (s : State) (k : Nat) (how : TEndK) (l : Label) : State :=
  let x := s.me
  let s1 := ((s.heldRecords k).setUnit s.active { x.abort x.iss.cyc false with mode := .idle, task := none, real := none }).charge
    s.active
  ((s1.dropPending k none).freeBoxes k).modTask k fun t => { t with
    st := .done, closed := true, unit := none, how := how, endL := l ||| x.vol.lblpc, boxbad := false, args := [], contPc := 0
    attempt := x.vol.attempt, segno := x.seg.segno }

end Sys2Proof.Machine.Claims

open Sys2Proof Sys2Proof.Machine Sys2Proof.Machine.Claims

/-- R219, R220, R227: SYNC inside a segment is ILLEGAL_OPERAND; after REALIGN it is a schedule miss from the named tick on
and waits before it; otherwise it opens a segment at once, or waits while a timed effect is to come or the die drains. -/
def Obligations.SyncWord : Prop :=
  ∀ (s : State) (h : Hdr), let x := s.me
    let wait := Host.Outcome.next (s.modMe (atWord .sync))
    (x.iss.timed = true → exec (.sync h) s = .next (s.fail lanS fIllegalOperand 0 x.iss.lab))
    ∧ (∀ t, x.iss.timed = false → x.real = some t → t ≤ s.frame.toNat →
        exec (.sync h) s = .next (s.fail lanS fScheduleMiss 9 x.iss.lab))
    ∧ (∀ t, x.iss.timed = false → x.real = some t → s.frame.toNat < t → exec (.sync h) s = wait)
    ∧ (solo s → x.real = none → x.pend = [] → (s.dies.get (dieOf s.active)).drain = false →
        exec (.sync h) s = .next ((s.modMe (atWord .sync)).openSeg s.active x.iss.pc))
    ∧ (solo s → x.real = none → x.pend ≠ [] ∨ (s.dies.get (dieOf s.active)).drain = true → exec (.sync h) s = wait)

/-- R219, R221: SEGEND stops fetch and leaves its literals for the checks; outside a segment, and with a return stack that
is not empty, it is ILLEGAL_OPERAND. The checks come once every word fetched before it has issued: a signature or a length
that differs is SEGMENT_CHECK, subcode 1, 2 or 3 for both, and the segment ends where nothing else stands. -/
def Obligations.SegmentEnd : Prop :=
  ∀ (s : State) (h : Hdr) (sig : BitVec 64) (len : BitVec 32), let x := s.me
    let bad := Host.Outcome.next (s.fail lanS fIllegalOperand 0 x.iss.lab)
    (x.iss.timed = false → exec (.segend h sig len) s = bad)
    ∧ (x.iss.timed = true → x.vol.rstack ≠ [] → exec (.segend h sig len) s = bad)
    ∧ (x.iss.timed = true → x.vol.rstack = [] → exec (.segend h sig len) s =
        .next (s.modMe fun x => { x with seg := { x.seg with ended := some (sig, len), stopped := true } }))
    ∧ (x.mode = .seg → x.seg.ended = some (sig, len) → ¬ buffered s →
        let lseg := x.seg.last + 1
        let s1 := s.modMe fun x => { x with iss := { x.iss with cyc := x.seg.last, timed := true } }
        (signatureOf s ≠ sig ∨ lseg ≠ len.toNat → exec .segmentEndCheck s = .next (s1.raise s.active
          { s1.me.flt lanS fSegmentCheck ((if signatureOf s ≠ sig then 1 else 0) + (if lseg ≠ len.toNat then 2 else 0))
              x.vol.lblpc with det := lseg } false))
        ∧ (signatureOf s = sig → lseg = len.toNat → noWords s →
            s.strict s.active = false ∨ x.vol.boxerr.getLsbD 0 = false →
          exec .segmentEndCheck s = .next (s1.modMe fun x => { x with
            mode := .code, pc := x.seg.npc, iss := { x.iss with timed := false }
            seg := { x.seg with ended := none, ctl := none } })))

/-- R219, R224, R225, R226, R227: PCOMMIT and PCANCEL in a segment or without phase protection, and REALIGN in a segment,
are ILLEGAL_OPERAND. PCOMMIT waits for timed effects and then ends the phase; PCANCEL cancels the phase of every member of its
gang, and in the third attempt is TRAP 0x0100; REALIGN names the tick at which the next SYNC issues. -/
def Obligations.PhaseWords : Prop :=
  ∀ (s : State) (h : Hdr) (f : BitVec 12), let x := s.me
    let bad := Host.Outcome.next (s.fail lanS fIllegalOperand 0 x.iss.lab)
    (x.iss.timed = true ∨ s.prot s.active = false → exec (.pcommit h) s = bad ∧ exec (.pcancel h) s = bad)
    ∧ (x.iss.timed = true →
        exec (.realign h f) s = .next (s.fail lanS fIllegalOperand 0 (x.iss.lab ||| x.vol.codeL)))
    ∧ (x.iss.timed = false → s.prot s.active = true → x.pend ≠ [] → exec (.pcommit h) s = .next (s.modMe fun x => { x with pc := x.iss.pc }))
    ∧ (solo s → s.prot s.active = true → x.pend = [] → noWords s → exec (.pcommit h) s =
        .next ((phaseEnd s false).modMe fun x => if x.saveNext then { x with mode := .parking } else x))
    ∧ (x.iss.timed = false → s.prot s.active = true → 2 ≤ s.gangAttempt s.active → exec (.pcancel h) s = .next (s.fail lanS fTrap 0x100 x.iss.lab))
    ∧ (x.iss.timed = false → s.prot s.active = true → s.gangAttempt s.active < 2 → exec (.pcancel h) s =
        .next (s.cancelGang s.active x.iss.cyc false))
    ∧ (x.iss.timed = false → noWords s → exec (.realign h f) s =
        .next (s.modMe fun x => { x with real := some (s.frame.toNat + f.toNat), order := true }))

/-- R223: WAITGE in a segment is WAIT_ORDER, and on a box or index that is no counter of the task ILLEGAL_OPERAND; under
phase protection it ends the phase; then it waits for its counter. The wait ends, by WAITGE_SATISFIED, once the counter has
come to the target, and its label joins LBLPC. That WAITGE may stand before the first segment of a task is log 91, the
model's choice. -/
def Obligations.WaitWord : Prop :=
  ∀ (s : State) (h : Hdr) (slot : BitVec 4) (idx : BitVec 8) (a : SB), let x := s.me
    let u := s.active
    let v := x.readB a
    let b := s.box u slot.toNat
    let c : Quad Int := ⟨idx.toNat, 0, 0, 0⟩
    let counter := b.present = true ∧ b.layout = 0x30 ∧ b.has c = true
    let l := v.l ||| x.iss.lab
    (x.iss.timed = true → exec (.waitge h slot idx a) s = .next (s.fail lanS fWaitOrder 0 l))
    ∧ (x.iss.timed = false → ¬ counter → exec (.waitge h slot idx a) s = .next (s.fail lanS fIllegalOperand 0 l))
    ∧ (solo s → counter → noWords s → (s.prot u = true → x.pend = []) →
        exec (.waitge h slot idx a) s =
          .next ((if s.prot u = true ∧ u < 384 then phaseEnd s true else s).modMe fun x => { x with
            mode := .wait slot.toNat idx.toNat v.v.toNat (b.lab ||| v.l), order := decide (u < 384), since := s.frame.toNat }))
    ∧ (∀ (k w : Nat) (slot idx target : Nat) (l : Label) (t : State) (n : Nat), (s.task k).unit = some w →
        (s.unit w).mode = .wait slot idx target l →
        let b := s.box w slot
        let c : Quad Int := ⟨idx, 0, 0, 0⟩
        b.present = true → b.layout = 0x30 → b.has c = true → s.unitStalled w = false →
        s.counterGet (s.ctxOf w) w b (b.addr c) = (t, .ok n) → target ≤ n →
        exec (.waitgeSatisfied k) s = .next (t.modUnit w fun x => { x with
          mode := .code, vol := { x.vol with lblpc := x.vol.lblpc ||| l } }))

/-- R229, R109: ARG records an argument with the handle's label and the word's; an invalid handle and a slot already
pending are ILLEGAL_OPERAND, and a writing mode on a box of mode IN is PERMISSION. Which slot and coordinates that
record names is log 41, the model's choice. -/
def Obligations.ArgumentWord : Prop :=
  ∀ (s : State) (h : Hdr) (k : Nat) (x d : BitVec 4) (mode : AMode) (merge : Merge) (g : POp), working s →
    (s.me.readP g).v = true → s.me.task = some k →
    let e := s.me.regs.d.get d.toNat
    let b := s.box s.active e.slot.toNat
    let l := e.lab ||| taskLab s g
    let pending := ∃ a ∈ (s.task k).args, a.slot = x.toNat
    let writes := mode = .out ∨ mode = .inout
    (e.valid = false ∨ pending → exec (.arg h x d mode merge g) s = .next ((lifted s g).fail lanS fIllegalOperand 0 l))
    ∧ (e.valid = true → ¬ pending → writes → b.mode = .in_ → exec (.arg h x d mode merge g) s =
        .next ((lifted s g).failBox lanS fPermission 0 l e.slot.toNat (b.detail (Quad.ofFn e.orgZ))))
    ∧ (e.valid = true → ¬ pending → ¬ (writes ∧ b.mode = .in_) → exec (.arg h x d mode merge g) s =
        .next ((lifted s g).modTask k fun t => { t with args := t.args ++ [⟨x.toNat, e, mode, merge, l⟩] }))

/-- R230, R231, R299: a spawn puts one child, or a gang of n, into the task table in state SPAWNED, with the boxes of
the recorded arguments, joins them to the group and clears the arguments; an index the table lacks and a group beyond 64
are ILLEGAL_OPERAND; without free entries, or without room for the children's boxes and staging, the sequencer stands at
the word. Where the new boxes and staging areas lie is log 14, the number of a task log 77, the model's choices. -/
def Obligations.SpawnWords : Prop :=
  ∀ (s : State) (h : Hdr) (i : TIdx) (n1 : BitVec 3) (g : POp) (p : Nat), working s →
    (s.me.readP g).v = true → s.me.task = some p → (s.task p).st = .running → p < s.spawns →
    let s1 := lifted s g
    let u := s.active
    let v := s.me.readT i
    let l := v.l ||| taskLab s g
    let lv := (s.launchOf u).levelOf ((s.task p).level + 1)
    let word (gang : Bool) := if gang then Instr.gspawn h i n1 g else Instr.spawn h i g
    let count (gang : Bool) := if gang then n1.toNat + 1 else 1
    let room (gang : Bool) : Option State :=
      (s1.newChildren u p v.v.toNat (count gang) gang (s1.me.vol.lblpc ||| l)).placeChildren p
        ((List.range (count gang)).map (s.spawns + ·))
    ∀ gang, let n := count gang
      let full := s.freeEntries (s1.childDie u) < (if lv.domain = 4 then n else n + 512)
      (((s.launchOf u).tasks[v.v.toNat]? = none ∨ ∃ e, (s.launchOf u).tasks[v.v.toNat]? = some e ∧ (e.level ≠ (s.task p).level + 1
          ∨ 64 < (s.task p).group.length + n)) → exec (word gang) s = .next (s1.raise u (s1.me.flt lanS fIllegalOperand 0 l) true))
      ∧ (∀ code det, spawnBad s1 u v.v.toNat n gang = some (code, det) →
          exec (word gang) s = .next (s1.raise u { s1.me.flt lanS code 0 l with det := det } true))
      ∧ (spawnBad s1 u v.v.toNat n gang = none → full → exec (word gang) s = .next (s1.modMe fun x => { x with pc := x.iss.pc }))
      ∧ (spawnBad s1 u v.v.toNat n gang = none → ¬ full → room gang = none →
          exec (word gang) s = .next (s1.modMe fun x => { x with pc := x.iss.pc }))
      ∧ (spawnBad s1 u v.v.toNat n gang = none → ¬ full → room gang ≠ none → ((s.task p).args.map (·.slot)).Nodup →
          ∃ t, exec (word gang) s = .next t ∧ spawned s t p v.v.toNat n gang)

/-- R232, R233, R234: CONT closes the group and leaves the unit for its continuation; TEND and TFAIL in a segment, with
an argument pending or an open group, are ILLEGAL_OPERAND, wait for timed effects, and then TEND raises what stands at
the task's words, else returns the task (at the end of its words), TFAIL ends it with its code and no record.  -/
def Obligations.TaskEndWords : Prop :=
  ∀ (s : State) (h : Hdr) (off : BitVec 24) (a : SB) (g : POp) (k : Nat), working s →
    (s.me.readP g).v = true → s.me.task = some k →
    let s1 := lifted s g
    let t := s.task k
    let v := s.me.readB a
    (t.args ≠ [] → exec (.cont h off g) s = .next (s1.fail lanS fIllegalOperand 0 (taskLab s g)))
    ∧ (t.args = [] → exec (.cont h off g) s = .next (((s1.modMe fun x => { x with
          mode := .idle, task := none, vol := { x.vol with rstack := [] } }).charge s.active).modTask k fun t => { t with
          st := .joining, closed := true, unit := none, contPc := targetOf s.me off
          lbl := s1.me.vol.lblpc, lbl0 := s1.me.vol.lblpc, how := .ok }))
    ∧ (¬ mayEnd s → exec (.tend h g) s = .next (s1.fail lanS fIllegalOperand 0 (taskLab s g))
        ∧ exec (.tfail h a g) s = .next (s1.fail lanS fIllegalOperand 0 (v.l ||| taskLab s g)))
    ∧ (mayEnd s → s.me.pend ≠ [] → exec (.tend h g) s = .next (s1.modMe fun x => { x with pc := x.iss.pc })
        ∧ exec (.tfail h a g) s = .next (s1.modMe fun x => { x with pc := x.iss.pc }))
    ∧ (mayEnd s → s.me.pend = [] → s1.standing s.active = none → s.prot s.active = false → s.wordsDone k = false →
        exec (.tend h g) s = .next (s1.modMe fun x => { x with mode := .tending none }))
    ∧ (∀ f, mayEnd s → s.me.pend = [] → s1.standing s.active = some f →
        exec (.tend h g) s = .next (s1.raiseStanding s.active f))
    ∧ (mayEnd s → s.me.pend = [] → noWords s → s.strict s.active = false ∨ s.me.vol.boxerr.getLsbD 0 = false →
        s.outLabelBad t = none →
        let s2 := if s.prot s.active then phaseEnd s1 false else s1
        exec (.tend h g) s = .next (((s2.modMe fun x => { x with
          mode := .idle, task := none, vol := { x.vol with rstack := [] } }).charge s.active).modTask k fun t => { t with
          st := .returning, unit := some s.active, boxbad := s.me.vol.boxerr.getLsbD 0, endL := s1.me.vol.lblpc
          attempt := s2.me.vol.attempt, segno := s.me.seg.segno }))
    ∧ (mayEnd s → s.me.pend = [] → t.group = [] →
        exec (.tfail h a g) s = .next (endedBy s1 k (.tfail (v.v.toNat % 2 ^ 16)) v.l))

/-! ## Faults (spec 22, 09) and timed effects (spec 02, 05, 06, 07) -/

namespace Sys2Proof.Machine.Claims

/-- Codes whose outcome is F alone (R403, R404). -/
def failCodes : List Nat := [0x01, 0x02, 0x04, 0x05, 0x06, 0x08, 0x09, 0x0A, 0x0B, 0x0C, 0x0E, 0x0F, 0x10, 0x12, 0x13, 0x15]

/-- A task has left its unit as failed, its outward copies suppressed. -/
def gone (s t : State) (u k : Nat) (f : Flt) : Prop :=
  (t.unit u).mode = .idle ∧ (t.unit u).task = none ∧ (t.task k).unit = none ∧ (t.task k).how = .fault f.code f.sub
    ∧ (t.task k).args = [] ∧ (t.task k).st = (if (s.task k).group = [] then .done else .joining)

/-- One record with a severity, posted to the ring of the task's function. -/
def recorded1 (s t : State) (u : Nat) (f : Flt) (sev : Nat) : Prop :=
  t.recQ = s.recQ ++ [⟨.fault (s.fnOf u), faultRecord s u f sev⟩]

/-- The same when the task ends with it: freezes its words still hold have their records after it, of severity 2 (R402). -/
def recordedEnd (s t : State) (u k : Nat) (f : Flt) (cut : Bool) (sev : Nat) : Prop :=
  t.recQ = s.recQ ++ [⟨.fault (s.fnOf u), faultRecord s u f sev⟩]
    ++ ((s.dropIssued u (s.unit u).iss.cyc cut).xwords.filterMap fun e => if e.2.task = k then e.2.held.filter Flt.stays else none).map fun g =>
      ⟨.fault (s.fnOf u), s.faultRec (s.task k) (s.unit u).vol.attempt (s.unit u).seg.segno g 2⟩

/-- The unit's first effect to come taken off its list. -/
def dropped1 (x : Unit) : Unit := { x with pend := x.pend.tail }

/-- A row as a V write leaves it (R55, R142): kept bits stay, and the old label unless the write is whole. -/
def rowNew (old v : Lv 4096) (keep : Nat) (whole : Bool) : Lv 4096 :=
  ⟨(v.v &&& ~~~BitVec.ofNat 4096 keep) ||| (old.v &&& BitVec.ofNat 4096 keep), if whole then v.l else old.l ||| v.l⟩

/-- A tile row replaced. -/
def withRow (x : Unit) (t r : Nat) (w : Lv 4096) : Unit :=
  { x with regs := { x.regs with tiles := x.regs.tiles.upd t fun k => { k with rows := k.rows.put r w } } }

/-- VSTAT with the flags of a row write joined, and its label where one is raised (R25, R64). -/
def flagged (x : Unit) (fl : BitVec 5) (l : Label) : Unit :=
  if fl = 0#5 then x else { x with regs := { x.regs with vstat := x.regs.vstat ||| fl, vstatL := x.regs.vstatL ||| l } }

/-- The vector latch and queue take a row (R54): the latch keeps a result of a later issue. -/
def pushed (x : Unit) (iss : Nat) (w : Lv 4096) : Unit :=
  { x with vol := { x.vol with
      vq := (w :: x.vol.vq).take 8
      vlat := if (x.vol.vlatIss.getD 0) ≤ iss then w else x.vol.vlat
      vlatIss := if (x.vol.vlatIss.getD 0) ≤ iss then some iss else x.vol.vlatIss } }

end Sys2Proof.Machine.Claims

open Sys2Proof Sys2Proof.Machine Sys2Proof.Machine.Claims

/-- R113, R252, R401 to R406: a fault of a task of no gang. A task fault posts one record of severity 1 and ends the task;
PERMISSION and GATE_REFUSAL do so with severity 2 and freeze the master; a schedule miss in attempt 0 or 1 cancels the phase
without a record and in the third ends the task; BREAK posts severity 0 and holds the task. A record is 64 bytes. -/
def Obligations.FaultOutcomes : Prop :=
  ∀ (s : State) (u k : Nat) (f : Flt) (cut : Bool), (s.unit u).task = some k → (s.task k).gang = none →
    (s.task k).unit = some u → (s.task k).st = .running → (∀ e, (s.unit u).mode ≠ .tending e) →
    let t := s.raise u f cut
    let x := s.unit u
    (f.code ∈ failCodes → recordedEnd s t u k f cut 1 ∧ gone s t u k f ∧ t.frozen = s.frozen)
    ∧ (f.code = 0x0D ∨ f.code = 0x14 → recordedEnd s t u k f cut 2 ∧ gone s t u k f ∧ masterOf u (s.asidOf u) ∈ t.frozen)
    ∧ (f.code = 0x03 → x.vol.attempt < 2 → (x.mode = .seg ∨ x.mode = .code ∨ x.mode = .sync) → t.recQ = s.recQ ∧ (t.unit u).mode = .restoring ∧ (t.unit u).task = some k
        ∧ (t.unit u).vol = x.vol ∧ t.tasks = s.tasks)
    ∧ (f.code = 0x03 → 2 ≤ x.vol.attempt → recordedEnd s t u k f cut 1 ∧ gone s t u k f)
    ∧ (f.code = 0x11 → recorded1 s t u f 0 ∧ (t.unit u).mode = .held ∧ (t.unit u).task = some k ∧ t.tasks = s.tasks)
    ∧ ∀ sev, (faultRecord s u f sev).length = 64

/-- R39, R54, R136, R142, R183, R184, R190, R192, R218, R239: the first effect to come of a unit, performed: scalar results
at the queue and latch and then at the register, rows with the flags of their words, which join VSTAT in the cycle of the
row (log 58, the model's choice), stores, row groups, slots, check results, receives; the flip that
ACCINJ has armed; and the next fetch group. -/
def Obligations.TimedEffects : Prop :=
  ∀ (s : State) (d : Due) (r : List Due), s.me.pend = d :: r → s.me.mode ≠ .idle →
    (∀ i v, d.eff = .sres i v → exec .sResultArrive s = .next (s.modMe fun x => { dropped1 x with vol := { x.vol with
        q := (v :: x.vol.q).take 16
        lat := if x.vol.latIss = none ∨ x.vol.latIss.getD 0 < i then v else x.vol.lat
        latIss := if x.vol.latIss = none ∨ x.vol.latIss.getD 0 < i then some i else x.vol.latIss } }))
    ∧ (∀ p v, d.eff = .sname p v → exec .sResultArrive s = .next (s.modMe fun x => { dropped1 x with
        regs := { x.regs with s := x.regs.s.put p v } }))
    ∧ (∀ p v, d.eff = .pred p v → exec .sResultArrive s = .next (s.modMe fun x => { dropped1 x with
        regs := { x.regs with p := if p = 0 then x.regs.p else x.regs.p.put p v } }))
    ∧ (∀ i t n v keep whole fl, d.eff = .vrow i t n v keep whole fl → t < s.me.regs.acc →
        (s.me.regs.tiles.get t).pow = .on → s.me.que.mwC ≠ d.cyc → exec .vRowWrite s = .next (s.modMe fun x =>
          let w := rowNew (x.rowAt t n) v keep whole
          withRow (pushed (flagged (dropped1 x) fl v.l) i w) t n w))
    ∧ (∀ ws, d.eff = .store ws → exec .timedStorePerform s = .next (s.modMe fun x => { dropped1 x with spad := Mem.writes x.spad ws }))
    ∧ (∀ a v, d.eff = .cadd a v → exec .timedStorePerform s = .next (s.modMe fun x => { dropped1 x with
        spad := Mem.write x.spad a (leBytes 8 (min (2 ^ 64 - 1) (Mem.nat x.spad a 8 + v))) }))
    ∧ (∀ w k, d.eff = .mrow w k → exec .mRowGroupAccumulate s = .next (s.modMe fun x => (dropped1 x).accumulateGroup d.cyc w k))
    ∧ (∀ w, d.eff = .mslot w → exec .mloadbSlotReady s = .next (s.modMe fun x =>
        let g := x.que.mruns.get w
        let b : BSlot := ⟨true, (List.range 128).map (fun k => (g.el.get k).1), g.sc.headD 0, g.sc, fwB g.fw, fwScale g.fw,
          g.lab, (x.que.slots.get g.slot).ready⟩
        { dropped1 x with que := { x.que with slots := x.que.slots.put g.slot b } }))
    ∧ (∀ w, d.eff = .mchk w → exec .mchkvResult s = .next (s.modMe fun x => (dropped1 x).checkResult d.cyc w))
    ∧ (∀ k, d.eff = .xrecv k → exec .xrecvPerform s = .next ((s.modMe dropped1).recvAt s.active d.cyc k))
    ∧ (s.me.mode = .seg → s.me.fetchBlocked = false →
        exec .fetchGroup s = .next (s.fetchAt s.active (max s.me.seg.fetchC s.me.seg.cyc)))
    ∧ (∀ a, s.me.mode = .seg → s.me.flipCand = some a → exec .accinjFlip s = .next (s.modMe fun x =>
        ({ x with seg := { x.seg with cyc := max x.seg.cyc a.cyc } }).flipBit))

/-! ## What the schedulers do (spec 09, 15) -/

namespace Sys2Proof.Machine.Claims

/-- At least `us` microseconds may have passed since tick `t`, the present period counted in (R257, log 8). -/
def passed (s : State) (t us : Nat) : Prop := us < 4 * (s.frame.toNat - t + 1)

/-- A task runs on a unit, alone: no gang. -/
def runs1 (s : State) (k u : Nat) : Prop :=
  (s.task k).unit = some u ∧ (s.unit u).task = some k ∧ (s.task k).gang = none

/-- The registers a task is saved with: under phase protection those of its last commit. -/
def savedRegs (s : State) (u : Nat) : Regs := if s.prot u then (s.unit u).snap.getD (s.unit u).regs else (s.unit u).regs

/-- A task saved off its unit, to resume at `pc`. -/
def off (t : State) (k : Nat) (r : Regs) (pc : Nat) : Prop :=
  (t.task k).st = .parked ∧ (t.task k).unit = none ∧ ∃ v, (t.task k).saved = some v ∧ v.regs = r ∧ v.pc = pc

/-- A gang whose members that have not ended are all READY. -/
def gangReady (s : State) (k g : Nat) : Prop :=
  (∃ m n, (s.task k).gang = some (g, m, n)) ∧ ∀ j ∈ s.gangTasks k, (s.task j).st = .ready

/-- A record of a fault outside any word, the TASK_LATE of a timetabled task. -/
def late (sub : Nat) (s : State) (k : Nat) : Flt := fltOf 0x12 sub (s.task k).lbl

end Sys2Proof.Machine.Claims

open Sys2Proof Sys2Proof.Machine Sys2Proof.Machine.Claims

/-- R62, R252, R253, R306, R308, R404: the restore after a cancel resumes a protected phase at its commit point, one
attempt further, and places an unprotected task again; a wait beyond PARKLIMIT parks the task, or ends a timetabled one;
a parked task whose wait is over is placed again; a task held by BKPT goes on; and a task of a pre-empted context beyond
its limit is noted and cancelled. Elapsed times are judged by frame ticks (log 8, the model's choice). -/
def Obligations.TasksLeaveUnits : Prop :=
  ∀ (s : State) (k u : Nat), let x := s.unit u
    (runs1 s k u → x.mode = .restoring → s.quiet u = true → x.saving = 0 →
      (s.prot u = true → ∃ t, exec (.phaseRestoreComplete k) s = .next t ∧ (t.unit u).mode = .code ∧ (t.unit u).pc = x.snapPc
        ∧ (t.unit u).regs = x.snap.getD x.regs ∧ (t.unit u).vol.attempt = x.vol.attempt + 1 ∧ (t.unit u).pend = []
        ∧ (t.unit u).vol.lblpc = x.vol.lblpc ∧ (t.unit u).vol.q = [])
      ∧ (s.prot u = false → ∃ t, exec (.phaseRestoreComplete k) s = .next t ∧ (t.task k).st = .spawned ∧ (t.task k).unit = none
        ∧ (t.task k).attempt = x.vol.attempt + 1))
    ∧ (∀ slot idx target l, runs1 s k u → x.mode = .wait slot idx target l → passed s x.since (s.launch (s.task k).lid).limit →
        (s.quiet u = true → (s.task k).timed = none → ∃ t, exec (.park k) s = .next t ∧ off t k (savedRegs s u) x.pc
          ∧ (t.task k).wait = some (slot, idx, target))
        ∧ (∀ r, (s.task k).timed = some r → exec (.park k) s = .next (s.raise u
            { x.flt lanS 0x12 2 x.vol.lblpc with cyc := 0xFFFFFFFF } false)))
    ∧ (∀ t, (s.task k).gang = none → (s.task k).st = .parked → (s.asids.get (s.launch (s.task k).lid).asid).off = false →
        s.schedStalled k = false → s.wakes k = (t, .ok true) → exec (.parkedWake k) s = .next ((t.gain k).modTask k fun j => { j with
          st := .spawned, wait := none, start := t.frame.toNat }))
    ∧ (runs1 s k u → x.mode = .held → u < 384 → exec (.breakResume k) s =
        .next (((s.modUnit u fun x => { x with mode := .code }).cancelOne u x.iss.cyc false).modUnit u fun y => { y with
          saving := if x.saving = 2 ∨ x.saving = 4 then 4 else 3 }))
    ∧ ((s.task k).unit = some u → x.mode = .held → 384 ≤ u →
        exec (.breakResume k) s = .next (s.modUnit u fun x => { x with mode := .code }))
    ∧ (∀ f us, runs1 s k u → u < 384 → x.mode = .code ∨ x.mode = .seg → (s.task k).timed = none → x.saveNext = false →
        (s.asids.get (s.launch (s.task k).lid).asid).pre = some (f, us) → passed s f us →
        exec (.forcedSave k) s = .next (((s.post (.fault (s.fnOf u)) (faultRecord s u
          { fltOf 0x16 0 x.vol.lblpc with cyc := x.iss.segcyc } 0)).cancelOne u x.iss.cyc false).modUnit u fun x => { x with saving := 1 }))

/-- R293, R295, R296, R298, R299, R232: a child whose inputs are copied is READY; one whose outward copies are made is DONE,
successful; a closed group whose children are done is joined: its results are merged, CHST counts it, its entries are freed
and the parent is placed again at its continuation. -/
def Obligations.ChildrenJoin : Prop :=
  ∀ (s t : State) (k u : Nat), let j := s.task k
    let fn := (s.launch j.lid).fn
    (j.st = .preparing → j.unit = some u → j.ready = false → s.schedStalled k = false →
      (s.copyIn k = (t, none) → (t.task k).gang = none → (t.task k).st = .preparing →
        ∃ q, exec (.childCopyInComplete k) s = .next q ∧ (q.task k).st = .ready ∧ ∀ i, i ≠ k → q.task i = t.task i)
      ∧ (∀ code sub det va acc, s.copyIn k = (t, some (.flt code sub det va, acc)) →
        exec (.childCopyInComplete k) s = .next (t.failPrepared k u (t.copyFlt k code sub det va j.lbl))))
    ∧ (j.st = .returning → s.schedStalled k = false → s.outBoxes k (j.unit.getD 0) j.boxes = (t, none) →
        exec (.outwardCopyComplete k) s = .next ((t.freeBoxes k).modTask k fun j => { j with st := .done, unit := none, how := .ok }))
    ∧ (j.st = .joining → (∀ i ∈ j.group, (s.task i).st = .done ∧ s.wordsDone i = true) → s.schedStalled k = false →
        s.recordsOut fn = true → s.mergeAll j.home j.group = (t, none) → j.how = .ok → k ∉ j.group →
        ∃ q, exec (.join k) s = .next q ∧ (q.task k).st = .spawned ∧ (q.task k).cont = true ∧ (q.task k).group = []
          ∧ (q.task k).chst = chstOf (j.group.map t.task) ∧ (∀ i ∈ j.group, q.task i = default)
          ∧ ∀ i, i ≠ k → i ∉ j.group → q.task i = t.task i)

/-- R300 to R305, R308: after 4 ms a waiting task rises one class below its ceiling; a READY gang starts on its idle
cores, loses its reservation after 1 ms and renews it 1 ms later; a timetabled task starts in the microsecond of its tick and
cycle (log 8, the model's choice), and past it ends with TASK_LATE, of code 4 on a quarantined core; a free unit runs the best READY task that fits it; a context whose tasks have all left is pre-empted.
Elapsed times are judged by frame ticks (log 8, the model's choice). -/
def Obligations.SchedulerPicks : Prop :=
  ∀ (s : State) (k u : Nat), let j := s.task k
    (j.st = .spawned ∨ j.st = .ready → passed s j.start 4000 → j.prio < (s.launch j.lid).ceil → exec (.taskAging k) s =
      .next (s.modTask k fun j => { j with prio := j.prio + 1, start := s.frame.toNat }))
    ∧ (∀ g, gangReady s k g →
        (j.timed = none → s.allIdle (s.gangTasks k) = true → exec (.gangStart k) s =
          .next { s.startAll (s.gangTasks k) with gres := s.gres.put g .none })
        ∧ (∀ f, s.gres.get g = .held f → passed s f 1000 → exec (.gangReservationLapse k) s = .next
            { s.event 1 0 (s.launch j.lid).fn (s.launch j.lid).asid (clusterOf (j.unit.getD 0)) with
              gres := s.gres.put g (.lapsed s.frame.toNat) })
        ∧ (∀ f, s.gres.get g = .lapsed f → passed s f 1000 → exec (.gangReservationRenew k) s =
            .next { s with gres := s.gres.put g (.held s.frame.toNat) }))
    ∧ (∀ c tick y, j.timed = some (c, tick, y) → j.saved = none → j.gang = none →
        (∀ e ∈ s.tasks, s.startDue e.1 = true → e.2.startsBefore j = false) →
        let n := s.devtime.toNat % 4
        (tick = s.frame.toNat → s.cyclesIn (dieOf c) n ≤ y → y < s.cyclesIn (dieOf c) (n + 1) → j.st = .ready → j.unit = some u →
          s.idleUnit u = true → s.fitsUnit u k = true → exec (.timetabledStart k) s = .next (s.startTask u k))
        ∧ (tick < s.frame.toNat ∨ (tick = s.frame.toNat ∧ y < s.cyclesIn (dieOf c) n) →
          j.st = .spawned ∨ j.st = .preparing ∨ j.st = .ready → exec (.timetabledStart k) s =
            .next (s.failPrepared k (j.unit.getD 0) (late (if (s.unit c).quar = true then 4 else 1) s k))))
    ∧ (s.idleUnit u = true → s.reservedFor u = none →
        s.best ((s.queued u).filter fun i => (s.task i).st = .ready && (s.task i).gang.isNone && (s.task i).timed.isNone
          && s.fitsUnit u i) = some k → exec (.taskPick u) s = .next (s.startTask u k))
    ∧ (∀ asid lim, (s.asids.get asid).pre = some lim → (∀ e ∈ s.tasks, (s.launch e.2.lid).asid = asid →
          e.2.st ≠ .running ∧ e.2.st ≠ .preparing ∧ e.2.st ≠ .ready ∧ e.2.st ≠ .returning) →
        exec (.preemptComplete asid) s = .next ({ s with asids := s.asids.put asid { s.asids.get asid with pre := none } }.event
          2 0 (s.asids.get asid).fn asid asid))

/-- R61, R62, R47, R306: a task that starts on a unit has its code, its constants with their label, and its registers:
those of a task's start with its allotment of tiles, or those it was saved with; it begins at its entry, its
continuation or where it was saved, and every queue, latch and pending effect of the unit is empty. The tag counter of
the unit goes on (log 45, the model's reading), but for a phase-protected task that resumes, which has its committed one
(R214). -/
def Obligations.TaskStart : Prop :=
  ∀ (s : State) (u k : Nat), let j := s.task k
    let l := s.launch j.lid
    let e := l.entryOf j.index
    let y := (s.startTask u k).unit u
    y.mode = .code ∧ y.task = some k ∧ y.pend = [] ∧ y.que = default ∧ y.vol.q = [] ∧ y.vol.rstack = [] ∧ y.vol.lblpc = j.lbl
    ∧ y.vol.codeL = l.codeL ∧ y.codeN = e.code.length ∧ (y.snap.isSome = e.prot)
    ∧ (∀ v, j.saved = some v → y.regs = { v.regs with tag := if e.prot then v.regs.tag else (s.unit u).regs.tag } ∧ y.pc = v.pc)
    ∧ (j.saved = none → y.regs = { Regs.start e.acc with tag := (s.unit u).regs.tag } ∧ y.vol.chst = j.chst
        ∧ y.pc = (if j.cont then j.contPc else 0))
    ∧ ((s.startTask u k).task k).st = .running ∧ ((s.startTask u k).task k).unit = some u

/-! ## Untimed words, chains and pages (spec 08, 15, 17, 18) -/

namespace Sys2Proof.Machine.Claims

/-- Kinds of untimed word that complete by their own moves (R200). -/
def movesItself : XKind → Prop
  | .cin | .cout _ | .cfill | .cslice _ | .csig _ | .txload _ | .txrun _ => True
  | _ => False

/-- The fault held at a word (R203), with the box access its address names (R401): the word does nothing more, and its
addition is not made. -/
def heldAt (w : XWord) (code sub det va : Nat) (t : State) (k : Nat) : Prop :=
  (t.xwords.get k).held = some { (default : Flt) with
      code := code, sub := sub, lane := lanC, cyc := w.issue, lab := w.lab, det := det, slot := (w.access va).1, bd := (w.access va).2 }
    ∧ (t.xwords.get k).done = true ∧ (t.xwords.get k).cstat = .dropped
    ∧ (code = 0x0D ∨ code = 0x14 → Master.core w.unit w.asid ∈ t.frozen)

/-- A chain that may be written: the register space answers for its function, and the write comes by a port on which the function is
not frozen (R406); `t` is the state with that settled, the free value of log 107 drawn where it was needed. -/
def door (s t : State) (fn ch : Nat) : Prop := s.doorShut fn = false ∧ s.doorFrozen fn = (t, false) ∧ ch ≤ 3

/-- The entry at HEAD of a chain has been read (R310): the state after the read and the entry. -/
def entryRead (s t : State) (fn ch : Nat) (e : ChainE) : Prop :=
  let c := s.chain fn ch
  let f := s.fns.get fn
  s.doorShut fn = false ∧ c.en = true ∧ c.head < c.tail ∧ f.winSet = true ∧ s.cpStalled f.winAs = false
    ∧ (s.cps.get 8).frozen = false ∧ (s.cps.get 8).dead = false
    ∧ (e.serial = true → c.cseq = c.head)
    ∧ ∃ r, s.readVa (cpCtx f.winAs) .rd false 2 (c.base + 64 * (c.head.toNat % 2 ^ c.log2n)) 64 = (t, .ok r) ∧ e = chainEntryOf r.data

/-- HEAD past the entry. -/
def headOn (s : State) (fn ch : Nat) (t : State) : State :=
  t.setChain fn ch { s.chain fn ch with head := (s.chain fn ch).head + 1 }

/-- A stall that a FAULTRESOLVE of a die names by its tag; Steppe's own are answered under die 0 (log 33). -/
def named (die : Nat) (tag : BitVec 16) (x : Stall) : Prop :=
  x.posted = true ∧ x.die % 8 = die ∧ x.tag % 65536 = tag.toNat

/-- An access that waits for a page. -/
def stallsAt (die asid page : Nat) (st : Stall) : Prop := st.die = die ∧ st.asid = asid ∧ st.page = page

end Sys2Proof.Machine.Claims

open Sys2Proof Sys2Proof.Machine Sys2Proof.Machine.Claims

/-- R200, R201, R203, R213, R214, R218: an untimed word completes once all it has to do is done, XSEND when its data has
arrived, RATOM with its answer; a fault found is held; an unanswered RATOM is retried and after three retries holds
REMOTE_INDETERMINATE; a task at its TEND then returns if nothing is left. What an atomic stores is R213's. When a retry
falls due is a free choice (log 4), whether the unanswered request was performed a free value (log 79). The slot and coordinates in the record of a held fault are log 41,
the model's choice. -/
def Obligations.UntimedWords : Prop :=
  (∀ (s t : State) (k : Nat), let w := s.xwords.get k
    (Tab.find s.xwords k = some w → w.done = false → movesItself w.kind → s.tryWord k = (t, .ok) →
      exec (.untimedWordComplete k) s = .next ((t.completeWord k).tendCheck w.unit))
    ∧ (∀ amt, Tab.find s.xwords k = some w → w.kind = .csig amt → w.done = false → s.xfrozen w = false → s.mayMove k w = true →
        w.cstat = .pending → exec (.untimedWordComplete k) s =
          .next ((({ s with xwords := s.xwords.put k { w with done := true, moved := [] } } : State).dropPages k).tendCheck w.unit))
    ∧ (∀ die ch n m, Tab.find s.xwords k = some w → w.kind = .xsend die ch n → w.done = false → w.src.size ≤ w.data.length →
        s.xin.find? (fun e => decide (e.word = k)) = some m → m.size ≤ m.data.length → s.mayArrive m = true →
        exec (.xsendDataArrive k) s = .next (({ s with
          xwords := s.xwords.put k { w with done := true }
          xin := s.xin.map fun e => if e.word = k then { e with full := true } else e } : State).tendCheck w.unit))
    ∧ (∀ code sub det va, s.tryWord k = (t, .flt code sub det va) →
        let v := t.xwords.get k
        exec (.heldFaultFound k) s = .next ((t.holdAt k code sub det va).tendCheck w.unit)
        ∧ (v.void = false → v.held = none → (t.task v.task).over = false → heldAt v code sub det va (t.holdAt k code sub det va) k))
    ∧ (∀ op wide tag v x n, w.kind = .ratom op wide tag v x n →
        (s.tryWord k = (t, .ok) → exec (.ratomAnswer k) s = .next ((t.completeWord k).tendCheck w.unit))
        ∧ (w.done = false → w.read ≠ 0 → s.mayMove k w = true → s.soOk k w 0 = true → s.xfrozen w = false →
          let s1 := { s with frees := s.frees + 1 }
          let did := s1.atomPerform k w
          let q := if Config.freeBit s.frees = true ∧ did.2 = .ok then did.1 else s1
          (n < 3 → exec (.ratomRetryTimeout k) s = .next { q with xwords := q.xwords.put k { q.xwords.get k with
            kind := .ratom op wide tag v x (n + 1), sent := if q.onWay k then 1 else 0 } })
          ∧ (3 ≤ n → exec (.ratomRetryTimeout k) s = .next ((q.holdAt k 0x0F 1 0 0).tendCheck w.unit)))))
  ∧ ∀ w old v x : Nat, (w = 32 ∨ w = 64) → old < 2 ^ w → v < 2 ^ w → x < 2 ^ w →
      let o := BitVec.ofNat w old
      let a := BitVec.ofNat w v
      atomNew .add w old v x = (o + a).toNat ∧ atomNew .swap w old v x = v ∧ atomNew .cas w old v x = (if old = v then x else old)
      ∧ atomNew .mins w old v x = (if o.toInt ≤ a.toInt then old else v)
      ∧ atomNew .maxs w old v x = (if a.toInt ≤ o.toInt then old else v)
      ∧ atomNew .and w old v x = (o &&& a).toNat ∧ atomNew .or w old v x = (o ||| a).toNat ∧ atomNew .xor w old v x = (o ^^^ a).toNat

/-- R309, R310, R311: a TAIL that falls, passes the ring or comes with EN clear is ignored and reported; CHRST with EN clear
zeroes TAIL, HEAD and CSEQ; the entry at HEAD is read and a NOP completes at once, while a record that passes its checks
puts, where the task table has room, one launch and its entry task under way; the end of a launch writes its status record
and completes its entry. A write to a frozen function's page is ignored (R406); by which port a write to the PF's page comes,
where it is frozen on one, is a free value (log 107, the model's choice). That a chain's ring lies in the window space of its
function is the model's choice (log 32). -/
def Obligations.ChainsAndLaunches : Prop :=
  ∀ (s t : State) (fn ch : Nat), let c := s.chain fn ch
    (door s t fn ch → ∀ v : BitVec 64,
      (c.en = false ∨ v.toNat < c.tail.toNat ∨ c.head.toNat + 2 ^ c.log2n < v.toNat →
        exec (.chainTailWrite fn ch v) s = .next (t.event 3 0 fn 0 ch))
      ∧ (c.en = true → c.tail.toNat ≤ v.toNat → v.toNat ≤ c.head.toNat + 2 ^ c.log2n →
        exec (.chainTailWrite fn ch v) s = .next (t.setChain fn ch { c with tail := v })))
    ∧ (door s t fn ch → c.en = false → exec (.chainReset fn ch) s =
        .next (t.setChain fn ch { c with tail := 0#64, head := 0#64, cseq := 0#64, fin := [] }))
    ∧ (door s t fn ch → c.en = true → exec (.chainReset fn ch) s = .next t)
    ∧ (ch ≤ 3 → s.doorFrozen fn = (t, true) → ∀ v, exec (.chainTailWrite fn ch v) s = .next t ∧ exec (.chainReset fn ch) s = .next t)
    ∧ (∀ p, fn ≠ 0 → s.vfPort fn = some p → s.doorFrozen fn = (s, decide (Master.fn fn p ∈ s.frozen)))
    ∧ ((Master.fn 0 0 ∈ s.frozen ↔ Master.fn 0 1 ∈ s.frozen) → s.doorFrozen 0 = (s, decide (Master.fn 0 0 ∈ s.frozen)))
    ∧ (∀ e, entryRead s t fn ch e → e.op = 0 → exec (.chainEntryStart fn ch) s =
        .next ((headOn s fn ch t).chainDone fn ch (c.head.toNat + 1) e.irq))
    ∧ (∀ e (t1 t2 : State) (h b : RdOk) (l : Launch), entryRead s t fn ch e → e.op = 1 → t.entryOk fn e = true →
        t.cpStalled e.asid = false → t.readVa (cpCtx e.asid) .rd false 3 e.record 64 = (t1, .ok h) →
        64 ≤ fld h.data 0x38 4 →
        t1.readVa (cpCtx e.asid) .rd false (pagesOf (fld h.data 0x38 4)) e.record (fld h.data 0x38 4) = (t2, .ok b) →
        launchOfBytes b.data (t2.asids.get e.asid).map (t2.asids.get e.asid).slots = some l → l.live = true → t2.timedOk e l = true →
        (if (l.levelOf 0).domain = 4 then 1 else 513) ≤ t2.freeEntries (t2.arbiterDie { l with dies := e.dies }) →
        ∃ q, exec (.chainEntryStart fn ch) s = .next q ∧ q.lnext = t2.lnext + 1 ∧ q.spawns = t2.spawns + 1
          ∧ (let j := q.task t2.spawns
             j.st = .spawned ∧ j.lid = t2.lnext ∧ j.index = l.first ∧ j.level = 0 ∧ j.parent = none ∧ j.prio = e.prio)
          ∧ (let m := q.launch t2.lnext
             m.asid = e.asid ∧ m.fn = fn ∧ m.tasks = l.tasks ∧ m.levels = l.levels ∧ m.roots = l.roots ∧ m.dies = e.dies
             ∧ m.prio = e.prio ∧ m.ceil = e.ceil ∧ m.top = t2.spawns))
    ∧ (∀ lid, let l := s.launch lid
        s.launchDone lid = true → s.cpStalled l.asid = false → s.recordsOut l.fn = true → (s.task l.top).how = .ok →
        s.writeStatus l.fn l.asid l.status l.user 0 0 0 0#8 = some t → exec (.launchComplete lid) s =
          .next (({ t.freeChildren [l.top] with launches := t.launches.put lid default } : State).chainDone
            l.fn l.chain l.entry l.irq))

/-- R319, R320, R345: one record is posted for a page that accesses wait for and they stall under its tag; REPLAY lets
them walk again, a TXRUN from its restart point (R350), and ABORT gives them up, a tag of nothing being ignored; a walk
that finds the page lets them go on, one that does not makes them wait for a new record; a read of a transduced page
answers its decoded bytes. Which of the waiting accesses the record names is log 33, and the slot and coordinates
in the record of a TRANSLATION are log 41: the model's choices. -/
def Obligations.PageFaults : Prop :=
  ∀ (s t : State) (die asid page : Nat) (tag : BitVec 16),
    (∀ st rest, s.stalls = [] → (s.wordWaits ++ s.counterWaits ++ s.schedWaits ++ s.cpWaits).filter
        (fun x => decide (x.die = die) && decide (x.asid = asid) && decide (x.page = page)) = st :: rest →
      let mark (x : Stall) : Stall := { x with posted := true, tag := s.tagNext % 65536, walked := true }
      exec (.pageFaultRecord die asid page) s = .next { s with
        stalls := (st :: rest).map mark, tagNext := s.tagNext + 1
        recQ := s.recQ ++ [⟨.fq, fqRecord { st with tag := s.tagNext % 65536 }⟩] })
    ∧ (s.pwr.ready = true → exec (.faultresolveReplay die tag) s = .next
        { s.rewound (s.stalls.filter fun x => x.tagged die tag) with
          stalls := s.stalls.map fun x => if x.posted = true ∧ x.die % 8 = die ∧ x.tag % 65536 = tag.toNat then { x with walked := false } else x })
    ∧ (∀ st n, s.pwr.ready = true → s.stalls = [st] → named die tag st → st.agent = .fst n → st.acc = 1 →
        ∃ q, exec (.faultresolveReplay die tag) s = .next q ∧ q.xwords.get st.word = (s.xwords.get st.word).rewind
          ∧ ∀ k, k ≠ st.word → q.xwords.get k = s.xwords.get k)
    ∧ (∀ st, s.pwr.ready = true → s.stalls = [st] → named die tag st →
        let s1 : State := { s with stalls := [] }
        (∀ u, st.agent = .clane u → exec (.faultresolveAbort die tag) s = .next
          ((s1.holdAt st.word 0x0C 1 (vaDet st.va) st.va).tendCheck (s.word st.word).unit))
        ∧ (∀ u p, st.agent = .seq u → (s.unit u).mode = .stall p → exec (.faultresolveAbort die tag) s = .next
          (s1.raise u { fltOf 0x0C 1 (s.unit u).vol.lblpc with
            det := vaDet st.va, slot := (s1.unitAccess u st.va).1, bd := (s1.unitAccess u st.va).2 } false)))
    ∧ (s.pwr.ready = true → (∀ x ∈ s.stalls, ¬ named die tag x) →
        exec (.faultresolveAbort die tag) s = .next s ∧ exec (.faultresolveReplay die tag) s = .next s)
    ∧ (∀ st, s.stalls = [st] → stallsAt die asid page st → st.posted = true → st.walked = false →
        (∀ p q, s.xlate st.ctx (page * 65536) = (t, .leaf p q) → t.stalls = s.stalls → (∀ u, st.agent ≠ .seq u) →
          exec (.pageWalkComplete die asid page) s = .next { t with stalls := [] })
        ∧ (∀ p q u m, s.xlate st.ctx (page * 65536) = (t, .leaf p q) → t.stalls = s.stalls → st.agent = .seq u →
          (t.unit u).mode = .stall m → exec (.pageWalkComplete die asid page) s =
            .next (({ t with stalls := [] } : State).modUnit u fun x => { x with mode := .code }))
        ∧ (∀ pg, s.xlate st.ctx (page * 65536) = (t, .absent pg) → t.stalls = s.stalls →
          exec (.pageWalkComplete die asid page) s = .next { t with stalls := [{ st with posted := false, walked := true }] }))
    ∧ (∀ va len p pg r, s.pageOf 8 asid va = some (p, pg) → p.tx = true → 0 < len → va + len ≤ pg + pageBytes p.size →
        s.readPage (s.viewCtx p asid ((va - pg) / 4096)) p pg va len false = (t, .ok r) →
        exec (.expandedViewRead asid va len) s = .next { t with answer := some (5, some r.data) })

/-! ## The Col, accesses from outside, the mailbox (spec 19, 20) -/

namespace Sys2Proof.Machine.Claims

/-- A transaction's master is frozen. -/
def masterFrozen (s : State) (t : Txn) : Prop := ∃ m, t.master = some m ∧ m ∈ s.frozen

/-- The words of a transaction may end their task's TEND. -/
def settled (s : State) (t : Txn) : State :=
  match t.word with
  | some k => s.tendCheck (s.xwords.get k).unit
  | none => s

/-- Command `c` of the mailbox is in progress on command processors that run, and its payload of `n` bytes is `b` (R377). -/
def command (s : State) (c n : Nat) (b : List Byte) : Prop :=
  s.pwr.ready = true ∧ s.mbox.busy = true ∧ s.mbox.cmd.toNat = c ∧ (s.cps.get 8).frozen = false ∧ (s.cps.get 8).dead = false
    ∧ s.mbox.len.toNat = n ∧ b = Mem.bytes s.hostMem s.mbox.addr.toNat n

/-- The answer of a command: RESULT and HANDLE are set, BUSY clears, vector 8 of the PF fires (R375, R377). -/
def answered (s : State) (result handle : Nat) : Host.Outcome State Fault Refusal :=
  .next ({ s with mbox := { s.mbox with busy := false, result := BitVec.ofNat 8 result, handle := BitVec.ofNat 16 handle } }.msi 0 8)

/-- The commands with the lengths of their payloads (R378); that of INSTALL_POLICY depends on its fields. -/
def commandLen : Instr → Option (Nat × Nat)
  | .createAs => some (0x01, 72)
  | .destroyAs => some (0x02, 8)
  | .setKey => some (0x04, 72)
  | .setDest => some (0x05, 40)
  | .removePolicy => some (0x07, 8)
  | .setWeight => some (0x09, 8)
  | .setWindow => some (0x0A, 16)
  | .setPeerasid => some (0x0B, 8)
  | .preempt => some (0x0C, 8)
  | .resume => some (0x0D, 8)
  | .timingGroup => some (0x0E, 8)
  | _ => none

/-- A payload of CREATE_AS that R313, R351 and R378 allow. -/
def createOk (s : State) (b : List Byte) : Prop :=
  fld b 0 2 ≤ 1023 ∧ fld b 2 2 ≤ 192 ∧ zeroAt b 4 4 = true ∧ fld b 8 8 < 2 ^ 52 ∧ fld b 8 8 % 131072 = 0
    ∧ s.physOk (fld b 8 8) 131072 = true ∧ zeroAt b 0x19 7 = true ∧ poltabOk (fld b 0x20 8) = true
    ∧ fld b 0x28 8 < 2 ^ 52 ∧ fld b 0x28 8 % 2 ^ 21 = 0 ∧ fld b 0x30 8 % 2 ^ 21 = 0
    ∧ fld b 0x38 8 < 2 ^ 52 ∧ fld b 0x38 8 % 65536 = 0 ∧ fld b 0x40 8 % 65536 = 0
    ∧ (∀ i, i < 8 → (fld b 0x18 1).testBit i = false → fld b (0x10 + i) 1 = 0)
    ∧ (fld b 2 2 = 0 ∨ ∃ i, i < 8 ∧ (fld b 0x18 1).testBit i = true ∧ fld b (0x10 + i) 1 = fld b 2 2)

end Sys2Proof.Machine.Claims

open Sys2Proof Sys2Proof.Machine Sys2Proof.Machine.Claims

/-- R359, R361, R364, R365, R376, R406: the transaction that came first to the Col acts when it passes; refused, it is
recorded and its master frozen, or the fault held at its word; one of a frozen master is dropped without a record. An
unlabelled transaction always passes. Accesses of a frozen function, or without a window, are answered by a completer
abort; that only the second posts event 5 is log 94, the model's choice. -/
def Obligations.ColAndOutsideAccess : Prop :=
  ∀ (s s1 : State) (t : Txn) (r : List Txn), s.colQ = t :: r →
    let s0 := { s with colQ := r }
    (masterFrozen s t → exec .colDecision s = .next (s0.dropTxn t))
    ∧ (¬ masterFrozen s t → s0.judge t = (s1, none) → exec .colDecision s = .next (settled (s1.passTxn t) t))
    ∧ (∀ why k, ¬ masterFrozen s t → s0.judge t = (s1, some why) → t.word = some k → exec .colDecision s =
        .next (((s1.colRecord t why).holdAt k 0x14 why 0 (s1.vaOf k t.port t.addr)).tendCheck (s1.xwords.get k).unit))
    ∧ (∀ why m, ¬ masterFrozen s t → s0.judge t = (s1, some why) → t.word = none → t.master = some m → exec .colDecision s =
        .next (((s1.colRecord t why).freeze m).dropTxn t))
    ∧ (t.lab = 0#8 → (s0.judge t).2 = none)
    ∧ ∀ (fn port : Nat) (a : HostAcc) (asid va len : Nat), 0 < accLen a → s.pwr.ready = true → port < 2 →
        (fn = 0 ∨ s.vfPort fn = some port → accOff a + accLen a ≤ 2 ^ 36 →
          ((s.fns.get fn).flr = true ∨ Master.fn fn port ∈ s.frozen →
            exec (.bar2Access fn port a) s = .next { s with answer := some (1, none) })
          ∧ ((s.fns.get fn).flr = false → Master.fn fn port ∉ s.frozen → (s.fns.get fn).winSet = false →
            exec (.bar2Access fn port a) s = .next { s.event 5 port fn 0 (accOff a) with answer := some (1, none) })
          ∧ (∀ o bs t, a = .wr o bs → (s.fns.get fn).flr = false → Master.fn fn port ∉ s.frozen → (s.fns.get fn).winSet = true →
            (s.asids.get (s.fns.get fn).winAs).live = true →
            s.writeVa ⟨.hostp port, 8, (s.fns.get fn).winAs, 0xFFFFFFFF, 0, false, none, false⟩ .wr 0#8 (pagesOf bs.length)
              ((s.fns.get fn).winBase + o) bs = (t, none) → exec (.bar2Access fn port a) s = .next t))
        ∧ (accOff a + accLen a ≤ 8 * dieBytes → exec (.cxlMemAccess port a) s = .next (s.hostAccess 0 port (accOff a) a))
        ∧ (0 < len → len ≤ 4096 → (s.asids.get asid).live = true → Master.debug ∈ s.frozen →
            exec (.debugRead asid (.va va) len) s = .next { s with answer := some (3, none) })
        ∧ (∀ g, 0 < len → len ≤ 4096 → (s.asids.get asid).live = true → Master.debug ∉ s.frozen →
            s.readVa ⟨.hostp 0, 8, asid, 0xFFFFFFFF, 0, false, none, false⟩ .rd false (pagesOf len) va len = (s1, .ok g) →
            ∃ q, exec (.debugRead asid (.va va) len) s = .next { s1 with colQ := s1.colQ ++ [q] }
              ∧ q.kind = 3 ∧ q.lab = g.lab ∧ q.layout = g.layout ∧ q.act = .ans g.data ∧ q.master = some .debug)
        ∧ (∀ task slot off l lay bs, 0 < len → len ≤ 4096 → (s.asids.get asid).live = true → Master.debug ∉ s.frozen →
            s.boxBytes asid task slot off len = some (l, lay, bs) →
            ∃ q, exec (.debugRead asid (.box task slot off) len) s = .next { s with colQ := s.colQ ++ [q] }
              ∧ q.kind = 3 ∧ q.lab = l ∧ q.layout = lay ∧ q.act = .ans bs ∧ q.master = some .debug)

/-- R302, R308, R313, R323, R353, R360, R363, R377 to R381, R385: each command in progress reads its payload, checks it
and answers with its RESULT: 0xFE for a payload of another length, 0xFF for an unknown command, and 0 with its effect.
CONNECT answers at acceptance (log 46, the model's choice). -/
def Obligations.MailboxCommands : Prop :=
  ∀ (s : State) (b : List Byte),
    (∀ i c n m, commandLen i = some (c, n) → m ≠ n → command s c m b → exec i s = answered s 0xFE 0)
    ∧ (∀ c m, c = 0 ∨ 14 < c → command s c m b → exec .mailboxUnknownCommand s = answered s 0xFF 0)
    ∧ (command s 0x01 72 b → createOk s b →
        ((s.asids.get (fld b 0 2)).live = true → exec .createAs s = answered s 1 0)
        ∧ ((s.asids.get (fld b 0 2)).live = false → ∃ a : As, exec .createAs s =
            answered { s with asids := s.asids.put (fld b 0 2) a, frees := s.frees + 1 } 0 0
            ∧ a.live = true ∧ a.fn = fld b 2 2 ∧ a.l0 = fld b 8 8 ∧ a.map = (List.range 8).map (fun i => fld b (0x10 + i) 1)
            ∧ a.slots.toNat = fld b 0x18 1 ∧ a.poltab.toNat = fld b 0x20 8 ∧ a.arena = fld b 0x28 8 ∧ a.arenaN = fld b 0x30 8))
    ∧ (command s 0x02 8 b → fld b 0 2 ≤ 1023 → zeroAt b 2 6 = true → (s.asids.get (fld b 0 2)).live = true →
        s.asBusy (fld b 0 2) = true → exec .destroyAs s = answered s 1 0)
    ∧ (command s 0x02 8 b → fld b 0 2 ≤ 1023 → zeroAt b 2 6 = true → (s.asids.get (fld b 0 2)).live = true →
        s.asBusy (fld b 0 2) = false → ∃ t, exec .destroyAs s = answered t 0 0 ∧ t.asids = s.asids.put (fld b 0 2) default
          ∧ (∀ e ∈ t.tlb, e.2.1 ≠ fld b 0 2) ∧ (∀ e ∈ t.utlb, e.2.1 ≠ fld b 0 2) ∧ t.dev = s.dev ∧ t.tasks = s.tasks)
    ∧ (command s 0x03 24 b → s.asOnWay (fld b 0 2) none = false → fld b 0 2 ≤ 1023 → fld b 2 1 = 1 → zeroAt b 3 5 = true →
        fld b 8 8 = 0 → fld b 16 8 = 0 →
        exec .invalidate s = answered { s with
          tlb := s.tlb.filter (fun e => decide (e.2.1 ≠ fld b 0 2))
          utlb := s.utlb.filter (fun e => decide (e.2.1 ≠ fld b 0 2)) } 0 0)
    ∧ (command s 0x04 72 b → fld b 1 1 = 0 → zeroAt b 2 6 = true → zeroAt b 0x41 7 = true → exec .setKey s = answered { s with
        policies := s.policies.filter fun e => !e.2.tenants.contains (fld b 0 1)
        keys := s.keys.put (fld b 0 1) ((b.drop 8).take 57) } 0 0)
    ∧ (command s 0x05 40 b → fld b 0 2 ≤ 4095 → zeroAt b 2 6 = true → ∀ d, destOf ((b.drop 8).take 32) false = some d →
        ¬ (∀ x ∈ (b.drop 8).take 32, x = 0#8) → exec .setDest s = answered { s with dests := s.dests.put (fld b 0 2) (some d) } 0 0)
    ∧ (∀ p n, command s 0x06 n b → 592 ≤ n → n = 592 + 114 * fld b 6 1 → policyOf b = some p →
        ((∃ x ∈ p.tenants, Tab.find s.keys x = none) → exec .installPolicy s = answered s 2 0)
        ∧ (∀ h, (∀ x ∈ p.tenants, Tab.find s.keys x ≠ none) →
          s.devtime.toNat ≤ p.expiry → (∀ e ∈ s.policies, ¬ (e.2.tenants = p.tenants ∧ e.2.nonce = p.nonce)) →
          (List.range 1024).find? (fun h => !(s.policies.get h).live) = some h →
          exec .installPolicy s = if p.tenants.zipIdx.all (fun e => ed448Verify ((Tab.find s.keys e.1).getD [])
              policyContext (b.take 0x250) ((b.drop (0x250 + 114 * e.2)).take 114)) = true then
            answered { s with policies := s.policies.put h p } 0 h else answered s 3 0))
    ∧ (command s 0x07 8 b → zeroAt b 2 6 = true → fld b 0 2 ≤ 1023 → (s.policies.get (fld b 0 2)).live = true →
        exec .removePolicy s = answered { s with policies := s.policies.drop (fld b 0 2) } 0 0)
    ∧ (command s 0x08 64 b → s.retune = none →
        (∀ i, i < 8 → fld b (9 * i) 1 = 0) →
        (∀ i, i < 8 → ((List.range 8).map fun j => fld b (8 * i + j) 1).sum ≤ 224
          ∧ ((List.range 8).map fun j => fld b (8 * j + i) 1).sum ≤ 224) →
        (∀ i j, i < 8 → j < 8 → i ≠ j → (s.pairBusy i j = true → fld b (8 * i + j) 1 ≠ 0)
          ∧ (s.pairTimed i j = true → 8 ≤ fld b (8 * i + j) 1)) → 
        let ch := (List.range 64).filterMap fun i => if fld b i 1 = s.conn.get i then none else some (i, fld b i 1)
        exec .connect s = answered { s with retune := if ch.isEmpty then none else some ch } 0 0)
    ∧ (∀ ch, s.retune = some ch → s.tuned = false → (∀ e ∈ ch, s.circuitEmpty (e.1 / 8) (e.1 % 8) = true) →
        exec .circuitRetuneComplete s = .next { s with conn := ch.foldl (fun c e => c.put e.1 e.2) s.conn, tuned := true })
    ∧ (command s 0x09 8 b → fld b 0 2 ≤ 192 → zeroAt b 4 4 = true → exec .setWeight s =
        answered { s with fns := s.fns.upd (fld b 0 2) fun f => { f with weight := some (fld b 2 2) } } 0 0)
    ∧ (command s 0x0A 16 b → fld b 0 2 ≤ 192 → zeroAt b 4 4 = true → fld b 8 8 < 2 ^ 52 → fld b 8 8 % 65536 = 0 →
        (s.granted (fld b 2 2) (fld b 0 2) = false → exec .setWindow s = answered s 1 0)
        ∧ (s.granted (fld b 2 2) (fld b 0 2) = true → exec .setWindow s = answered { s with
          fns := s.fns.upd (fld b 0 2) fun f => { f with winSet := true, winAs := fld b 2 2, winBase := fld b 8 8 } } 0 0))
    ∧ (command s 0x0B 8 b → fld b 0 1 ≤ 31 → zeroAt b 1 1 = true → zeroAt b 4 4 = true → fld b 2 2 ≤ 1023 ∨ fld b 2 2 = 0xFFFF →
        exec .setPeerasid s = answered { s with peers := s.peers.upd (fld b 0 1) fun p => { p with
          asid := if fld b 2 2 = 0xFFFF then none else some (fld b 2 2) } } 0 0)
    ∧ (command s 0x0C 8 b → fld b 0 2 ≤ 1023 → zeroAt b 2 6 = true → (s.asids.get (fld b 0 2)).live = true →
        exec .preempt s = answered (s.preemptAs (fld b 0 2)) 0 0)
    ∧ (command s 0x0D 8 b → fld b 0 2 ≤ 1023 → zeroAt b 2 6 = true → (s.asids.get (fld b 0 2)).live = true →
        exec .resume s = answered { s with asids := s.asids.upd (fld b 0 2) fun a => { a with off := false, pre := none } } 0 0)
    ∧ (command s 0x0E 8 b → fld b 0 1 ≤ 7 → zeroAt b 2 6 = true → (∀ d, d < 8 → (fld b 1 1).testBit d = true → s.dieLive d = true) →
        (∀ d h, d < 8 → (fld b 1 1).testBit d = true → (s.dies.get d).group = some h → h = fld b 0 1) → s.groupBusy (fld b 0 1) = false →
        ∃ t, exec .timingGroup s = answered t 0 0 ∧ t.tgroups = s.tgroups.put (fld b 0 1) (BitVec.ofNat 8 (fld b 1 1))
          ∧ ∀ d, d < 8 → (fld b 1 1).testBit d = true → (t.dies.get d).group = some (fld b 0 1))

/-! ## Registers, rings, thaws, peer ports and function-level reset (spec 20, 22) -/

namespace Sys2Proof.Machine.Claims

/-- Rows that thaw a master, and the master (R407). -/
def thaws : Instr → Option Master
  | .thawCoreContext c a => some (.core c a)
  | .thawHostFunction f p => some (.fn f p)
  | .thawDebugSession => some .debug
  | .thawPeerPort p => some (.peer p)
  | .thawSequencerContext q a => some (.seq q a)
  | _ => none

/-- A port is quiet for a step of its rate. -/
def quietPort (s : State) (port : Nat) : Prop :=
  port < 32 ∧ (s.peers.get port).up = true ∧ (s.peers.get port).naked = false

/-- A peer port with its link failed: down, nothing waits in it. -/
def downed (p : Peer) : Peer := { p with up := false, buf := [], reqs := [], naked := false, nak := false }

end Sys2Proof.Machine.Claims

open Sys2Proof Sys2Proof.Machine Sys2Proof.Machine.Claims

/-- R6, R371, R372, R374, R377, R407, R408, R424: a thaw takes one master off the frozen ones, or ends a core's
quarantine; a VFTAB write moves a VF unless it is enabled on the other port; a HEAD above TAIL is ignored; the oldest
record is written at TAIL of its ring in host memory and its vector fires, or on a full ring sets OVF, while the fault queue's
record waits; a frozen function's doorbell writes are ignored; a write of a register that has a row of its own does what the
row does; MBOXCMD sets BUSY once, and an INVALIDATE drops its translations from there on (R323). Until READY every write is ignored
(R424). The model's choices: a ring that is not enabled takes no record (log 52), and which port a write to a frozen PF's page comes
by (log 107). -/
def Obligations.RegistersAndRings : Prop :=
  ∀ (s : State),
    (∀ i m, thaws i = some m → s.pwr.ready = true → exec i s = .next { s with frozen := s.frozen.filter fun x => decide (x ≠ m) })
    ∧ (∀ i m, thaws i = some m → s.pwr.ready = false → exec i s = .next s)
    ∧ (∀ c, c < 384 → s.pwr.ready = true → exec (.thawQuarantinedCore c) s = .next (s.modUnit c fun x => { x with quar := false }))
    ∧ (∀ (n : Nat) (v : BitVec 64), 1 ≤ n → n ≤ 192 →
        let f := s.fns.get n
        let moves := v.getLsbD 0 = true ∧ f.vftab.getLsbD 0 = true ∧ f.vftab.getLsbD 1 ≠ v.getLsbD 1
        (s.pwr.ready = false ∨ moves → exec (.vftabWrite n v) s = .next s)
        ∧ (s.pwr.ready = true → ¬ moves → exec (.vftabWrite n v) s =
          .next { s with fns := s.fns.put n { f with vftab := v.setWidth 2 } }))
    ∧ (∀ (r : RingId) (v : BitVec 64) (t : State), s.pwr.ready = true →
        (match r with | .fault fn => s.fnLive fn = true ∧ s.doorFrozen fn = (t, false) | _ => t = s) →
        ((s.ring r).tail.toNat < v.toNat → exec (.ringHeadWrite r v) s = .next t)
        ∧ (v.toNat ≤ (s.ring r).tail.toNat → exec (.ringHeadWrite r v) s = .next (t.setRing r { s.ring r with head := v })))
    ∧ (∀ fn (v : BitVec 64) (t : State), s.doorFrozen fn = (t, true) → exec (.ringHeadWrite (.fault fn) v) s = .next t)
    ∧ (∀ r : Rec, s.recQ = [r] → r.ring = .fq → (s.ring .fq).hasSpace = false → exec .ringRecordWrite s = .next s)
    ∧ (∀ (r : Rec) (q : List Rec), s.recQ = r :: q → r.ring ≠ .fq →
        let x := s.ring r.ring
        let s1 := { s with recQ := q }
        let room := x.en = true ∧ (x.tail - x.head).toNat < 2 ^ x.log2n
        let place := x.base + r.data.length * (x.tail.toNat % 2 ^ x.log2n)
        let s2 := { s1.dropExpired with hostMem := Mem.write s.hostMem place r.data }
        (¬ room → exec .ringRecordWrite s = .next (s1.setRing r.ring { x with ovf := true }))
        ∧ (room → exec .ringRecordWrite s = .next ((s2.setRing r.ring { x with tail := x.tail + 1 }).msi
            (ringVec r.ring).1 (ringVec r.ring).2)))
    ∧ (∀ v : BitVec 64, s.pwr.ready = true →
        exec (.registerWrite 0x10000 v) s = .next { s with mbox := { s.mbox with addr := v } }
        ∧ exec (.registerWrite 0x10008 v) s = .next { s with mbox := { s.mbox with len := v } }
        ∧ (s.mbox.busy = false →
          let t := { s with mbox := { s.mbox with cmd := v.setWidth 8, busy := true } }
          (v.setWidth 8 ≠ 3#8 → exec (.registerWrite 0x10010 v) s = .next t)
          ∧ (∀ asid r, v.setWidth 8 = 3#8 →
            invalidation (Mem.bytes s.hostMem s.mbox.addr.toNat s.mbox.len.toNat) = some (asid, r) →
            exec (.registerWrite 0x10010 v) s = .next (t.tlbDrop asid r)))
        ∧ (s.mbox.busy = true → exec (.registerWrite 0x10010 v) s = .next (s.event 6 0 0 0 0)))
    ∧ (s.pwr.ready = true → ∀ (n : Nat) (v : BitVec 64),
        (∀ i, i < 4 → n = 0x1020 + 8 * i → exec (.registerWrite n v) s = exec (.enWrite i v) s)
        ∧ (n = 0x70000 → v.toNat % 8 = 4 → exec (.registerWrite n v) s = exec (.thawPeerPort (v.toNat / 8 % 8192)) s)
        ∧ (n = 0x80080 → exec (.registerWrite n v) s = exec (.modpwrWrite v) s)
        ∧ (∀ ch, ch < 4 → n = 0x60000 + 0x100 * ch + 0x10 → exec (.registerWrite n v) s = exec (.chainTailWrite 0 ch v) s)
        ∧ (n = 0x60410 → exec (.registerWrite n v) s = exec (.ringHeadWrite (.fault 0) v) s))
    ∧ (∀ off v, s.pwr.ready = false → exec (.registerWrite off v) s = .next s)

/-- R383, R384, R385, R386, R411, R412: good flits are delivered in sequence order, once each, a bad one is NAKed; a NAK
makes the port replay; the oldest request is served in the port's address space or aborted; a failed link is down and
its flits are lost; a rate step changes the rate with event 7 and below 50 Gb/s the link fails; a function-level reset
of a VF is event 8 and takes what belongs to it, one of the PF zeroes its doorbell page. Elapsed times are judged by
frame ticks (log 8, the model's choice). Whether a flit comes in whole is an input (log 93). -/
def Obligations.PeersAndFunctionReset : Prop :=
  ∀ (s : State) (port : Nat), let p := s.peers.get port
    (∀ sq rq, port < 32 → p.up = true → s.feature 8 = true → s.pwr.ready = true →
      exec (.peerFlitReceive port sq false rq) s = .next { s with peers := s.peers.put port { p with nak := true } }
      ∧ (sq = p.rxseq → exec (.peerFlitReceive port sq true rq) s = .next { s with peers := s.peers.put port { p with
          rxseq := p.rxseq + 1, nak := false, reqs := p.reqs ++ [rq] } })
      ∧ (sq ≠ p.rxseq → exec (.peerFlitReceive port sq true rq) s = .next s))
    ∧ (∀ f r, p.buf = f :: r → p.up = true → exec (.peerNakReplay port f.sq) s =
        .next { s with peers := s.peers.put port { p with naked := true, retry := p.retry + 1 } })
    ∧ (∀ va len b r, p.reqs = .rd va len b :: r →
        let s1 := { s with peers := s.peers.put port { p with reqs := r } }
        (Master.peer port ∈ s.frozen → exec (.peerRequest port) s = .next { s1 with answer := some (4, none) })
        ∧ (Master.peer port ∉ s.frozen → p.asid = none →
          exec (.peerRequest port) s = .next { s1.event 5 port 0 0 va with answer := some (4, none) })
        ∧ (∀ asid t g, Master.peer port ∉ s.frozen → p.asid = some asid →
          s1.readVa ⟨.peerp port, 8, asid, 0xFFFFFFFF, 0, false, none, false⟩ .rd false (pagesOf len) va len = (t, .ok g) →
          ∃ q, exec (.peerRequest port) s = .next { t with colQ := t.colQ ++ [q] } ∧ q.kind = 2 ∧ q.port = port ∧ q.addr = b
            ∧ q.lab = g.lab ∧ q.act = .ans g.data ∧ q.master = some (.peer port)))
    ∧ (port < 32 → p.up = true → p.buf = [] → exec (.peerLinkFail port) s =
        .next { s with peers := s.peers.put port (downed p) })
    ∧ (quietPort s port → (∀ f d, p.steps = some (f, d) → passed s f 100000) →
        (p.rate = 200 ∨ p.rate = 150 ∨ p.rate = 100 → exec (.peerRateStepDown port) s = .next
          (({ s with peers := s.peers.upd port fun p => { p with rate := p.rate - 50, steps := some (s.frame.toNat, true) } } : State).event
            7 port 0 0 (p.rate - 50))))
    ∧ (port < 32 → p.up = true → p.rate = 50 → p.buf = [] →
        exec (.peerRateStepDown port) s = .next { s with peers := s.peers.put port (downed p) })
    ∧ (quietPort s port → (∀ f d, p.steps = some (f, d) → passed s f (if d then 10000000 else 100000)) → p.rate = 50 ∨ p.rate = 100 ∨ p.rate = 150 →
        exec (.peerRateStepUp port) s = .next
          (({ s with peers := s.peers.upd port fun p => { p with rate := p.rate + 50, steps := some (s.frame.toNat, false) } } : State).event 7 port 0 0 (p.rate + 50)))
    ∧ (∀ fn, 1 ≤ fn → s.fnOn fn port = true → ∃ t, exec (.flr fn port) s = .next t
        ∧ (∃ q, t.recQ = q ++ [⟨.ev, leBytes 8 s.devtime.toNat ++ leBytes 1 8 ++ leBytes 1 0 ++ leBytes 2 fn ++ leBytes 2 0
            ++ leBytes 2 0 ++ leBytes 8 0 ++ leBytes 8 0⟩])
        ∧ (∀ x ∈ t.colQ, x.fn ≠ fn) ∧ (∀ ch, (t.fns.get fn).chains.get ch = default)
        ∧ (t.fns.get fn).winSet = false)
    ∧ (s.fnOn 0 port = true → ∃ t, exec (.flr 0 port) s = .next t ∧ ∀ ch, (t.fns.get 0).chains.get ch = default)

/-! ## Ticks, power, errors and bring-up (spec 20, 21, 22, 23) -/

namespace Sys2Proof.Machine.Claims

/-- One die changed. -/
def withDie (s : State) (d : Nat) (f : Die → Die) : State := { s with dies := s.dies.upd d f }

/-- An upset or a transient error of a read, which a write back ends; damaged cells stay. -/
def passes (c : Cell) : Bool := match c.kind with | .stuck _ => false | _ => true

end Sys2Proof.Machine.Claims

open Sys2Proof Sys2Proof.Machine Sys2Proof.Machine.Claims

/-- R256, R257, R382, R414 to R424: DEVTIME rises by one a microsecond, and with every fourth a frame tick raises FRAME by
one; PCTL, MODPWR and LTOL take their values; a drained die moves one P-state nearer to its request; an idle die enters the
deepest C-state it may, or leaves a deeper one; a task that is eligible for it, a mailbox command that names it and an access
to its memory in C3 wake it; a checkpoint saves one block with its header at a time, sealed, and ends with DONE, or FAIL
after a bad tag; features are enabled within CAP while no launch runs, CORE always; a package reset begins stage 1, and
bring-up goes on stage by stage to READY, or to FAIL with its cause. The model's choices: that the tick is the fourth
microsecond of a period and that a microsecond waits for the starts due in it (log 8); what swallow counts and power do
(log 12); what a command names, and that a wake and the access that wakes are one step (log 44); the package key (log 11);
when a REALIGN is near (log 36); the checkpoint's padding and order (log 37); what becomes of links when EN0 is written (log 43); that a
package reset keeps the memories (log 49); which dies fail to train (log 95). -/
def Obligations.TicksPowerAndReset : Prop :=
  ∀ (s : State) (die : Nat), s.pwr.ready = true →
    (s.devtime.toNat % 4 ≠ 3 → (∀ e ∈ s.tasks, s.startDue e.1 = false) → s.micro = some { s with devtime := s.devtime + 1 })
    ∧ (s.devtime.toNat % 4 = 3 → s.micro = none)
    ∧ (s.devtime.toNat % 4 = 3 → (∀ e ∈ s.tasks, s.startDue e.1 = false) → (∀ e ∈ s.units, e.2.mode ≠ .sync) →
      ∃ t, exec .frameTick s = .next t ∧ t.frame = s.frame + 1 ∧ t.devtime = s.devtime + 1 ∧ t.dev = s.dev
        ∧ t.units = s.units ∧ t.tasks = s.countOff.tasks)
    ∧ (s.devtime.toNat % 4 = 3 → (∀ e ∈ s.tasks, s.startDue e.1 = false) →
      ∃ t, exec .frameTick s = .next t ∧ t.frame = s.frame + 1 ∧ t.devtime = s.devtime + 1)
    ∧ (die < 8 →
        (∀ v : BitVec 3, 4 < v.toNat → exec (.pctlPreqWrite die v) s = .next s)
        ∧ (∀ v : BitVec 3, v.toNat ≤ 4 → exec (.pctlPreqWrite die v) s =
            .next ((withDie s die fun x => { x with preq := v.toNat }).beginDrain die))
        ∧ (∀ v, exec (.pctlC3okWrite die v) s = .next (withDie s die fun x => { x with c3ok := v }))
        ∧ (∀ v, exec (.pctlShrinkWrite die v) s = .next (withDie s die fun x => { x with shrink := v }))
        ∧ (∀ p, (s.dies.get die).drain = true → (s.dies.get die).group = none → p = (s.dies.get die).preq → p ≤ 4 →
            (s.dies.get die).pcur ≠ p → (∀ e ∈ s.units, dieOf e.1 = die → e.2.mode ≠ .seg) → s.crossInFlight [die] = false →
            exec (.pstateChange die) s = .next (withDie s die fun x => { x with
              pcur := if x.pcur < p then x.pcur + 1 else x.pcur - 1 }))
        ∧ (∀ c, c = s.deepest die → s.dieLive die = true → s.dieIdle die = true → (s.dies.get die).ccur ≠ c →
            exec (.cstateEntry die) s = .next (if c < 2 then withDie s die fun x => { x with ccur := c }
              else (withDie s die fun x => { x with ccur := c }).loseStores die))
        ∧ (∀ k, k ∈ s.tasks.map (·.1) → (s.dies.get die).ccur ≠ 0 → (s.task k).st = .spawned → s.pickDie k = die →
            (s.asids.get (s.launch (s.task k).lid).asid).off = false →
            exec (.dieWake die) s = .next (withDie s die fun x => { x with ccur := 0 }))
        ∧ ((s.dies.get die).ccur ≠ 0 → s.mboxNames die = true →
            exec (.dieWake die) s = .next (withDie s die fun x => { x with ccur := 0 }))
        ∧ (∀ ctx pr lo hi bs mask sector, sector / 2 ^ 37 = die → (s.dies.get die).ccur = 3 →
            let w := withDie s die fun x => { x with ccur := 0 }
            s.readSector ctx pr sector lo hi = w.readSector ctx pr sector lo hi
            ∧ s.writeSector ctx pr sector lo bs mask = w.writeSector ctx pr sector lo bs mask))
    ∧ (∀ v : BitVec 64, exec (.modpwrWrite v) s = .next { s with pwr := { s.pwr with modpwr := v.setWidth 16 } })
    ∧ (∀ fn (v : BitVec 64), fn ≤ 192 → exec (.ltolWrite fn v) s =
        .next { s with fns := s.fns.upd fn fun f => { f with ltol := v.setWidth 32 } })
    ∧ (∀ d i, s.ckWhere = some (d, i) →
        let addr := d * 2 ^ 37 + 65536 * i
        (s.pwr.ckKind = 1 → s.ckQuiet = true → ∃ t head c g, exec .checkpointSave s = .next t ∧ t.pwr.ckNext = s.pwr.ckNext + 1
          ∧ t.hostMem = Mem.write s.hostMem (s.ckPlace d i) (head ++ c ++ g)
          ∧ (c, g) = gcmSeal packageKey (leBytes 4 s.pwr.serial.toNat ++ leBytes 8 addr) head (s.ckBlock addr)
          ∧ head.length = 144 ∧ head.take 8 = leBytes 8 addr
          ∧ (s.cells = [] → s.ckBlock addr = Mem.bytes s.dev addr 65536 ∧ t.dev = s.dev))
        ∧ (s.pwr.ckKind = 2 → ∃ t, exec .checkpointRestore s = .next t ∧
            let r := Mem.bytes s.hostMem (s.ckPlace d i) 65696
            match gcmOpen packageKey (leBytes 4 s.pwr.serial.toNat ++ leBytes 8 addr) (r.take 144) ((r.drop 144).take 65536) (r.drop 65680) with
            | none => t = { s with pwr := { s.pwr with ckKind := 3 } }
            | some _ => t.pwr = { s.pwr with ckNext := s.pwr.ckNext + 1 } ∧ t.hostMem = s.hostMem ∧ t.units = s.units))
    ∧ (s.pwr.ckKind = 3 → exec .checkpointComplete s = .next { s with pwr := { s.pwr with
        ckKind := 0, ckNext := 0, ckBusy := false, ckFail := true } })
    ∧ (s.pwr.ckKind = 1 ∨ s.pwr.ckKind = 2 → s.ckWhere = none → exec .checkpointComplete s = .next { s with pwr := { s.pwr with
        ckKind := 0, ckNext := 0, ckBusy := false, ckDone := true } })
    ∧ (∀ v : BitVec 64, (∀ e ∈ s.launches, e.2.live = false) →
        (v.getLsbD 8 = s.pwr.en0.getLsbD 8 → exec (.enWrite 0 v) s =
          .next { s with pwr := { s.pwr with en0 := (v &&& 0x3FF#64) ||| 1#64 } })
        ∧ exec (.enWrite 1 v) s = .next { s with pwr := { s.pwr with en1 := v &&& s.liveMask.setWidth 64 } })
    ∧ (∀ v i, (∃ e ∈ s.launches, e.2.live = true) → exec (.enWrite i v) s = .next s)
    ∧ (∃ t, exec .packageReset s = .next t ∧ t.dev = s.dev ∧ t.hostMem = s.hostMem ∧ t.tasks = [] ∧ t.units = State.reset.units
        ∧ t.frozen = [] ∧ t.pwr.ready = false ∧ t.pwr.fail = false ∧ t.pwr.stage = 1 ∧ t.pwr.fwOk = s.pwr.fwOk
        ∧ t.pwr.fuseOk = s.pwr.fuseOk ∧ t.pwr.liveF = s.pwr.liveF ∧ t.pwr.en0 = 0x3FF#64)
    ∧ ∀ b : State, b.pwr.ready = false → b.pwr.fail = false →
        let at_ (n : Nat) (t : State) : Prop := b.boot = some t ∧ t.pwr = { b.pwr with stage := n }
        let stop (e : Nat) : Prop := b.boot = some { b with pwr := { b.pwr with fail := true, error := e } }
        (b.pwr.stage = 1 → at_ 2 { b with pwr := { b.pwr with stage := 2 } })
        ∧ (b.pwr.stage = 2 → if b.pwr.fwOk = true then at_ 3 { b with pwr := { b.pwr with stage := 3 } } else stop 2)
        ∧ (b.pwr.stage = 3 → if b.pwr.fuseOk = true then
            ∃ t, at_ 4 t ∧ ∀ d, d < 8 → (t.dieLive d = true ↔ b.pwr.liveF.getLsbD d = true) ∧ (t.dies.get d).pcur = 0 ∧ (t.dies.get d).ccur = 0
          else stop 3)
        ∧ (b.pwr.stage = 4 → ∃ t, at_ 5 t ∧ ∀ d, t.dieLive d = true → b.dieLive d = true)
        ∧ (b.pwr.stage = 5 → ∃ t, at_ 6 t ∧ t.conn = connReset ∧ ∀ d, t.dieLive d = true → b.dieLive d = true)
        ∧ (b.pwr.stage = 6 → ∃ t, at_ 7 t ∧ ∀ u, (t.cps.get u).dead = ((b.cps.get u).bad || (b.cps.get u).dead))
        ∧ (b.pwr.stage = 7 → b.boot = some { b with pwr := { b.pwr with ready := true, en1 := b.liveMask.setWidth 64 } })

/-- R398, R399, R409, R410: the patrol scrub logs the errors of a sector, writes corrected data back and reaches nothing
else; a corrected SRAM error is logged and nothing else, an uncorrectable one of the Col's store loses its entry; a
lockstep mismatch freezes a pair and ends a mailbox command with 0xFD, and the restart ends the freeze unless the image
is bad. The code under which a sector is examined, and what more wrong bits than a code detects do, are free values
(logs 17, 35). -/
def Obligations.ErrorsAndRestarts : Prop :=
  ∀ (s : State), s.pwr.ready = true →
    (∀ sector, sector % 64 = 0 → s.physOk sector 64 = true → (s.dies.get (sector / 2 ^ 37)).ccur ≠ 3 →
      let l := (s.frameProt sector).code
      let e := examine l sector (s.flips sector) (s.frameProt sector).lines
      ∃ t, exec (.patrolScrub sector) s = .next t ∧ t.units = s.units ∧ t.hostMem = s.hostMem ∧ t.lostsev = s.lostsev
      ∧ (∀ a, a < sector ∨ sector + 64 ≤ a → Tab.get t.dev a = Tab.get s.dev a)
      ∧ (e.corr = 0 ∨ e.wrong = [] → t.dev = s.dev)
      ∧ (e.corr = 0 → t.cells = (s.spend sector).cells)
      ∧ (e.corr ≠ 0 → e.sound = true → t.cells = s.cells.filter fun c => decide (c.sector ≠ sector) || !passes c)
      ∧ t.recQ.length = s.recQ.length + (if e.corr = 0 then 0 else 1)
          + (if max (s.lostsev.get (sector / 64)) (e.sev l e.grps) = 0 then 0 else 1))
    ∧ (∀ x unit off, exec (.sramError x unit off false) s = .next (s.sramLog (sramCtx s x unit) 0 0 off 1))
    ∧ (∀ unit off, off < 32 * 4096 → exec (.sramError .colStore unit off true) s =
        .next { s.sramLog (sramCtx s .colStore unit) 5 acHalt off 0 with dests := s.dests.put (off / 32) none })
    ∧ (∀ u, u ≤ 8 → (s.cps.get u).frozen = false → (s.cps.get u).dead = false →
        let s1 := { s with cps := s.cps.upd u fun c => { c with frozen := true } }
        exec (.cpLockstepMismatch u) s = (if u = 8 ∧ s.mbox.busy = true then answered s1 0xFD 0 else .next s1))
    ∧ (∀ u, (s.cps.get u).frozen = true → (s.cps.get u).dead = false →
        let c := s.cps.get u
        exec (.cpRestartComplete u) s = .next { s with cps := s.cps.put u { c with
          restarts := (c.restarts + 1) % 2 ^ 32, dead := c.bad, frozen := c.bad } })

/-! ## Decoding, steps, reset, memory -/

namespace Sys2Proof.Machine.Claims

/-- The bytes of a window of memory: those outside stand, those inside are the ones written. -/
def wrote (m m' : Mem) (a : Nat) (bs : List Byte) : Prop :=
  (∀ x, x < a ∨ a + bs.length ≤ x → Tab.get m' x = Tab.get m x)
    ∧ (Memory.wf m = true → Memory.wf m' = true ∧ ∀ i, i < bs.length → Tab.get m' (a + i) = bs.getD i 0#8)

end Sys2Proof.Machine.Claims

open Sys2Proof Sys2Proof.Machine Sys2Proof.Machine.Claims

/-- Words printed by the rules' worked examples, one of each lane and form among them, decode to the instructions they stand
for: a scalar and a vector operation, a guard, a MOD and a DEP extension, a load of a segment's own prefix, a matrix, a copy
and a control word, a register-space write. -/
def Obligations.DecodeSamples : Prop :=
  decode [0x000D000000000000#64] = .ok (.sync ⟨0#10, none, none⟩, 1)
  ∧ decode [0x0000021850C00000#64] = .ok (.add ⟨0#10, none, none⟩
      ⟨⟨true, 1#5⟩, .s 2#5, .op (.s 3#5), ⟨false, 0#6⟩⟩, 1)
  ∧ decode [0x0080021850C18000#64] = .ok (.add ⟨2#10, none, none⟩
      ⟨⟨true, 1#5⟩, .s 2#5, .op (.s 3#5), ⟨false, 3#6⟩⟩, 1)
  ∧ decode [0x00D0000201808000#64] = .ok (.vadd ⟨3#10, none, none⟩ .f32
      ⟨0#8, .row 1#8, .row 2#8, 0#3, false⟩ none, 1)
  ∧ decode [0x0050C81601A0B230#64, 0x1800180100000000#64, 0x21C2000000000000#64] =
      .ok (.vfma ⟨1#10, none, some ⟨7#6, 2#6, 0#6, 0#6⟩⟩ .f32 ⟨5#8, .row 1#8, .row 0x82#8, .k 3#5, 0#3, false⟩
        (some ⟨true, false, false, false, false, false, 0#7, some .rtz, false, false, .none, true⟩), 3)
  ∧ decode [0x000D180000000000#64, 0x1122334455667788#64, 5#64] =
      .ok (.segend ⟨0#10, none, none⟩ 0x1122334455667788#64 5#32, 3)
  ∧ decode [0x004C82730B080028#64] = .ok (.lds ⟨1#10, none, none⟩ ⟨true, 7#5⟩ 3#4 (.imm 5#7) (.op (.s 2#5)) none
      ⟨false, 2#6⟩, 1)
  ∧ decode [0x000B3007FFFFD800#64] = .ok (.loopb ⟨0#10, none, none⟩ ⟨false, 0#6⟩ 0xFFFFFB#24, 1)
  ∧ decode [0x009E8020800CC001#64] = .ok (.vld ⟨2#10, none, none⟩ .w32 ⟨8#8, 2#4, 3#12, 1#3, none⟩ true true, 1)
  ∧ decode [0x086010821FC80000#64] = .ok (.mma ⟨33#10, none, none⟩ 2#4 false 1#4 0#4 127#7 false false true, 1)
  ∧ decode [0x0330108400010000#64] = .ok (.cout ⟨12#10, none, none⟩ ⟨2#4, 1#4, none, true, false⟩, 1)
  ∧ decode [0x0030B4C000080003#64, 0x3000000000000131#64] = .ok (.xrecv ⟨0#10, none, none⟩ 3#4 2#3 3#6 305#32 false, 2)
  ∧ decode [0x000D200C40003000#64] = .ok (.waitge ⟨0#10, none, none⟩ 6#4 0#8 (.op (.k 2#5)), 1)
  ∧ decode [0x000E300CE000000C#64] = .ok (.syswr ⟨0#10, none, none⟩ 12#8 (.op (.k 7#5)) ⟨false, 0#6⟩, 1)

/-- R66 to R100: every well-formed word, with any words after it, decodes to the instruction it is the encoding of, at its
own length: no bit of an encoding is dropped. -/
def Obligations.DecodeEncode : Prop :=
  ∀ (i : Instr) (rest : List Word), i.wf = true → i.isWord = true →
    decode (encode i ++ rest) = .ok (i, (encode i).length)

/-- R97: what decodes is a well-formed word, and the words read are its encoding and no others; so each word has one
meaning. -/
def Obligations.EncodeDecode : Prop :=
  ∀ (ws : List Word) (i : Instr) (n : Nat), decode ws = .ok (i, n) →
    i.wf = true ∧ i.isWord = true ∧ encode i = ws.take n ∧ 1 ≤ n ∧ n ≤ 4 ∧ n ≤ ws.length

/-- R42, R97, R108, R114, R242: a step of a unit in untimed code runs the instruction its pc's words decode to, with the unit
active, the word its present one and the pc moved past it; in a segment the word at the head of a lane's queue, at its
cycle. Words that decode to nothing are ILLEGAL_WORD. -/
def Obligations.StepRunsDecoded : Prop :=
  ∀ (s : State) (u : Nat), s.turn = some (.unit u) →
    let s0 := { s with turn := none }
    let x := s.unit u
    let ws := x.fetchWords x.pc
    (∀ i n, x.mode = .code → decode ws = .ok (i, n) → (s0.takeUp u n).wordBad u x.pc (laneOf (ws.headD 0#64)) x.regs.acc i = none →
      laneOf (ws.headD 0#64) = 0 → (x.order = false ∨ ∃ h, i = .sync h) →
      step s = exec i ((s0.takeUp u n).skip u n))
    ∧ (∀ e, x.mode = .code → decode ws = .error e → step s = .next ((s0.takeUp u 1).raise u
        (((s0.takeUp u 1).unit u).flt (laneOf (ws.headD 0#64)) 0x01 0 ((s0.takeUp u 1).unit u).vol.lblpc) false))
    ∧ (∀ (a : At) (lane : Nat) (q : QWord) (r : List QWord) (i : Instr) (n : Nat) (t : State), x.mode = .seg → s0.firstOf u = true →
        s0.nextOf u = some a → a.what = .issue lane →
        let s1 := s0.modUnit u fun x => { x with seg := { x.seg with cyc := max x.seg.cyc a.cyc } }
        (s1.unit u).seg.queue lane = q :: r → (s1.unit u).when lane q ≤ 2 ^ 32 - 1 → decode q.words = .ok (i, n) →
        let s2 := s1.beginAt u lane a.cyc q
        s2.tokStanding u (consumedBy (hdrOf q.words)) = none →
        (∀ k ∈ consumedBy (hdrOf q.words), s2.tokFault u lane k = none) → s1.lateLane u a.cyc lane = none →
        exec i (s1.beginAt u lane a.cyc q) = .next t → step s = .next (t.endIssue u lane i))

/-- R61, R63, R379, R416, R423, R424: the state right after package reset, and the registers of a task's start. No master is
frozen, no address space, key, destination or policy stands, no task is in the table; scalar registers, descriptors, masks
and predicates are zero, VMODE names window 0 for the accumulators and round to nearest even. Registers for which no reset
value is given are at the values of logs 1 and 3. -/
def Obligations.ResetState : Prop :=
  let s := State.reset
  (∀ u, (s.unit u).mode = .idle ∧ (s.unit u).task = none)
  ∧ s.tasks = [] ∧ s.launches = [] ∧ s.asids = [] ∧ s.keys = [] ∧ s.dests = [] ∧ s.policies = [] ∧ s.frozen = []
  ∧ s.dev = [] ∧ s.hostMem = [] ∧ s.recQ = [] ∧ s.mbox.busy = false ∧ s.devtime = 0#64 ∧ s.frame = 0#64
  ∧ (∀ i j, i < 8 → j < 8 → s.conn.get (8 * i + j) = if i = j then 0 else 32)
  ∧ (∀ p, p < 32 → (s.peers.get p).up = true ∧ (s.peers.get p).rate = 200)
  ∧ s.pwr.modpwr = 460#16 ∧ s.pwr.ready = false ∧ s.pwr.stage = 1 ∧ s.pwr.en0 = 0x3FF#64
  ∧ (∀ acc n, let r := Regs.start acc
      r.s.get n = ⟨0#64, 0#8⟩ ∧ r.p.get n = ⟨false, 0#8⟩ ∧ (r.d.get n).valid = false ∧ r.m.get n = ⟨0#512, 0#8⟩
        ∧ r.vstat = 0#5 ∧ r.vmode = 0x100#64 ∧ r.acc = acc ∧ (r.tiles.get n).rows.get 0 = ⟨0#4096, 0#8⟩)
  ∧ Safety.memsOk s ∧ Safety.tablesOk s

/-- R266, R268, R314, R397: a write of bytes changes those bytes and no other and keeps the canonical form; a write to a page
reaches device memory, the host's or the peer's as the page says, one to a box the cluster store or the scratchpad it lies
in, and nothing else; where cells of a sector fail, the rest of the sector is written back as it was read (R397, R398). -/
def Obligations.MemoryWrites : Prop :=
  (∀ (m : Mem) (a : Nat) (bs : List Byte), wrote m (Mem.write m a bs) a bs)
  ∧ ∀ (s : State) (ctx : Ctx) (u a : Nat) (b : Box) (l : Label) (bs : List Byte),
    (∀ (p : Pte) (page va : Nat), let t := s.writePage ctx p page va bs
      let pa := p.addr + (va - page)
      (p.tgt ≠ 1 → p.tgt ≠ 2 → (s.cells = [] → wrote s.dev t.dev pa bs)
        ∧ (∀ x, x < pa / 64 * 64 ∨ (pa + bs.length + 63) / 64 * 64 ≤ x → Tab.get t.dev x = Tab.get s.dev x)
        ∧ t.hostMem = s.hostMem ∧ t.peerMem = s.peerMem ∧ t.units = s.units)
      ∧ (p.tgt = 1 → t.hostMem = Mem.write s.hostMem pa bs ∧ t.dev = s.dev ∧ t.peerMem = s.peerMem ∧ t.units = s.units)
      ∧ (p.tgt = 2 → t.peerMem = s.peerMem.upd p.port (fun m => Mem.write m pa bs) ∧ t.dev = s.dev ∧ t.hostMem = s.hostMem
        ∧ t.units = s.units))
    ∧ (b.scope = .clstore → s.writeBox ctx u b l a bs =
        ({ s with clstore := s.clstore.upd b.home fun m => Mem.write m a bs }, none))
    ∧ (b.scope = .scratch → s.writeBox ctx u b l a bs =
        (s.modUnit u fun x => { x with spad := Mem.write x.spad a bs }, none))
end

