-- ==== Sys2Proof/Laws/State.lean ====
section
/-! SUPPORT. What each plain update of the state and of a unit leaves as it was and what it changes: one lemma for each
field, true by definition. -/

namespace Sys2Proof.Machine

/-! ## State.setUnit -/

@[simp] theorem State.setUnit_active (s : State) (u : Nat) (x : Unit) : (s.setUnit u x).active = s.active := rfl
@[simp] theorem State.setUnit_turn (s : State) (u : Nat) (x : Unit) : (s.setUnit u x).turn = s.turn := rfl
@[simp] theorem State.setUnit_inputs (s : State) (u : Nat) (x : Unit) : (s.setUnit u x).inputs = s.inputs := rfl
@[simp] theorem State.setUnit_choices (s : State) (u : Nat) (x : Unit) : (s.setUnit u x).choices = s.choices := rfl
@[simp] theorem State.setUnit_frees (s : State) (u : Nat) (x : Unit) : (s.setUnit u x).frees = s.frees := rfl
@[simp] theorem State.setUnit_units (s : State) (u : Nat) (x : Unit) : (s.setUnit u x).units = s.units.put u x := rfl
@[simp] theorem State.setUnit_tasks (s : State) (u : Nat) (x : Unit) : (s.setUnit u x).tasks = s.tasks := rfl
@[simp] theorem State.setUnit_spawns (s : State) (u : Nat) (x : Unit) : (s.setUnit u x).spawns = s.spawns := rfl
@[simp] theorem State.setUnit_launches (s : State) (u : Nat) (x : Unit) : (s.setUnit u x).launches = s.launches := rfl
@[simp] theorem State.setUnit_lnext (s : State) (u : Nat) (x : Unit) : (s.setUnit u x).lnext = s.lnext := rfl
@[simp] theorem State.setUnit_gangs (s : State) (u : Nat) (x : Unit) : (s.setUnit u x).gangs = s.gangs := rfl
@[simp] theorem State.setUnit_gres (s : State) (u : Nat) (x : Unit) : (s.setUnit u x).gres = s.gres := rfl
@[simp] theorem State.setUnit_fns (s : State) (u : Nat) (x : Unit) : (s.setUnit u x).fns = s.fns := rfl
@[simp] theorem State.setUnit_asids (s : State) (u : Nat) (x : Unit) : (s.setUnit u x).asids = s.asids := rfl
@[simp] theorem State.setUnit_clstore (s : State) (u : Nat) (x : Unit) : (s.setUnit u x).clstore = s.clstore := rfl
@[simp] theorem State.setUnit_clused (s : State) (u : Nat) (x : Unit) : (s.setUnit u x).clused = s.clused := rfl
@[simp] theorem State.setUnit_dev (s : State) (u : Nat) (x : Unit) : (s.setUnit u x).dev = s.dev := rfl
@[simp] theorem State.setUnit_hostMem (s : State) (u : Nat) (x : Unit) : (s.setUnit u x).hostMem = s.hostMem := rfl
@[simp] theorem State.setUnit_peerMem (s : State) (u : Nat) (x : Unit) : (s.setUnit u x).peerMem = s.peerMem := rfl
@[simp] theorem State.setUnit_xwords (s : State) (u : Nat) (x : Unit) : (s.setUnit u x).xwords = s.xwords := rfl
@[simp] theorem State.setUnit_xnext (s : State) (u : Nat) (x : Unit) : (s.setUnit u x).xnext = s.xnext := rfl
@[simp] theorem State.setUnit_xin (s : State) (u : Nat) (x : Unit) : (s.setUnit u x).xin = s.xin := rfl
@[simp] theorem State.setUnit_ratoms (s : State) (u : Nat) (x : Unit) : (s.setUnit u x).ratoms = s.ratoms := rfl
@[simp] theorem State.setUnit_tlb (s : State) (u : Nat) (x : Unit) : (s.setUnit u x).tlb = s.tlb := rfl
@[simp] theorem State.setUnit_utlb (s : State) (u : Nat) (x : Unit) : (s.setUnit u x).utlb = s.utlb := rfl
@[simp] theorem State.setUnit_wpages (s : State) (u : Nat) (x : Unit) : (s.setUnit u x).wpages = s.wpages := rfl
@[simp] theorem State.setUnit_stalls (s : State) (u : Nat) (x : Unit) : (s.setUnit u x).stalls = s.stalls := rfl
@[simp] theorem State.setUnit_tagNext (s : State) (u : Nat) (x : Unit) : (s.setUnit u x).tagNext = s.tagNext := rfl
@[simp] theorem State.setUnit_uncache (s : State) (u : Nat) (x : Unit) : (s.setUnit u x).uncache = s.uncache := rfl
@[simp] theorem State.setUnit_unNext (s : State) (u : Nat) (x : Unit) : (s.setUnit u x).unNext = s.unNext := rfl
@[simp] theorem State.setUnit_founds (s : State) (u : Nat) (x : Unit) : (s.setUnit u x).founds = s.founds := rfl
@[simp] theorem State.setUnit_lostsev (s : State) (u : Nat) (x : Unit) : (s.setUnit u x).lostsev = s.lostsev := rfl
@[simp] theorem State.setUnit_cells (s : State) (u : Nat) (x : Unit) : (s.setUnit u x).cells = s.cells := rfl
@[simp] theorem State.setUnit_upsets (s : State) (u : Nat) (x : Unit) : (s.setUnit u x).upsets = s.upsets := rfl
@[simp] theorem State.setUnit_colQ (s : State) (u : Nat) (x : Unit) : (s.setUnit u x).colQ = s.colQ := rfl
@[simp] theorem State.setUnit_answer (s : State) (u : Nat) (x : Unit) : (s.setUnit u x).answer = s.answer := rfl
@[simp] theorem State.setUnit_keys (s : State) (u : Nat) (x : Unit) : (s.setUnit u x).keys = s.keys := rfl
@[simp] theorem State.setUnit_dests (s : State) (u : Nat) (x : Unit) : (s.setUnit u x).dests = s.dests := rfl
@[simp] theorem State.setUnit_policies (s : State) (u : Nat) (x : Unit) : (s.setUnit u x).policies = s.policies := rfl
@[simp] theorem State.setUnit_frozen (s : State) (u : Nat) (x : Unit) : (s.setUnit u x).frozen = s.frozen := rfl
@[simp] theorem State.setUnit_rings (s : State) (u : Nat) (x : Unit) : (s.setUnit u x).rings = s.rings := rfl
@[simp] theorem State.setUnit_recQ (s : State) (u : Nat) (x : Unit) : (s.setUnit u x).recQ = s.recQ := rfl
@[simp] theorem State.setUnit_irqs (s : State) (u : Nat) (x : Unit) : (s.setUnit u x).irqs = s.irqs := rfl
@[simp] theorem State.setUnit_mbox (s : State) (u : Nat) (x : Unit) : (s.setUnit u x).mbox = s.mbox := rfl
@[simp] theorem State.setUnit_dies (s : State) (u : Nat) (x : Unit) : (s.setUnit u x).dies = s.dies := rfl
@[simp] theorem State.setUnit_cps (s : State) (u : Nat) (x : Unit) : (s.setUnit u x).cps = s.cps := rfl
@[simp] theorem State.setUnit_conn (s : State) (u : Nat) (x : Unit) : (s.setUnit u x).conn = s.conn := rfl
@[simp] theorem State.setUnit_retune (s : State) (u : Nat) (x : Unit) : (s.setUnit u x).retune = s.retune := rfl
@[simp] theorem State.setUnit_tuned (s : State) (u : Nat) (x : Unit) : (s.setUnit u x).tuned = s.tuned := rfl
@[simp] theorem State.setUnit_tgroups (s : State) (u : Nat) (x : Unit) : (s.setUnit u x).tgroups = s.tgroups := rfl
@[simp] theorem State.setUnit_peers (s : State) (u : Nat) (x : Unit) : (s.setUnit u x).peers = s.peers := rfl
@[simp] theorem State.setUnit_devtime (s : State) (u : Nat) (x : Unit) : (s.setUnit u x).devtime = s.devtime := rfl
@[simp] theorem State.setUnit_frame (s : State) (u : Nat) (x : Unit) : (s.setUnit u x).frame = s.frame := rfl
@[simp] theorem State.setUnit_reals (s : State) (u : Nat) (x : Unit) : (s.setUnit u x).reals = s.reals := rfl
@[simp] theorem State.setUnit_pwr (s : State) (u : Nat) (x : Unit) : (s.setUnit u x).pwr = s.pwr := rfl

/-! ## State.modUnit -/

@[simp] theorem State.modUnit_active (s : State) (u : Nat) (f : Unit → Unit) : (s.modUnit u f).active = s.active := rfl
@[simp] theorem State.modUnit_turn (s : State) (u : Nat) (f : Unit → Unit) : (s.modUnit u f).turn = s.turn := rfl
@[simp] theorem State.modUnit_inputs (s : State) (u : Nat) (f : Unit → Unit) : (s.modUnit u f).inputs = s.inputs := rfl
@[simp] theorem State.modUnit_choices (s : State) (u : Nat) (f : Unit → Unit) : (s.modUnit u f).choices = s.choices := rfl
@[simp] theorem State.modUnit_frees (s : State) (u : Nat) (f : Unit → Unit) : (s.modUnit u f).frees = s.frees := rfl
@[simp] theorem State.modUnit_units (s : State) (u : Nat) (f : Unit → Unit) : (s.modUnit u f).units = s.units.put u (f (s.units.get u)) := rfl
@[simp] theorem State.modUnit_tasks (s : State) (u : Nat) (f : Unit → Unit) : (s.modUnit u f).tasks = s.tasks := rfl
@[simp] theorem State.modUnit_spawns (s : State) (u : Nat) (f : Unit → Unit) : (s.modUnit u f).spawns = s.spawns := rfl
@[simp] theorem State.modUnit_launches (s : State) (u : Nat) (f : Unit → Unit) : (s.modUnit u f).launches = s.launches := rfl
@[simp] theorem State.modUnit_lnext (s : State) (u : Nat) (f : Unit → Unit) : (s.modUnit u f).lnext = s.lnext := rfl
@[simp] theorem State.modUnit_gangs (s : State) (u : Nat) (f : Unit → Unit) : (s.modUnit u f).gangs = s.gangs := rfl
@[simp] theorem State.modUnit_gres (s : State) (u : Nat) (f : Unit → Unit) : (s.modUnit u f).gres = s.gres := rfl
@[simp] theorem State.modUnit_fns (s : State) (u : Nat) (f : Unit → Unit) : (s.modUnit u f).fns = s.fns := rfl
@[simp] theorem State.modUnit_asids (s : State) (u : Nat) (f : Unit → Unit) : (s.modUnit u f).asids = s.asids := rfl
@[simp] theorem State.modUnit_clstore (s : State) (u : Nat) (f : Unit → Unit) : (s.modUnit u f).clstore = s.clstore := rfl
@[simp] theorem State.modUnit_clused (s : State) (u : Nat) (f : Unit → Unit) : (s.modUnit u f).clused = s.clused := rfl
@[simp] theorem State.modUnit_dev (s : State) (u : Nat) (f : Unit → Unit) : (s.modUnit u f).dev = s.dev := rfl
@[simp] theorem State.modUnit_hostMem (s : State) (u : Nat) (f : Unit → Unit) : (s.modUnit u f).hostMem = s.hostMem := rfl
@[simp] theorem State.modUnit_peerMem (s : State) (u : Nat) (f : Unit → Unit) : (s.modUnit u f).peerMem = s.peerMem := rfl
@[simp] theorem State.modUnit_xwords (s : State) (u : Nat) (f : Unit → Unit) : (s.modUnit u f).xwords = s.xwords := rfl
@[simp] theorem State.modUnit_xnext (s : State) (u : Nat) (f : Unit → Unit) : (s.modUnit u f).xnext = s.xnext := rfl
@[simp] theorem State.modUnit_xin (s : State) (u : Nat) (f : Unit → Unit) : (s.modUnit u f).xin = s.xin := rfl
@[simp] theorem State.modUnit_ratoms (s : State) (u : Nat) (f : Unit → Unit) : (s.modUnit u f).ratoms = s.ratoms := rfl
@[simp] theorem State.modUnit_tlb (s : State) (u : Nat) (f : Unit → Unit) : (s.modUnit u f).tlb = s.tlb := rfl
@[simp] theorem State.modUnit_utlb (s : State) (u : Nat) (f : Unit → Unit) : (s.modUnit u f).utlb = s.utlb := rfl
@[simp] theorem State.modUnit_wpages (s : State) (u : Nat) (f : Unit → Unit) : (s.modUnit u f).wpages = s.wpages := rfl
@[simp] theorem State.modUnit_stalls (s : State) (u : Nat) (f : Unit → Unit) : (s.modUnit u f).stalls = s.stalls := rfl
@[simp] theorem State.modUnit_tagNext (s : State) (u : Nat) (f : Unit → Unit) : (s.modUnit u f).tagNext = s.tagNext := rfl
@[simp] theorem State.modUnit_uncache (s : State) (u : Nat) (f : Unit → Unit) : (s.modUnit u f).uncache = s.uncache := rfl
@[simp] theorem State.modUnit_unNext (s : State) (u : Nat) (f : Unit → Unit) : (s.modUnit u f).unNext = s.unNext := rfl
@[simp] theorem State.modUnit_founds (s : State) (u : Nat) (f : Unit → Unit) : (s.modUnit u f).founds = s.founds := rfl
@[simp] theorem State.modUnit_lostsev (s : State) (u : Nat) (f : Unit → Unit) : (s.modUnit u f).lostsev = s.lostsev := rfl
@[simp] theorem State.modUnit_cells (s : State) (u : Nat) (f : Unit → Unit) : (s.modUnit u f).cells = s.cells := rfl
@[simp] theorem State.modUnit_upsets (s : State) (u : Nat) (f : Unit → Unit) : (s.modUnit u f).upsets = s.upsets := rfl
@[simp] theorem State.modUnit_colQ (s : State) (u : Nat) (f : Unit → Unit) : (s.modUnit u f).colQ = s.colQ := rfl
@[simp] theorem State.modUnit_answer (s : State) (u : Nat) (f : Unit → Unit) : (s.modUnit u f).answer = s.answer := rfl
@[simp] theorem State.modUnit_keys (s : State) (u : Nat) (f : Unit → Unit) : (s.modUnit u f).keys = s.keys := rfl
@[simp] theorem State.modUnit_dests (s : State) (u : Nat) (f : Unit → Unit) : (s.modUnit u f).dests = s.dests := rfl
@[simp] theorem State.modUnit_policies (s : State) (u : Nat) (f : Unit → Unit) : (s.modUnit u f).policies = s.policies := rfl
@[simp] theorem State.modUnit_frozen (s : State) (u : Nat) (f : Unit → Unit) : (s.modUnit u f).frozen = s.frozen := rfl
@[simp] theorem State.modUnit_rings (s : State) (u : Nat) (f : Unit → Unit) : (s.modUnit u f).rings = s.rings := rfl
@[simp] theorem State.modUnit_recQ (s : State) (u : Nat) (f : Unit → Unit) : (s.modUnit u f).recQ = s.recQ := rfl
@[simp] theorem State.modUnit_irqs (s : State) (u : Nat) (f : Unit → Unit) : (s.modUnit u f).irqs = s.irqs := rfl
@[simp] theorem State.modUnit_mbox (s : State) (u : Nat) (f : Unit → Unit) : (s.modUnit u f).mbox = s.mbox := rfl
@[simp] theorem State.modUnit_dies (s : State) (u : Nat) (f : Unit → Unit) : (s.modUnit u f).dies = s.dies := rfl
@[simp] theorem State.modUnit_cps (s : State) (u : Nat) (f : Unit → Unit) : (s.modUnit u f).cps = s.cps := rfl
@[simp] theorem State.modUnit_conn (s : State) (u : Nat) (f : Unit → Unit) : (s.modUnit u f).conn = s.conn := rfl
@[simp] theorem State.modUnit_retune (s : State) (u : Nat) (f : Unit → Unit) : (s.modUnit u f).retune = s.retune := rfl
@[simp] theorem State.modUnit_tuned (s : State) (u : Nat) (f : Unit → Unit) : (s.modUnit u f).tuned = s.tuned := rfl
@[simp] theorem State.modUnit_tgroups (s : State) (u : Nat) (f : Unit → Unit) : (s.modUnit u f).tgroups = s.tgroups := rfl
@[simp] theorem State.modUnit_peers (s : State) (u : Nat) (f : Unit → Unit) : (s.modUnit u f).peers = s.peers := rfl
@[simp] theorem State.modUnit_devtime (s : State) (u : Nat) (f : Unit → Unit) : (s.modUnit u f).devtime = s.devtime := rfl
@[simp] theorem State.modUnit_frame (s : State) (u : Nat) (f : Unit → Unit) : (s.modUnit u f).frame = s.frame := rfl
@[simp] theorem State.modUnit_reals (s : State) (u : Nat) (f : Unit → Unit) : (s.modUnit u f).reals = s.reals := rfl
@[simp] theorem State.modUnit_pwr (s : State) (u : Nat) (f : Unit → Unit) : (s.modUnit u f).pwr = s.pwr := rfl

/-! ## State.modMe -/

@[simp] theorem State.modMe_active (s : State) (f : Unit → Unit) : (s.modMe f).active = s.active := rfl
@[simp] theorem State.modMe_turn (s : State) (f : Unit → Unit) : (s.modMe f).turn = s.turn := rfl
@[simp] theorem State.modMe_inputs (s : State) (f : Unit → Unit) : (s.modMe f).inputs = s.inputs := rfl
@[simp] theorem State.modMe_choices (s : State) (f : Unit → Unit) : (s.modMe f).choices = s.choices := rfl
@[simp] theorem State.modMe_frees (s : State) (f : Unit → Unit) : (s.modMe f).frees = s.frees := rfl
@[simp] theorem State.modMe_units (s : State) (f : Unit → Unit) : (s.modMe f).units = s.units.put s.active (f s.me) := rfl
@[simp] theorem State.modMe_tasks (s : State) (f : Unit → Unit) : (s.modMe f).tasks = s.tasks := rfl
@[simp] theorem State.modMe_spawns (s : State) (f : Unit → Unit) : (s.modMe f).spawns = s.spawns := rfl
@[simp] theorem State.modMe_launches (s : State) (f : Unit → Unit) : (s.modMe f).launches = s.launches := rfl
@[simp] theorem State.modMe_lnext (s : State) (f : Unit → Unit) : (s.modMe f).lnext = s.lnext := rfl
@[simp] theorem State.modMe_gangs (s : State) (f : Unit → Unit) : (s.modMe f).gangs = s.gangs := rfl
@[simp] theorem State.modMe_gres (s : State) (f : Unit → Unit) : (s.modMe f).gres = s.gres := rfl
@[simp] theorem State.modMe_fns (s : State) (f : Unit → Unit) : (s.modMe f).fns = s.fns := rfl
@[simp] theorem State.modMe_asids (s : State) (f : Unit → Unit) : (s.modMe f).asids = s.asids := rfl
@[simp] theorem State.modMe_clstore (s : State) (f : Unit → Unit) : (s.modMe f).clstore = s.clstore := rfl
@[simp] theorem State.modMe_clused (s : State) (f : Unit → Unit) : (s.modMe f).clused = s.clused := rfl
@[simp] theorem State.modMe_dev (s : State) (f : Unit → Unit) : (s.modMe f).dev = s.dev := rfl
@[simp] theorem State.modMe_hostMem (s : State) (f : Unit → Unit) : (s.modMe f).hostMem = s.hostMem := rfl
@[simp] theorem State.modMe_peerMem (s : State) (f : Unit → Unit) : (s.modMe f).peerMem = s.peerMem := rfl
@[simp] theorem State.modMe_xwords (s : State) (f : Unit → Unit) : (s.modMe f).xwords = s.xwords := rfl
@[simp] theorem State.modMe_xnext (s : State) (f : Unit → Unit) : (s.modMe f).xnext = s.xnext := rfl
@[simp] theorem State.modMe_xin (s : State) (f : Unit → Unit) : (s.modMe f).xin = s.xin := rfl
@[simp] theorem State.modMe_ratoms (s : State) (f : Unit → Unit) : (s.modMe f).ratoms = s.ratoms := rfl
@[simp] theorem State.modMe_tlb (s : State) (f : Unit → Unit) : (s.modMe f).tlb = s.tlb := rfl
@[simp] theorem State.modMe_utlb (s : State) (f : Unit → Unit) : (s.modMe f).utlb = s.utlb := rfl
@[simp] theorem State.modMe_wpages (s : State) (f : Unit → Unit) : (s.modMe f).wpages = s.wpages := rfl
@[simp] theorem State.modMe_stalls (s : State) (f : Unit → Unit) : (s.modMe f).stalls = s.stalls := rfl
@[simp] theorem State.modMe_tagNext (s : State) (f : Unit → Unit) : (s.modMe f).tagNext = s.tagNext := rfl
@[simp] theorem State.modMe_uncache (s : State) (f : Unit → Unit) : (s.modMe f).uncache = s.uncache := rfl
@[simp] theorem State.modMe_unNext (s : State) (f : Unit → Unit) : (s.modMe f).unNext = s.unNext := rfl
@[simp] theorem State.modMe_founds (s : State) (f : Unit → Unit) : (s.modMe f).founds = s.founds := rfl
@[simp] theorem State.modMe_lostsev (s : State) (f : Unit → Unit) : (s.modMe f).lostsev = s.lostsev := rfl
@[simp] theorem State.modMe_cells (s : State) (f : Unit → Unit) : (s.modMe f).cells = s.cells := rfl
@[simp] theorem State.modMe_upsets (s : State) (f : Unit → Unit) : (s.modMe f).upsets = s.upsets := rfl
@[simp] theorem State.modMe_colQ (s : State) (f : Unit → Unit) : (s.modMe f).colQ = s.colQ := rfl
@[simp] theorem State.modMe_answer (s : State) (f : Unit → Unit) : (s.modMe f).answer = s.answer := rfl
@[simp] theorem State.modMe_keys (s : State) (f : Unit → Unit) : (s.modMe f).keys = s.keys := rfl
@[simp] theorem State.modMe_dests (s : State) (f : Unit → Unit) : (s.modMe f).dests = s.dests := rfl
@[simp] theorem State.modMe_policies (s : State) (f : Unit → Unit) : (s.modMe f).policies = s.policies := rfl
@[simp] theorem State.modMe_frozen (s : State) (f : Unit → Unit) : (s.modMe f).frozen = s.frozen := rfl
@[simp] theorem State.modMe_rings (s : State) (f : Unit → Unit) : (s.modMe f).rings = s.rings := rfl
@[simp] theorem State.modMe_recQ (s : State) (f : Unit → Unit) : (s.modMe f).recQ = s.recQ := rfl
@[simp] theorem State.modMe_irqs (s : State) (f : Unit → Unit) : (s.modMe f).irqs = s.irqs := rfl
@[simp] theorem State.modMe_mbox (s : State) (f : Unit → Unit) : (s.modMe f).mbox = s.mbox := rfl
@[simp] theorem State.modMe_dies (s : State) (f : Unit → Unit) : (s.modMe f).dies = s.dies := rfl
@[simp] theorem State.modMe_cps (s : State) (f : Unit → Unit) : (s.modMe f).cps = s.cps := rfl
@[simp] theorem State.modMe_conn (s : State) (f : Unit → Unit) : (s.modMe f).conn = s.conn := rfl
@[simp] theorem State.modMe_retune (s : State) (f : Unit → Unit) : (s.modMe f).retune = s.retune := rfl
@[simp] theorem State.modMe_tuned (s : State) (f : Unit → Unit) : (s.modMe f).tuned = s.tuned := rfl
@[simp] theorem State.modMe_tgroups (s : State) (f : Unit → Unit) : (s.modMe f).tgroups = s.tgroups := rfl
@[simp] theorem State.modMe_peers (s : State) (f : Unit → Unit) : (s.modMe f).peers = s.peers := rfl
@[simp] theorem State.modMe_devtime (s : State) (f : Unit → Unit) : (s.modMe f).devtime = s.devtime := rfl
@[simp] theorem State.modMe_frame (s : State) (f : Unit → Unit) : (s.modMe f).frame = s.frame := rfl
@[simp] theorem State.modMe_reals (s : State) (f : Unit → Unit) : (s.modMe f).reals = s.reals := rfl
@[simp] theorem State.modMe_pwr (s : State) (f : Unit → Unit) : (s.modMe f).pwr = s.pwr := rfl

/-! ## State.modTask -/

@[simp] theorem State.modTask_active (s : State) (t : Nat) (f : Task → Task) : (s.modTask t f).active = s.active := rfl
@[simp] theorem State.modTask_turn (s : State) (t : Nat) (f : Task → Task) : (s.modTask t f).turn = s.turn := rfl
@[simp] theorem State.modTask_inputs (s : State) (t : Nat) (f : Task → Task) : (s.modTask t f).inputs = s.inputs := rfl
@[simp] theorem State.modTask_choices (s : State) (t : Nat) (f : Task → Task) : (s.modTask t f).choices = s.choices := rfl
@[simp] theorem State.modTask_frees (s : State) (t : Nat) (f : Task → Task) : (s.modTask t f).frees = s.frees := rfl
@[simp] theorem State.modTask_units (s : State) (t : Nat) (f : Task → Task) : (s.modTask t f).units = s.units := rfl
@[simp] theorem State.modTask_tasks (s : State) (t : Nat) (f : Task → Task) : (s.modTask t f).tasks = s.tasks.put t (f (s.task t)) := rfl
@[simp] theorem State.modTask_spawns (s : State) (t : Nat) (f : Task → Task) : (s.modTask t f).spawns = s.spawns := rfl
@[simp] theorem State.modTask_launches (s : State) (t : Nat) (f : Task → Task) : (s.modTask t f).launches = s.launches := rfl
@[simp] theorem State.modTask_lnext (s : State) (t : Nat) (f : Task → Task) : (s.modTask t f).lnext = s.lnext := rfl
@[simp] theorem State.modTask_gangs (s : State) (t : Nat) (f : Task → Task) : (s.modTask t f).gangs = s.gangs := rfl
@[simp] theorem State.modTask_gres (s : State) (t : Nat) (f : Task → Task) : (s.modTask t f).gres = s.gres := rfl
@[simp] theorem State.modTask_fns (s : State) (t : Nat) (f : Task → Task) : (s.modTask t f).fns = s.fns := rfl
@[simp] theorem State.modTask_asids (s : State) (t : Nat) (f : Task → Task) : (s.modTask t f).asids = s.asids := rfl
@[simp] theorem State.modTask_clstore (s : State) (t : Nat) (f : Task → Task) : (s.modTask t f).clstore = s.clstore := rfl
@[simp] theorem State.modTask_clused (s : State) (t : Nat) (f : Task → Task) : (s.modTask t f).clused = s.clused := rfl
@[simp] theorem State.modTask_dev (s : State) (t : Nat) (f : Task → Task) : (s.modTask t f).dev = s.dev := rfl
@[simp] theorem State.modTask_hostMem (s : State) (t : Nat) (f : Task → Task) : (s.modTask t f).hostMem = s.hostMem := rfl
@[simp] theorem State.modTask_peerMem (s : State) (t : Nat) (f : Task → Task) : (s.modTask t f).peerMem = s.peerMem := rfl
@[simp] theorem State.modTask_xwords (s : State) (t : Nat) (f : Task → Task) : (s.modTask t f).xwords = s.xwords := rfl
@[simp] theorem State.modTask_xnext (s : State) (t : Nat) (f : Task → Task) : (s.modTask t f).xnext = s.xnext := rfl
@[simp] theorem State.modTask_xin (s : State) (t : Nat) (f : Task → Task) : (s.modTask t f).xin = s.xin := rfl
@[simp] theorem State.modTask_ratoms (s : State) (t : Nat) (f : Task → Task) : (s.modTask t f).ratoms = s.ratoms := rfl
@[simp] theorem State.modTask_tlb (s : State) (t : Nat) (f : Task → Task) : (s.modTask t f).tlb = s.tlb := rfl
@[simp] theorem State.modTask_utlb (s : State) (t : Nat) (f : Task → Task) : (s.modTask t f).utlb = s.utlb := rfl
@[simp] theorem State.modTask_wpages (s : State) (t : Nat) (f : Task → Task) : (s.modTask t f).wpages = s.wpages := rfl
@[simp] theorem State.modTask_stalls (s : State) (t : Nat) (f : Task → Task) : (s.modTask t f).stalls = s.stalls := rfl
@[simp] theorem State.modTask_tagNext (s : State) (t : Nat) (f : Task → Task) : (s.modTask t f).tagNext = s.tagNext := rfl
@[simp] theorem State.modTask_uncache (s : State) (t : Nat) (f : Task → Task) : (s.modTask t f).uncache = s.uncache := rfl
@[simp] theorem State.modTask_unNext (s : State) (t : Nat) (f : Task → Task) : (s.modTask t f).unNext = s.unNext := rfl
@[simp] theorem State.modTask_founds (s : State) (t : Nat) (f : Task → Task) : (s.modTask t f).founds = s.founds := rfl
@[simp] theorem State.modTask_lostsev (s : State) (t : Nat) (f : Task → Task) : (s.modTask t f).lostsev = s.lostsev := rfl
@[simp] theorem State.modTask_cells (s : State) (t : Nat) (f : Task → Task) : (s.modTask t f).cells = s.cells := rfl
@[simp] theorem State.modTask_upsets (s : State) (t : Nat) (f : Task → Task) : (s.modTask t f).upsets = s.upsets := rfl
@[simp] theorem State.modTask_colQ (s : State) (t : Nat) (f : Task → Task) : (s.modTask t f).colQ = s.colQ := rfl
@[simp] theorem State.modTask_answer (s : State) (t : Nat) (f : Task → Task) : (s.modTask t f).answer = s.answer := rfl
@[simp] theorem State.modTask_keys (s : State) (t : Nat) (f : Task → Task) : (s.modTask t f).keys = s.keys := rfl
@[simp] theorem State.modTask_dests (s : State) (t : Nat) (f : Task → Task) : (s.modTask t f).dests = s.dests := rfl
@[simp] theorem State.modTask_policies (s : State) (t : Nat) (f : Task → Task) : (s.modTask t f).policies = s.policies := rfl
@[simp] theorem State.modTask_frozen (s : State) (t : Nat) (f : Task → Task) : (s.modTask t f).frozen = s.frozen := rfl
@[simp] theorem State.modTask_rings (s : State) (t : Nat) (f : Task → Task) : (s.modTask t f).rings = s.rings := rfl
@[simp] theorem State.modTask_recQ (s : State) (t : Nat) (f : Task → Task) : (s.modTask t f).recQ = s.recQ := rfl
@[simp] theorem State.modTask_irqs (s : State) (t : Nat) (f : Task → Task) : (s.modTask t f).irqs = s.irqs := rfl
@[simp] theorem State.modTask_mbox (s : State) (t : Nat) (f : Task → Task) : (s.modTask t f).mbox = s.mbox := rfl
@[simp] theorem State.modTask_dies (s : State) (t : Nat) (f : Task → Task) : (s.modTask t f).dies = s.dies := rfl
@[simp] theorem State.modTask_cps (s : State) (t : Nat) (f : Task → Task) : (s.modTask t f).cps = s.cps := rfl
@[simp] theorem State.modTask_conn (s : State) (t : Nat) (f : Task → Task) : (s.modTask t f).conn = s.conn := rfl
@[simp] theorem State.modTask_retune (s : State) (t : Nat) (f : Task → Task) : (s.modTask t f).retune = s.retune := rfl
@[simp] theorem State.modTask_tuned (s : State) (t : Nat) (f : Task → Task) : (s.modTask t f).tuned = s.tuned := rfl
@[simp] theorem State.modTask_tgroups (s : State) (t : Nat) (f : Task → Task) : (s.modTask t f).tgroups = s.tgroups := rfl
@[simp] theorem State.modTask_peers (s : State) (t : Nat) (f : Task → Task) : (s.modTask t f).peers = s.peers := rfl
@[simp] theorem State.modTask_devtime (s : State) (t : Nat) (f : Task → Task) : (s.modTask t f).devtime = s.devtime := rfl
@[simp] theorem State.modTask_frame (s : State) (t : Nat) (f : Task → Task) : (s.modTask t f).frame = s.frame := rfl
@[simp] theorem State.modTask_reals (s : State) (t : Nat) (f : Task → Task) : (s.modTask t f).reals = s.reals := rfl
@[simp] theorem State.modTask_pwr (s : State) (t : Nat) (f : Task → Task) : (s.modTask t f).pwr = s.pwr := rfl

/-! ## State.post -/

@[simp] theorem State.post_active (s : State) (r : RingId) (d : List Byte) : (s.post r d).active = s.active := rfl
@[simp] theorem State.post_turn (s : State) (r : RingId) (d : List Byte) : (s.post r d).turn = s.turn := rfl
@[simp] theorem State.post_inputs (s : State) (r : RingId) (d : List Byte) : (s.post r d).inputs = s.inputs := rfl
@[simp] theorem State.post_choices (s : State) (r : RingId) (d : List Byte) : (s.post r d).choices = s.choices := rfl
@[simp] theorem State.post_frees (s : State) (r : RingId) (d : List Byte) : (s.post r d).frees = s.frees := rfl
@[simp] theorem State.post_units (s : State) (r : RingId) (d : List Byte) : (s.post r d).units = s.units := rfl
@[simp] theorem State.post_tasks (s : State) (r : RingId) (d : List Byte) : (s.post r d).tasks = s.tasks := rfl
@[simp] theorem State.post_spawns (s : State) (r : RingId) (d : List Byte) : (s.post r d).spawns = s.spawns := rfl
@[simp] theorem State.post_launches (s : State) (r : RingId) (d : List Byte) : (s.post r d).launches = s.launches := rfl
@[simp] theorem State.post_lnext (s : State) (r : RingId) (d : List Byte) : (s.post r d).lnext = s.lnext := rfl
@[simp] theorem State.post_gangs (s : State) (r : RingId) (d : List Byte) : (s.post r d).gangs = s.gangs := rfl
@[simp] theorem State.post_gres (s : State) (r : RingId) (d : List Byte) : (s.post r d).gres = s.gres := rfl
@[simp] theorem State.post_fns (s : State) (r : RingId) (d : List Byte) : (s.post r d).fns = s.fns := rfl
@[simp] theorem State.post_asids (s : State) (r : RingId) (d : List Byte) : (s.post r d).asids = s.asids := rfl
@[simp] theorem State.post_clstore (s : State) (r : RingId) (d : List Byte) : (s.post r d).clstore = s.clstore := rfl
@[simp] theorem State.post_clused (s : State) (r : RingId) (d : List Byte) : (s.post r d).clused = s.clused := rfl
@[simp] theorem State.post_dev (s : State) (r : RingId) (d : List Byte) : (s.post r d).dev = s.dev := rfl
@[simp] theorem State.post_hostMem (s : State) (r : RingId) (d : List Byte) : (s.post r d).hostMem = s.hostMem := rfl
@[simp] theorem State.post_peerMem (s : State) (r : RingId) (d : List Byte) : (s.post r d).peerMem = s.peerMem := rfl
@[simp] theorem State.post_xwords (s : State) (r : RingId) (d : List Byte) : (s.post r d).xwords = s.xwords := rfl
@[simp] theorem State.post_xnext (s : State) (r : RingId) (d : List Byte) : (s.post r d).xnext = s.xnext := rfl
@[simp] theorem State.post_xin (s : State) (r : RingId) (d : List Byte) : (s.post r d).xin = s.xin := rfl
@[simp] theorem State.post_ratoms (s : State) (r : RingId) (d : List Byte) : (s.post r d).ratoms = s.ratoms := rfl
@[simp] theorem State.post_tlb (s : State) (r : RingId) (d : List Byte) : (s.post r d).tlb = s.tlb := rfl
@[simp] theorem State.post_utlb (s : State) (r : RingId) (d : List Byte) : (s.post r d).utlb = s.utlb := rfl
@[simp] theorem State.post_wpages (s : State) (r : RingId) (d : List Byte) : (s.post r d).wpages = s.wpages := rfl
@[simp] theorem State.post_stalls (s : State) (r : RingId) (d : List Byte) : (s.post r d).stalls = s.stalls := rfl
@[simp] theorem State.post_tagNext (s : State) (r : RingId) (d : List Byte) : (s.post r d).tagNext = s.tagNext := rfl
@[simp] theorem State.post_uncache (s : State) (r : RingId) (d : List Byte) : (s.post r d).uncache = s.uncache := rfl
@[simp] theorem State.post_unNext (s : State) (r : RingId) (d : List Byte) : (s.post r d).unNext = s.unNext := rfl
@[simp] theorem State.post_founds (s : State) (r : RingId) (d : List Byte) : (s.post r d).founds = s.founds := rfl
@[simp] theorem State.post_lostsev (s : State) (r : RingId) (d : List Byte) : (s.post r d).lostsev = s.lostsev := rfl
@[simp] theorem State.post_cells (s : State) (r : RingId) (d : List Byte) : (s.post r d).cells = s.cells := rfl
@[simp] theorem State.post_upsets (s : State) (r : RingId) (d : List Byte) : (s.post r d).upsets = s.upsets := rfl
@[simp] theorem State.post_colQ (s : State) (r : RingId) (d : List Byte) : (s.post r d).colQ = s.colQ := rfl
@[simp] theorem State.post_answer (s : State) (r : RingId) (d : List Byte) : (s.post r d).answer = s.answer := rfl
@[simp] theorem State.post_keys (s : State) (r : RingId) (d : List Byte) : (s.post r d).keys = s.keys := rfl
@[simp] theorem State.post_dests (s : State) (r : RingId) (d : List Byte) : (s.post r d).dests = s.dests := rfl
@[simp] theorem State.post_policies (s : State) (r : RingId) (d : List Byte) : (s.post r d).policies = s.policies := rfl
@[simp] theorem State.post_frozen (s : State) (r : RingId) (d : List Byte) : (s.post r d).frozen = s.frozen := rfl
@[simp] theorem State.post_rings (s : State) (r : RingId) (d : List Byte) : (s.post r d).rings = s.rings := rfl
@[simp] theorem State.post_recQ (s : State) (r : RingId) (d : List Byte) : (s.post r d).recQ = s.recQ ++ [⟨r, d⟩] := rfl
@[simp] theorem State.post_irqs (s : State) (r : RingId) (d : List Byte) : (s.post r d).irqs = s.irqs := rfl
@[simp] theorem State.post_mbox (s : State) (r : RingId) (d : List Byte) : (s.post r d).mbox = s.mbox := rfl
@[simp] theorem State.post_dies (s : State) (r : RingId) (d : List Byte) : (s.post r d).dies = s.dies := rfl
@[simp] theorem State.post_cps (s : State) (r : RingId) (d : List Byte) : (s.post r d).cps = s.cps := rfl
@[simp] theorem State.post_conn (s : State) (r : RingId) (d : List Byte) : (s.post r d).conn = s.conn := rfl
@[simp] theorem State.post_retune (s : State) (r : RingId) (d : List Byte) : (s.post r d).retune = s.retune := rfl
@[simp] theorem State.post_tuned (s : State) (r : RingId) (d : List Byte) : (s.post r d).tuned = s.tuned := rfl
@[simp] theorem State.post_tgroups (s : State) (r : RingId) (d : List Byte) : (s.post r d).tgroups = s.tgroups := rfl
@[simp] theorem State.post_peers (s : State) (r : RingId) (d : List Byte) : (s.post r d).peers = s.peers := rfl
@[simp] theorem State.post_devtime (s : State) (r : RingId) (d : List Byte) : (s.post r d).devtime = s.devtime := rfl
@[simp] theorem State.post_frame (s : State) (r : RingId) (d : List Byte) : (s.post r d).frame = s.frame := rfl
@[simp] theorem State.post_reals (s : State) (r : RingId) (d : List Byte) : (s.post r d).reals = s.reals := rfl
@[simp] theorem State.post_pwr (s : State) (r : RingId) (d : List Byte) : (s.post r d).pwr = s.pwr := rfl

/-! ## State.setWord -/

@[simp] theorem State.setWord_active (s : State) (k : Nat) (w : XWord) : (s.setWord k w).active = s.active := rfl
@[simp] theorem State.setWord_turn (s : State) (k : Nat) (w : XWord) : (s.setWord k w).turn = s.turn := rfl
@[simp] theorem State.setWord_inputs (s : State) (k : Nat) (w : XWord) : (s.setWord k w).inputs = s.inputs := rfl
@[simp] theorem State.setWord_choices (s : State) (k : Nat) (w : XWord) : (s.setWord k w).choices = s.choices := rfl
@[simp] theorem State.setWord_frees (s : State) (k : Nat) (w : XWord) : (s.setWord k w).frees = s.frees := rfl
@[simp] theorem State.setWord_units (s : State) (k : Nat) (w : XWord) : (s.setWord k w).units = s.units := rfl
@[simp] theorem State.setWord_tasks (s : State) (k : Nat) (w : XWord) : (s.setWord k w).tasks = s.tasks := rfl
@[simp] theorem State.setWord_spawns (s : State) (k : Nat) (w : XWord) : (s.setWord k w).spawns = s.spawns := rfl
@[simp] theorem State.setWord_launches (s : State) (k : Nat) (w : XWord) : (s.setWord k w).launches = s.launches := rfl
@[simp] theorem State.setWord_lnext (s : State) (k : Nat) (w : XWord) : (s.setWord k w).lnext = s.lnext := rfl
@[simp] theorem State.setWord_gangs (s : State) (k : Nat) (w : XWord) : (s.setWord k w).gangs = s.gangs := rfl
@[simp] theorem State.setWord_gres (s : State) (k : Nat) (w : XWord) : (s.setWord k w).gres = s.gres := rfl
@[simp] theorem State.setWord_fns (s : State) (k : Nat) (w : XWord) : (s.setWord k w).fns = s.fns := rfl
@[simp] theorem State.setWord_asids (s : State) (k : Nat) (w : XWord) : (s.setWord k w).asids = s.asids := rfl
@[simp] theorem State.setWord_clstore (s : State) (k : Nat) (w : XWord) : (s.setWord k w).clstore = s.clstore := rfl
@[simp] theorem State.setWord_clused (s : State) (k : Nat) (w : XWord) : (s.setWord k w).clused = s.clused := rfl
@[simp] theorem State.setWord_dev (s : State) (k : Nat) (w : XWord) : (s.setWord k w).dev = s.dev := rfl
@[simp] theorem State.setWord_hostMem (s : State) (k : Nat) (w : XWord) : (s.setWord k w).hostMem = s.hostMem := rfl
@[simp] theorem State.setWord_peerMem (s : State) (k : Nat) (w : XWord) : (s.setWord k w).peerMem = s.peerMem := rfl
@[simp] theorem State.setWord_xwords (s : State) (k : Nat) (w : XWord) : (s.setWord k w).xwords = s.xwords.put k w := rfl
@[simp] theorem State.setWord_xnext (s : State) (k : Nat) (w : XWord) : (s.setWord k w).xnext = s.xnext := rfl
@[simp] theorem State.setWord_xin (s : State) (k : Nat) (w : XWord) : (s.setWord k w).xin = s.xin := rfl
@[simp] theorem State.setWord_ratoms (s : State) (k : Nat) (w : XWord) : (s.setWord k w).ratoms = s.ratoms := rfl
@[simp] theorem State.setWord_tlb (s : State) (k : Nat) (w : XWord) : (s.setWord k w).tlb = s.tlb := rfl
@[simp] theorem State.setWord_utlb (s : State) (k : Nat) (w : XWord) : (s.setWord k w).utlb = s.utlb := rfl
@[simp] theorem State.setWord_wpages (s : State) (k : Nat) (w : XWord) : (s.setWord k w).wpages = s.wpages := rfl
@[simp] theorem State.setWord_stalls (s : State) (k : Nat) (w : XWord) : (s.setWord k w).stalls = s.stalls := rfl
@[simp] theorem State.setWord_tagNext (s : State) (k : Nat) (w : XWord) : (s.setWord k w).tagNext = s.tagNext := rfl
@[simp] theorem State.setWord_uncache (s : State) (k : Nat) (w : XWord) : (s.setWord k w).uncache = s.uncache := rfl
@[simp] theorem State.setWord_unNext (s : State) (k : Nat) (w : XWord) : (s.setWord k w).unNext = s.unNext := rfl
@[simp] theorem State.setWord_founds (s : State) (k : Nat) (w : XWord) : (s.setWord k w).founds = s.founds := rfl
@[simp] theorem State.setWord_lostsev (s : State) (k : Nat) (w : XWord) : (s.setWord k w).lostsev = s.lostsev := rfl
@[simp] theorem State.setWord_cells (s : State) (k : Nat) (w : XWord) : (s.setWord k w).cells = s.cells := rfl
@[simp] theorem State.setWord_upsets (s : State) (k : Nat) (w : XWord) : (s.setWord k w).upsets = s.upsets := rfl
@[simp] theorem State.setWord_colQ (s : State) (k : Nat) (w : XWord) : (s.setWord k w).colQ = s.colQ := rfl
@[simp] theorem State.setWord_answer (s : State) (k : Nat) (w : XWord) : (s.setWord k w).answer = s.answer := rfl
@[simp] theorem State.setWord_keys (s : State) (k : Nat) (w : XWord) : (s.setWord k w).keys = s.keys := rfl
@[simp] theorem State.setWord_dests (s : State) (k : Nat) (w : XWord) : (s.setWord k w).dests = s.dests := rfl
@[simp] theorem State.setWord_policies (s : State) (k : Nat) (w : XWord) : (s.setWord k w).policies = s.policies := rfl
@[simp] theorem State.setWord_frozen (s : State) (k : Nat) (w : XWord) : (s.setWord k w).frozen = s.frozen := rfl
@[simp] theorem State.setWord_rings (s : State) (k : Nat) (w : XWord) : (s.setWord k w).rings = s.rings := rfl
@[simp] theorem State.setWord_recQ (s : State) (k : Nat) (w : XWord) : (s.setWord k w).recQ = s.recQ := rfl
@[simp] theorem State.setWord_irqs (s : State) (k : Nat) (w : XWord) : (s.setWord k w).irqs = s.irqs := rfl
@[simp] theorem State.setWord_mbox (s : State) (k : Nat) (w : XWord) : (s.setWord k w).mbox = s.mbox := rfl
@[simp] theorem State.setWord_dies (s : State) (k : Nat) (w : XWord) : (s.setWord k w).dies = s.dies := rfl
@[simp] theorem State.setWord_cps (s : State) (k : Nat) (w : XWord) : (s.setWord k w).cps = s.cps := rfl
@[simp] theorem State.setWord_conn (s : State) (k : Nat) (w : XWord) : (s.setWord k w).conn = s.conn := rfl
@[simp] theorem State.setWord_retune (s : State) (k : Nat) (w : XWord) : (s.setWord k w).retune = s.retune := rfl
@[simp] theorem State.setWord_tuned (s : State) (k : Nat) (w : XWord) : (s.setWord k w).tuned = s.tuned := rfl
@[simp] theorem State.setWord_tgroups (s : State) (k : Nat) (w : XWord) : (s.setWord k w).tgroups = s.tgroups := rfl
@[simp] theorem State.setWord_peers (s : State) (k : Nat) (w : XWord) : (s.setWord k w).peers = s.peers := rfl
@[simp] theorem State.setWord_devtime (s : State) (k : Nat) (w : XWord) : (s.setWord k w).devtime = s.devtime := rfl
@[simp] theorem State.setWord_frame (s : State) (k : Nat) (w : XWord) : (s.setWord k w).frame = s.frame := rfl
@[simp] theorem State.setWord_reals (s : State) (k : Nat) (w : XWord) : (s.setWord k w).reals = s.reals := rfl
@[simp] theorem State.setWord_pwr (s : State) (k : Nat) (w : XWord) : (s.setWord k w).pwr = s.pwr := rfl

/-! ## Unit.due -/

@[simp] theorem Unit.due_mode (x : Unit) (c p l : Nat) (e : Eff) : (x.due c p l e).mode = x.mode := rfl
@[simp] theorem Unit.due_pc (x : Unit) (c p l : Nat) (e : Eff) : (x.due c p l e).pc = x.pc := rfl
@[simp] theorem Unit.due_iss (x : Unit) (c p l : Nat) (e : Eff) : (x.due c p l e).iss = x.iss := rfl
@[simp] theorem Unit.due_task (x : Unit) (c p l : Nat) (e : Eff) : (x.due c p l e).task = x.task := rfl
@[simp] theorem Unit.due_regs (x : Unit) (c p l : Nat) (e : Eff) : (x.due c p l e).regs = x.regs := rfl
@[simp] theorem Unit.due_vol (x : Unit) (c p l : Nat) (e : Eff) : (x.due c p l e).vol = x.vol := rfl
@[simp] theorem Unit.due_que (x : Unit) (c p l : Nat) (e : Eff) : (x.due c p l e).que = x.que := rfl
@[simp] theorem Unit.due_seg (x : Unit) (c p l : Nat) (e : Eff) : (x.due c p l e).seg = x.seg := rfl
@[simp] theorem Unit.due_pend (x : Unit) (c p l : Nat) (e : Eff) : (x.due c p l e).pend = insertDue ⟨c, p, l, x.iss.cyc, e⟩ x.pend := rfl
@[simp] theorem Unit.due_code (x : Unit) (c p l : Nat) (e : Eff) : (x.due c p l e).code = x.code := rfl
@[simp] theorem Unit.due_codeN (x : Unit) (c p l : Nat) (e : Eff) : (x.due c p l e).codeN = x.codeN := rfl
@[simp] theorem Unit.due_spad (x : Unit) (c p l : Nat) (e : Eff) : (x.due c p l e).spad = x.spad := rfl
@[simp] theorem Unit.due_defer (x : Unit) (c p l : Nat) (e : Eff) : (x.due c p l e).defer = x.defer := rfl
@[simp] theorem Unit.due_snap (x : Unit) (c p l : Nat) (e : Eff) : (x.due c p l e).snap = x.snap := rfl
@[simp] theorem Unit.due_snapM (x : Unit) (c p l : Nat) (e : Eff) : (x.due c p l e).snapM = x.snapM := rfl
@[simp] theorem Unit.due_real (x : Unit) (c p l : Nat) (e : Eff) : (x.due c p l e).real = x.real := rfl
@[simp] theorem Unit.due_order (x : Unit) (c p l : Nat) (e : Eff) : (x.due c p l e).order = x.order := rfl
@[simp] theorem Unit.due_ring (x : Unit) (c p l : Nat) (e : Eff) : (x.due c p l e).ring = x.ring := rfl
@[simp] theorem Unit.due_segs (x : Unit) (c p l : Nat) (e : Eff) : (x.due c p l e).segs = x.segs := rfl
@[simp] theorem Unit.due_quar (x : Unit) (c p l : Nat) (e : Eff) : (x.due c p l e).quar = x.quar := rfl
@[simp] theorem Unit.due_snapPc (x : Unit) (c p l : Nat) (e : Eff) : (x.due c p l e).snapPc = x.snapPc := rfl
@[simp] theorem Unit.due_snapOrd (x : Unit) (c p l : Nat) (e : Eff) : (x.due c p l e).snapOrd = x.snapOrd := rfl
@[simp] theorem Unit.due_unMark (x : Unit) (c p l : Nat) (e : Eff) : (x.due c p l e).unMark = x.unMark := rfl
@[simp] theorem Unit.due_since (x : Unit) (c p l : Nat) (e : Eff) : (x.due c p l e).since = x.since := rfl
@[simp] theorem Unit.due_saving (x : Unit) (c p l : Nat) (e : Eff) : (x.due c p l e).saving = x.saving := rfl
@[simp] theorem Unit.due_saveNext (x : Unit) (c p l : Nat) (e : Eff) : (x.due c p l e).saveNext = x.saveNext := rfl
@[simp] theorem Unit.due_owes (x : Unit) (c p l : Nat) (e : Eff) : (x.due c p l e).owes = x.owes := rfl

/-! ## Unit.setS -/

@[simp] theorem Unit.setS_mode (x : Unit) (i : Nat) (v : Lv 64) : (x.setS i v).mode = x.mode := rfl
@[simp] theorem Unit.setS_pc (x : Unit) (i : Nat) (v : Lv 64) : (x.setS i v).pc = x.pc := rfl
@[simp] theorem Unit.setS_iss (x : Unit) (i : Nat) (v : Lv 64) : (x.setS i v).iss = x.iss := rfl
@[simp] theorem Unit.setS_task (x : Unit) (i : Nat) (v : Lv 64) : (x.setS i v).task = x.task := rfl
@[simp] theorem Unit.setS_regs (x : Unit) (i : Nat) (v : Lv 64) : (x.setS i v).regs = { x.regs with s := x.regs.s.put i v } := rfl
@[simp] theorem Unit.setS_vol (x : Unit) (i : Nat) (v : Lv 64) : (x.setS i v).vol = x.vol := rfl
@[simp] theorem Unit.setS_que (x : Unit) (i : Nat) (v : Lv 64) : (x.setS i v).que = x.que := rfl
@[simp] theorem Unit.setS_seg (x : Unit) (i : Nat) (v : Lv 64) : (x.setS i v).seg = x.seg := rfl
@[simp] theorem Unit.setS_pend (x : Unit) (i : Nat) (v : Lv 64) : (x.setS i v).pend = x.pend := rfl
@[simp] theorem Unit.setS_code (x : Unit) (i : Nat) (v : Lv 64) : (x.setS i v).code = x.code := rfl
@[simp] theorem Unit.setS_codeN (x : Unit) (i : Nat) (v : Lv 64) : (x.setS i v).codeN = x.codeN := rfl
@[simp] theorem Unit.setS_spad (x : Unit) (i : Nat) (v : Lv 64) : (x.setS i v).spad = x.spad := rfl
@[simp] theorem Unit.setS_defer (x : Unit) (i : Nat) (v : Lv 64) : (x.setS i v).defer = x.defer := rfl
@[simp] theorem Unit.setS_snap (x : Unit) (i : Nat) (v : Lv 64) : (x.setS i v).snap = x.snap := rfl
@[simp] theorem Unit.setS_snapM (x : Unit) (i : Nat) (v : Lv 64) : (x.setS i v).snapM = x.snapM := rfl
@[simp] theorem Unit.setS_real (x : Unit) (i : Nat) (v : Lv 64) : (x.setS i v).real = x.real := rfl
@[simp] theorem Unit.setS_order (x : Unit) (i : Nat) (v : Lv 64) : (x.setS i v).order = x.order := rfl
@[simp] theorem Unit.setS_ring (x : Unit) (i : Nat) (v : Lv 64) : (x.setS i v).ring = x.ring := rfl
@[simp] theorem Unit.setS_segs (x : Unit) (i : Nat) (v : Lv 64) : (x.setS i v).segs = x.segs := rfl
@[simp] theorem Unit.setS_quar (x : Unit) (i : Nat) (v : Lv 64) : (x.setS i v).quar = x.quar := rfl
@[simp] theorem Unit.setS_snapPc (x : Unit) (i : Nat) (v : Lv 64) : (x.setS i v).snapPc = x.snapPc := rfl
@[simp] theorem Unit.setS_snapOrd (x : Unit) (i : Nat) (v : Lv 64) : (x.setS i v).snapOrd = x.snapOrd := rfl
@[simp] theorem Unit.setS_unMark (x : Unit) (i : Nat) (v : Lv 64) : (x.setS i v).unMark = x.unMark := rfl
@[simp] theorem Unit.setS_since (x : Unit) (i : Nat) (v : Lv 64) : (x.setS i v).since = x.since := rfl
@[simp] theorem Unit.setS_saving (x : Unit) (i : Nat) (v : Lv 64) : (x.setS i v).saving = x.saving := rfl
@[simp] theorem Unit.setS_saveNext (x : Unit) (i : Nat) (v : Lv 64) : (x.setS i v).saveNext = x.saveNext := rfl
@[simp] theorem Unit.setS_owes (x : Unit) (i : Nat) (v : Lv 64) : (x.setS i v).owes = x.owes := rfl

/-! ## Unit.setD -/

@[simp] theorem Unit.setD_mode (x : Unit) (i : Nat) (d : Desc) : (x.setD i d).mode = x.mode := rfl
@[simp] theorem Unit.setD_pc (x : Unit) (i : Nat) (d : Desc) : (x.setD i d).pc = x.pc := rfl
@[simp] theorem Unit.setD_iss (x : Unit) (i : Nat) (d : Desc) : (x.setD i d).iss = x.iss := rfl
@[simp] theorem Unit.setD_task (x : Unit) (i : Nat) (d : Desc) : (x.setD i d).task = x.task := rfl
@[simp] theorem Unit.setD_regs (x : Unit) (i : Nat) (d : Desc) : (x.setD i d).regs = { x.regs with d := x.regs.d.put i d } := rfl
@[simp] theorem Unit.setD_vol (x : Unit) (i : Nat) (d : Desc) : (x.setD i d).vol = x.vol := rfl
@[simp] theorem Unit.setD_que (x : Unit) (i : Nat) (d : Desc) : (x.setD i d).que = x.que := rfl
@[simp] theorem Unit.setD_seg (x : Unit) (i : Nat) (d : Desc) : (x.setD i d).seg = x.seg := rfl
@[simp] theorem Unit.setD_pend (x : Unit) (i : Nat) (d : Desc) : (x.setD i d).pend = x.pend := rfl
@[simp] theorem Unit.setD_code (x : Unit) (i : Nat) (d : Desc) : (x.setD i d).code = x.code := rfl
@[simp] theorem Unit.setD_codeN (x : Unit) (i : Nat) (d : Desc) : (x.setD i d).codeN = x.codeN := rfl
@[simp] theorem Unit.setD_spad (x : Unit) (i : Nat) (d : Desc) : (x.setD i d).spad = x.spad := rfl
@[simp] theorem Unit.setD_defer (x : Unit) (i : Nat) (d : Desc) : (x.setD i d).defer = x.defer := rfl
@[simp] theorem Unit.setD_snap (x : Unit) (i : Nat) (d : Desc) : (x.setD i d).snap = x.snap := rfl
@[simp] theorem Unit.setD_snapM (x : Unit) (i : Nat) (d : Desc) : (x.setD i d).snapM = x.snapM := rfl
@[simp] theorem Unit.setD_real (x : Unit) (i : Nat) (d : Desc) : (x.setD i d).real = x.real := rfl
@[simp] theorem Unit.setD_order (x : Unit) (i : Nat) (d : Desc) : (x.setD i d).order = x.order := rfl
@[simp] theorem Unit.setD_ring (x : Unit) (i : Nat) (d : Desc) : (x.setD i d).ring = x.ring := rfl
@[simp] theorem Unit.setD_segs (x : Unit) (i : Nat) (d : Desc) : (x.setD i d).segs = x.segs := rfl
@[simp] theorem Unit.setD_quar (x : Unit) (i : Nat) (d : Desc) : (x.setD i d).quar = x.quar := rfl
@[simp] theorem Unit.setD_snapPc (x : Unit) (i : Nat) (d : Desc) : (x.setD i d).snapPc = x.snapPc := rfl
@[simp] theorem Unit.setD_snapOrd (x : Unit) (i : Nat) (d : Desc) : (x.setD i d).snapOrd = x.snapOrd := rfl
@[simp] theorem Unit.setD_unMark (x : Unit) (i : Nat) (d : Desc) : (x.setD i d).unMark = x.unMark := rfl
@[simp] theorem Unit.setD_since (x : Unit) (i : Nat) (d : Desc) : (x.setD i d).since = x.since := rfl
@[simp] theorem Unit.setD_saving (x : Unit) (i : Nat) (d : Desc) : (x.setD i d).saving = x.saving := rfl
@[simp] theorem Unit.setD_saveNext (x : Unit) (i : Nat) (d : Desc) : (x.setD i d).saveNext = x.saveNext := rfl
@[simp] theorem Unit.setD_owes (x : Unit) (i : Nat) (d : Desc) : (x.setD i d).owes = x.owes := rfl

/-! ## Unit.setCnt -/

@[simp] theorem Unit.setCnt_mode (x : Unit) (l : BitVec 32) (d : BitVec 16) : (x.setCnt l d).mode = x.mode := rfl
@[simp] theorem Unit.setCnt_pc (x : Unit) (l : BitVec 32) (d : BitVec 16) : (x.setCnt l d).pc = x.pc := rfl
@[simp] theorem Unit.setCnt_iss (x : Unit) (l : BitVec 32) (d : BitVec 16) : (x.setCnt l d).iss = x.iss := rfl
@[simp] theorem Unit.setCnt_task (x : Unit) (l : BitVec 32) (d : BitVec 16) : (x.setCnt l d).task = x.task := rfl
@[simp] theorem Unit.setCnt_regs (x : Unit) (l : BitVec 32) (d : BitVec 16) : (x.setCnt l d).regs = { x.regs with lcnt := l, dcnt := d } := rfl
@[simp] theorem Unit.setCnt_vol (x : Unit) (l : BitVec 32) (d : BitVec 16) : (x.setCnt l d).vol = x.vol := rfl
@[simp] theorem Unit.setCnt_que (x : Unit) (l : BitVec 32) (d : BitVec 16) : (x.setCnt l d).que = x.que := rfl
@[simp] theorem Unit.setCnt_seg (x : Unit) (l : BitVec 32) (d : BitVec 16) : (x.setCnt l d).seg = x.seg := rfl
@[simp] theorem Unit.setCnt_pend (x : Unit) (l : BitVec 32) (d : BitVec 16) : (x.setCnt l d).pend = x.pend := rfl
@[simp] theorem Unit.setCnt_code (x : Unit) (l : BitVec 32) (d : BitVec 16) : (x.setCnt l d).code = x.code := rfl
@[simp] theorem Unit.setCnt_codeN (x : Unit) (l : BitVec 32) (d : BitVec 16) : (x.setCnt l d).codeN = x.codeN := rfl
@[simp] theorem Unit.setCnt_spad (x : Unit) (l : BitVec 32) (d : BitVec 16) : (x.setCnt l d).spad = x.spad := rfl
@[simp] theorem Unit.setCnt_defer (x : Unit) (l : BitVec 32) (d : BitVec 16) : (x.setCnt l d).defer = x.defer := rfl
@[simp] theorem Unit.setCnt_snap (x : Unit) (l : BitVec 32) (d : BitVec 16) : (x.setCnt l d).snap = x.snap := rfl
@[simp] theorem Unit.setCnt_snapM (x : Unit) (l : BitVec 32) (d : BitVec 16) : (x.setCnt l d).snapM = x.snapM := rfl
@[simp] theorem Unit.setCnt_real (x : Unit) (l : BitVec 32) (d : BitVec 16) : (x.setCnt l d).real = x.real := rfl
@[simp] theorem Unit.setCnt_order (x : Unit) (l : BitVec 32) (d : BitVec 16) : (x.setCnt l d).order = x.order := rfl
@[simp] theorem Unit.setCnt_ring (x : Unit) (l : BitVec 32) (d : BitVec 16) : (x.setCnt l d).ring = x.ring := rfl
@[simp] theorem Unit.setCnt_segs (x : Unit) (l : BitVec 32) (d : BitVec 16) : (x.setCnt l d).segs = x.segs := rfl
@[simp] theorem Unit.setCnt_quar (x : Unit) (l : BitVec 32) (d : BitVec 16) : (x.setCnt l d).quar = x.quar := rfl
@[simp] theorem Unit.setCnt_snapPc (x : Unit) (l : BitVec 32) (d : BitVec 16) : (x.setCnt l d).snapPc = x.snapPc := rfl
@[simp] theorem Unit.setCnt_snapOrd (x : Unit) (l : BitVec 32) (d : BitVec 16) : (x.setCnt l d).snapOrd = x.snapOrd := rfl
@[simp] theorem Unit.setCnt_unMark (x : Unit) (l : BitVec 32) (d : BitVec 16) : (x.setCnt l d).unMark = x.unMark := rfl
@[simp] theorem Unit.setCnt_since (x : Unit) (l : BitVec 32) (d : BitVec 16) : (x.setCnt l d).since = x.since := rfl
@[simp] theorem Unit.setCnt_saving (x : Unit) (l : BitVec 32) (d : BitVec 16) : (x.setCnt l d).saving = x.saving := rfl
@[simp] theorem Unit.setCnt_saveNext (x : Unit) (l : BitVec 32) (d : BitVec 16) : (x.setCnt l d).saveNext = x.saveNext := rfl
@[simp] theorem Unit.setCnt_owes (x : Unit) (l : BitVec 32) (d : BitVec 16) : (x.setCnt l d).owes = x.owes := rfl

/-! ## Unit.setBase -/

@[simp] theorem Unit.setBase_mode (x : Unit) (r p : BitVec 4) : (x.setBase r p).mode = x.mode := rfl
@[simp] theorem Unit.setBase_pc (x : Unit) (r p : BitVec 4) : (x.setBase r p).pc = x.pc := rfl
@[simp] theorem Unit.setBase_iss (x : Unit) (r p : BitVec 4) : (x.setBase r p).iss = x.iss := rfl
@[simp] theorem Unit.setBase_task (x : Unit) (r p : BitVec 4) : (x.setBase r p).task = x.task := rfl
@[simp] theorem Unit.setBase_regs (x : Unit) (r p : BitVec 4) : (x.setBase r p).regs = { x.regs with rbase := r, pbase := p } := rfl
@[simp] theorem Unit.setBase_vol (x : Unit) (r p : BitVec 4) : (x.setBase r p).vol = x.vol := rfl
@[simp] theorem Unit.setBase_que (x : Unit) (r p : BitVec 4) : (x.setBase r p).que = x.que := rfl
@[simp] theorem Unit.setBase_seg (x : Unit) (r p : BitVec 4) : (x.setBase r p).seg = x.seg := rfl
@[simp] theorem Unit.setBase_pend (x : Unit) (r p : BitVec 4) : (x.setBase r p).pend = x.pend := rfl
@[simp] theorem Unit.setBase_code (x : Unit) (r p : BitVec 4) : (x.setBase r p).code = x.code := rfl
@[simp] theorem Unit.setBase_codeN (x : Unit) (r p : BitVec 4) : (x.setBase r p).codeN = x.codeN := rfl
@[simp] theorem Unit.setBase_spad (x : Unit) (r p : BitVec 4) : (x.setBase r p).spad = x.spad := rfl
@[simp] theorem Unit.setBase_defer (x : Unit) (r p : BitVec 4) : (x.setBase r p).defer = x.defer := rfl
@[simp] theorem Unit.setBase_snap (x : Unit) (r p : BitVec 4) : (x.setBase r p).snap = x.snap := rfl
@[simp] theorem Unit.setBase_snapM (x : Unit) (r p : BitVec 4) : (x.setBase r p).snapM = x.snapM := rfl
@[simp] theorem Unit.setBase_real (x : Unit) (r p : BitVec 4) : (x.setBase r p).real = x.real := rfl
@[simp] theorem Unit.setBase_order (x : Unit) (r p : BitVec 4) : (x.setBase r p).order = x.order := rfl
@[simp] theorem Unit.setBase_ring (x : Unit) (r p : BitVec 4) : (x.setBase r p).ring = x.ring := rfl
@[simp] theorem Unit.setBase_segs (x : Unit) (r p : BitVec 4) : (x.setBase r p).segs = x.segs := rfl
@[simp] theorem Unit.setBase_quar (x : Unit) (r p : BitVec 4) : (x.setBase r p).quar = x.quar := rfl
@[simp] theorem Unit.setBase_snapPc (x : Unit) (r p : BitVec 4) : (x.setBase r p).snapPc = x.snapPc := rfl
@[simp] theorem Unit.setBase_snapOrd (x : Unit) (r p : BitVec 4) : (x.setBase r p).snapOrd = x.snapOrd := rfl
@[simp] theorem Unit.setBase_unMark (x : Unit) (r p : BitVec 4) : (x.setBase r p).unMark = x.unMark := rfl
@[simp] theorem Unit.setBase_since (x : Unit) (r p : BitVec 4) : (x.setBase r p).since = x.since := rfl
@[simp] theorem Unit.setBase_saving (x : Unit) (r p : BitVec 4) : (x.setBase r p).saving = x.saving := rfl
@[simp] theorem Unit.setBase_saveNext (x : Unit) (r p : BitVec 4) : (x.setBase r p).saveNext = x.saveNext := rfl
@[simp] theorem Unit.setBase_owes (x : Unit) (r p : BitVec 4) : (x.setBase r p).owes = x.owes := rfl

/-! ## Unit.arriveNow -/

@[simp] theorem Unit.arriveNow_mode (x : Unit) (v : Lv 64) : (x.arriveNow v).mode = x.mode := rfl
@[simp] theorem Unit.arriveNow_pc (x : Unit) (v : Lv 64) : (x.arriveNow v).pc = x.pc := rfl
@[simp] theorem Unit.arriveNow_iss (x : Unit) (v : Lv 64) : (x.arriveNow v).iss = x.iss := rfl
@[simp] theorem Unit.arriveNow_task (x : Unit) (v : Lv 64) : (x.arriveNow v).task = x.task := rfl
@[simp] theorem Unit.arriveNow_regs (x : Unit) (v : Lv 64) : (x.arriveNow v).regs = x.regs := rfl
@[simp] theorem Unit.arriveNow_vol (x : Unit) (v : Lv 64) : (x.arriveNow v).vol = { x.vol with q := (v :: x.vol.q).take 16, lat := v, latIss := some (2 ^ 32) } := rfl
@[simp] theorem Unit.arriveNow_que (x : Unit) (v : Lv 64) : (x.arriveNow v).que = x.que := rfl
@[simp] theorem Unit.arriveNow_seg (x : Unit) (v : Lv 64) : (x.arriveNow v).seg = x.seg := rfl
@[simp] theorem Unit.arriveNow_pend (x : Unit) (v : Lv 64) : (x.arriveNow v).pend = x.pend := rfl
@[simp] theorem Unit.arriveNow_code (x : Unit) (v : Lv 64) : (x.arriveNow v).code = x.code := rfl
@[simp] theorem Unit.arriveNow_codeN (x : Unit) (v : Lv 64) : (x.arriveNow v).codeN = x.codeN := rfl
@[simp] theorem Unit.arriveNow_spad (x : Unit) (v : Lv 64) : (x.arriveNow v).spad = x.spad := rfl
@[simp] theorem Unit.arriveNow_defer (x : Unit) (v : Lv 64) : (x.arriveNow v).defer = x.defer := rfl
@[simp] theorem Unit.arriveNow_snap (x : Unit) (v : Lv 64) : (x.arriveNow v).snap = x.snap := rfl
@[simp] theorem Unit.arriveNow_snapM (x : Unit) (v : Lv 64) : (x.arriveNow v).snapM = x.snapM := rfl
@[simp] theorem Unit.arriveNow_real (x : Unit) (v : Lv 64) : (x.arriveNow v).real = x.real := rfl
@[simp] theorem Unit.arriveNow_order (x : Unit) (v : Lv 64) : (x.arriveNow v).order = x.order := rfl
@[simp] theorem Unit.arriveNow_ring (x : Unit) (v : Lv 64) : (x.arriveNow v).ring = x.ring := rfl
@[simp] theorem Unit.arriveNow_segs (x : Unit) (v : Lv 64) : (x.arriveNow v).segs = x.segs := rfl
@[simp] theorem Unit.arriveNow_quar (x : Unit) (v : Lv 64) : (x.arriveNow v).quar = x.quar := rfl
@[simp] theorem Unit.arriveNow_snapPc (x : Unit) (v : Lv 64) : (x.arriveNow v).snapPc = x.snapPc := rfl
@[simp] theorem Unit.arriveNow_snapOrd (x : Unit) (v : Lv 64) : (x.arriveNow v).snapOrd = x.snapOrd := rfl
@[simp] theorem Unit.arriveNow_unMark (x : Unit) (v : Lv 64) : (x.arriveNow v).unMark = x.unMark := rfl
@[simp] theorem Unit.arriveNow_since (x : Unit) (v : Lv 64) : (x.arriveNow v).since = x.since := rfl
@[simp] theorem Unit.arriveNow_saving (x : Unit) (v : Lv 64) : (x.arriveNow v).saving = x.saving := rfl
@[simp] theorem Unit.arriveNow_saveNext (x : Unit) (v : Lv 64) : (x.arriveNow v).saveNext = x.saveNext := rfl
@[simp] theorem Unit.arriveNow_owes (x : Unit) (v : Lv 64) : (x.arriveNow v).owes = x.owes := rfl

end Sys2Proof.Machine
end

