-- ==== Sys2Proof/Laws/Tab.lean ====
section
/-! SUPPORT. What reads and writes of a sparse table and of a byte memory do, and that every write keeps the canonical
form. -/

namespace Sys2Proof.Machine

variable {α : Type} [Inhabited α] [DecidableEq α]

@[simp] theorem Tab.get_nil (k : Nat) : Tab.get ([] : Tab α) k = default := rfl

/-- Another key reads as before. -/
theorem Tab.get_put_ne (t : Tab α) (k j : Nat) (v : α) (h : j ≠ k) : (t.put k v).get j = t.get j := by
  induction t with
  | nil => by_cases hv : v = default <;> simp [Tab.put, hv, Tab.get, h]
  | cons e r ih =>
    obtain ⟨k', v'⟩ := e
    simp only [Tab.put]
    split
    · split <;> simp [Tab.get, h]
    · split
      · subst_vars
        split <;> simp [Tab.get, h]
      · simp [Tab.get, ih]

/-- A value that is not the default reads back, whatever the table. -/
theorem Tab.get_put_of_ne (t : Tab α) (k : Nat) (v : α) (h : v ≠ default) : (t.put k v).get k = v := by
  induction t with
  | nil => simp [Tab.put, h, Tab.get]
  | cons e r ih =>
    obtain ⟨k', v'⟩ := e
    simp only [Tab.put, h, if_false]
    split
    · simp [Tab.get]
    · split
      · simp [Tab.get]
      · rename_i h2
        simp [Tab.get, h2, ih]

/-- Every key above `lo`, so `k` below it is not listed. -/
theorem Tab.get_of_lt (t : Tab α) (lo k : Nat) (h : t.wfFrom lo = true) (hk : k < lo) : t.get k = default := by
  induction t generalizing lo with
  | nil => rfl
  | cons e r ih =>
    obtain ⟨k', v'⟩ := e
    simp only [Tab.wfFrom, Bool.and_eq_true, decide_eq_true_eq] at h
    have : k ≠ k' := by omega
    simp only [Tab.get, this, if_false]
    exact ih (k' + 1) h.2 (by omega)

theorem Tab.wfFrom_mono (t : Tab α) (lo lo' : Nat) (h : t.wfFrom lo = true) (hl : lo' ≤ lo) : t.wfFrom lo' = true := by
  cases t with
  | nil => rfl
  | cons e r =>
    obtain ⟨k', v'⟩ := e
    simp only [Tab.wfFrom, Bool.and_eq_true, decide_eq_true_eq] at h ⊢
    exact ⟨⟨by omega, h.1.2⟩, h.2⟩

/-- In a canonical table what was written reads back. -/
theorem Tab.get_put_self_from (t : Tab α) (lo k : Nat) (v : α) (h : t.wfFrom lo = true) : (t.put k v).get k = v := by
  induction t generalizing lo with
  | nil => by_cases hv : v = default <;> simp [Tab.put, hv, Tab.get]
  | cons e r ih =>
    obtain ⟨k', v'⟩ := e
    simp only [Tab.wfFrom, Bool.and_eq_true, decide_eq_true_eq] at h
    simp only [Tab.put]
    split
    · rename_i hlt
      split
      · subst_vars
        have : k ≠ k' := by omega
        simp only [Tab.get, this, if_false]
        exact Tab.get_of_lt r (k' + 1) k h.2 (by omega)
      · simp [Tab.get]
    · split
      · rename_i h2
        subst h2
        split
        · subst_vars
          exact Tab.get_of_lt r (k + 1) k h.2 (by omega)
        · simp [Tab.get]
      · rename_i h2
        simp only [Tab.get, h2, if_false]
        exact ih (k' + 1) h.2

theorem Tab.get_put_self (t : Tab α) (k : Nat) (v : α) (h : t.wf = true) : (t.put k v).get k = v :=
  Tab.get_put_self_from t 0 k v h

theorem Tab.put_wfFrom (t : Tab α) (lo k : Nat) (v : α) (h : t.wfFrom lo = true) (hk : lo ≤ k) :
    (t.put k v).wfFrom lo = true := by
  induction t generalizing lo with
  | nil => by_cases hv : v = default <;> simp [Tab.put, hv, Tab.wfFrom, hk]
  | cons e r ih =>
    obtain ⟨k', v'⟩ := e
    have h0 := h
    simp only [Tab.wfFrom, Bool.and_eq_true, decide_eq_true_eq] at h
    simp only [Tab.put]
    split
    · rename_i hlt
      split
      · exact h0
      · rename_i hv
        simp only [Tab.wfFrom, Bool.and_eq_true, decide_eq_true_eq]
        exact ⟨⟨hk, hv⟩, ⟨by omega, h.1.2⟩, h.2⟩
    · split
      · rename_i h2
        subst h2
        split
        · exact Tab.wfFrom_mono r (k + 1) lo h.2 (by omega)
        · rename_i hv
          simp only [Tab.wfFrom, Bool.and_eq_true, decide_eq_true_eq]
          exact ⟨⟨hk, hv⟩, h.2⟩
      · simp only [Tab.wfFrom, Bool.and_eq_true, decide_eq_true_eq]
        exact ⟨h.1, ih (k' + 1) h.2 (by omega)⟩

/-- A write keeps the canonical form. -/
theorem Tab.put_wf (t : Tab α) (k : Nat) (v : α) (h : t.wf = true) : (t.put k v).wf = true :=
  Tab.put_wfFrom t 0 k v h (Nat.zero_le k)

theorem Tab.upd_wf (t : Tab α) (k : Nat) (f : α → α) (h : t.wf = true) : (t.upd k f).wf = true :=
  Tab.put_wf t k _ h

theorem Tab.get_upd_ne (t : Tab α) (k j : Nat) (f : α → α) (h : j ≠ k) : (t.upd k f).get j = t.get j :=
  Tab.get_put_ne t k j _ h

theorem Tab.get_upd_self (t : Tab α) (k : Nat) (f : α → α) (h : t.wf = true) : (t.upd k f).get k = f (t.get k) :=
  Tab.get_put_self t k _ h

/-- A second write of a key takes the first one's place, where the first is not the default. -/
theorem Tab.put_put_of_ne (t : Tab α) (k : Nat) (v w : α) (h : v ≠ default) : (t.put k v).put k w = t.put k w := by
  induction t with
  | nil => simp [Tab.put, h]
  | cons e r ih =>
    obtain ⟨k', v'⟩ := e
    simp only [Tab.put, h, if_false]
    split
    · simp [Tab.put]
    · split
      · simp [Tab.put]
      · rename_i h1 h2
        simp [Tab.put, h1, h2, ih]

/-- Some of the entries of a canonical table. -/
theorem Tab.filter_wfFrom (t : Tab α) (lo : Nat) (p : Nat × α → Bool) (h : t.wfFrom lo = true) :
    Tab.wfFrom (t.filter p) lo = true := by
  induction t generalizing lo with
  | nil => rfl
  | cons e r ih =>
    obtain ⟨k', v'⟩ := e
    simp only [Tab.wfFrom, Bool.and_eq_true, decide_eq_true_eq] at h
    simp only [List.filter_cons]
    split
    · simp only [Tab.wfFrom, Bool.and_eq_true, decide_eq_true_eq]
      exact ⟨h.1, ih (k' + 1) h.2⟩
    · exact Tab.wfFrom_mono _ (k' + 1) lo (ih (k' + 1) h.2) (by omega)

theorem Tab.filter_wf (t : Tab α) (p : Nat × α → Bool) (h : t.wf = true) : Tab.wf (t.filter p) = true :=
  Tab.filter_wfFrom t 0 p h

/-! ## Byte memories -/

theorem Mem.write_wf (m : Mem) (a : Nat) (bs : List Byte) (h : Memory.wf m = true) : Memory.wf (Mem.write m a bs) = true := by
  induction bs generalizing m a with
  | nil => exact h
  | cons b r ih => exact ih _ _ (Tab.put_wf m a b h)

theorem Mem.writes_wf (m : Mem) (ws : List (Nat × Byte)) (h : Memory.wf m = true) : Memory.wf (Mem.writes m ws) = true := by
  induction ws generalizing m with
  | nil => exact h
  | cons e r ih => exact ih _ (Tab.put_wf m e.1 e.2 h)

/-- Bytes outside the run read as before. -/
theorem Mem.get_write_out (m : Mem) (a j : Nat) (bs : List Byte) (h : j < a ∨ a + bs.length ≤ j) :
    Tab.get (Mem.write m a bs) j = Tab.get m j := by
  induction bs generalizing m a with
  | nil => rfl
  | cons b r ih =>
    simp only [Mem.write]
    rw [ih _ (a + 1) (by simp at h; omega)]
    exact Tab.get_put_ne m a j b (by simp at h; omega)

/-- Bytes of the run read as written. -/
theorem Mem.get_write_in (m : Mem) (a i : Nat) (bs : List Byte) (h : Memory.wf m = true) (hi : i < bs.length) :
    Tab.get (Mem.write m a bs) (a + i) = bs[i] := by
  induction bs generalizing m a i with
  | nil => simp at hi
  | cons b r ih =>
    simp only [Mem.write]
    cases i with
    | zero =>
      rw [Mem.get_write_out _ (a + 1) (a + 0) r (by omega)]
      exact Tab.get_put_self m a b h
    | succ i =>
      have := ih (Tab.put m a b) (a + 1) i (Tab.put_wf m a b h) (by simp at hi; omega)
      rw [show a + (i + 1) = a + 1 + i by omega]
      simpa using this

/-- A byte no pair names reads as before. -/
theorem Mem.get_writes_out (m : Mem) (ws : List (Nat × Byte)) (j : Nat) (h : ∀ e ∈ ws, e.1 ≠ j) :
    Tab.get (Mem.writes m ws) j = Tab.get m j := by
  induction ws generalizing m with
  | nil => rfl
  | cons e r ih =>
    simp only [Mem.writes]
    rw [ih _ (fun x hx => h x (List.mem_cons_of_mem _ hx))]
    exact Tab.get_put_ne m e.1 j e.2 (fun hj => h e (List.mem_cons_self) hj.symm)

theorem leBytes_length (n v : Nat) : (leBytes n v).length = n := by
  induction n generalizing v with
  | zero => rfl
  | succ n ih => simp [leBytes, ih]

/-- The little-endian bytes of a number, read back, are the number modulo their range. -/
theorem leNat_leBytes (n v : Nat) : leNat (leBytes n v) = v % 256 ^ n := by
  induction n generalizing v with
  | zero => simp [leBytes, leNat, Nat.mod_one]
  | succ n ih =>
    simp only [leBytes, leNat, ih, BitVec.toNat_ofNat]
    have h : v % 256 ^ (n + 1) = v % 256 + 256 * (v / 256 % 256 ^ n) := by
      rw [show (256 : Nat) ^ (n + 1) = 256 * 256 ^ n by ring, Nat.mod_mul]
    omega

end Sys2Proof.Machine
end

