-- ==== Sys2Proof/Laws/Ops.lean ====
section
/-! SUPPORT. What the shared operations over units do: changes of the active unit one after another, the guard, the label
it raises, and the delivery of results. -/

namespace Sys2Proof.Machine

/-! ## The active unit -/

/-- A unit that does something is not the entry an unlisted key reads as. -/
theorem Unit.ne_default {x : Unit} (h : x.mode ≠ .idle) : x ≠ default := fun e => h (by rw [e]; rfl)

theorem State.unit_setUnit_ne (s : State) (u v : Nat) (x : Unit) (h : v ≠ u) : (s.setUnit u x).unit v = s.unit v :=
  Tab.get_put_ne s.units u v x h

theorem State.unit_setUnit_self (s : State) (u : Nat) (x : Unit) (h : x.mode ≠ .idle) : (s.setUnit u x).unit u = x :=
  Tab.get_put_of_ne s.units u x (Unit.ne_default h)

/-- In a canonical unit table a unit reads as it was stored, an idle one too. -/
theorem State.unit_setUnit_self_wf (s : State) (u : Nat) (x : Unit) (h : Tab.wf s.units = true) :
    (s.setUnit u x).unit u = x := Tab.get_put_self s.units u x h

theorem State.unit_modMe_ne (s : State) (f : Unit → Unit) (v : Nat) (h : v ≠ s.active) : (s.modMe f).unit v = s.unit v :=
  s.unit_setUnit_ne s.active v (f s.me) h

theorem State.me_modMe (s : State) (f : Unit → Unit) (h : (f s.me).mode ≠ .idle) : (s.modMe f).me = f s.me :=
  s.unit_setUnit_self s.active (f s.me) h

/-- Two changes of the active unit are one. -/
theorem State.modMe_modMe (s : State) (f g : Unit → Unit) (h : (f s.me).mode ≠ .idle) :
    (s.modMe f).modMe g = s.modMe fun x => g (f x) := by
  have hm := s.me_modMe f h
  show (s.modMe f).setUnit (s.modMe f).active (g (s.modMe f).me) = s.setUnit s.active (g (f s.me))
  rw [hm]
  simp only [State.modMe, State.modUnit, State.setUnit, State.mk.injEq, true_and, and_true]
  exact Tab.put_put_of_ne s.units s.active (f s.me) (g (f s.me)) (Unit.ne_default h)

theorem State.modMe_congr (s : State) (f g : Unit → Unit) (h : f s.me = g s.me) : s.modMe f = s.modMe g := by
  show s.setUnit s.active (f s.me) = s.setUnit s.active (g s.me)
  rw [h]

/-- Only the table of units changes. -/
theorem State.modMe_eq (s : State) (f : Unit → Unit) : s.modMe f = { s with units := s.units.put s.active (f s.me) } := rfl

/-! ## The guard and its label -/

/-- Raising LBLPC changes the effects to come or LBLPC, and nothing else of a unit. -/
theorem Unit.raiseLbl_cases (x : Unit) (l : Label) :
    x.raiseLbl l = { x with pend := (x.raiseLbl l).pend, vol := { x.vol with lblpc := (x.raiseLbl l).vol.lblpc } } := by
  unfold Unit.raiseLbl Unit.due
  split
  · rfl
  · split <;> rfl

section
variable (x : Unit) (l : Label)

@[simp] theorem Unit.raiseLbl_mode : (x.raiseLbl l).mode = x.mode := by rw [Unit.raiseLbl_cases]
@[simp] theorem Unit.raiseLbl_iss : (x.raiseLbl l).iss = x.iss := by rw [Unit.raiseLbl_cases]
@[simp] theorem Unit.raiseLbl_regs : (x.raiseLbl l).regs = x.regs := by rw [Unit.raiseLbl_cases]
@[simp] theorem Unit.raiseLbl_task : (x.raiseLbl l).task = x.task := by rw [Unit.raiseLbl_cases]
@[simp] theorem Unit.raiseLbl_seg : (x.raiseLbl l).seg = x.seg := by rw [Unit.raiseLbl_cases]
@[simp] theorem Unit.raiseLbl_que : (x.raiseLbl l).que = x.que := by rw [Unit.raiseLbl_cases]
@[simp] theorem Unit.raiseLbl_spad : (x.raiseLbl l).spad = x.spad := by rw [Unit.raiseLbl_cases]
@[simp] theorem Unit.raiseLbl_k : (x.raiseLbl l).vol.k = x.vol.k := by rw [Unit.raiseLbl_cases]
@[simp] theorem Unit.raiseLbl_codeL : (x.raiseLbl l).vol.codeL = x.vol.codeL := by rw [Unit.raiseLbl_cases]
@[simp] theorem Unit.raiseLbl_lat : (x.raiseLbl l).vol.lat = x.vol.lat := by rw [Unit.raiseLbl_cases]
@[simp] theorem Unit.raiseLbl_q : (x.raiseLbl l).vol.q = x.vol.q := by rw [Unit.raiseLbl_cases]
@[simp] theorem Unit.raiseLbl_rstack : (x.raiseLbl l).vol.rstack = x.vol.rstack := by rw [Unit.raiseLbl_cases]
@[simp] theorem Unit.raiseLbl_physS (n : Nat) : physS (x.raiseLbl l) n = physS x n := by simp [physS]
@[simp] theorem Unit.raiseLbl_physP (n : Nat) : physP (x.raiseLbl l) n = physP x n := by simp [physP]

@[simp] theorem Unit.raiseLbl_readS (o : SOp) : (x.raiseLbl l).readS o = x.readS o := by
  cases o <;> simp [Unit.readS, Unit.sreg, Unit.pool]

@[simp] theorem Unit.raiseLbl_readB (b : SB) : (x.raiseLbl l).readB b = x.readB b := by
  cases b <;> simp [Unit.readB, Unit.imm]

@[simp] theorem Unit.raiseLbl_readImm (b : Imm) : (x.raiseLbl l).readImm b = x.readImm b := by
  cases b <;> simp [Unit.readImm, Unit.imm]

@[simp] theorem Unit.raiseLbl_readC (c : SC) : (x.raiseLbl l).readC c = x.readC c := by
  cases c <;> simp [Unit.readC, Unit.imm]

@[simp] theorem Unit.raiseLbl_readT (c : TIdx) : (x.raiseLbl l).readT c = x.readT c := by
  cases c <;> simp [Unit.readT, Unit.imm]

@[simp] theorem Unit.raiseLbl_readP (g : POp) : (x.raiseLbl l).readP g = x.readP g := by
  simp [Unit.readP, Unit.preg]

@[simp] theorem Unit.raiseLbl_baseL (g : POp) : (x.raiseLbl l).baseL g = x.baseL g := by
  simp [Unit.baseL]

end

/-- A word under a true guard: its effect, on the unit with the guard's label raised. -/
theorem guarded_true (s : State) (g : POp) (k : State → State) (h : (s.me.readP g).v = true) :
    guarded s g k = k (s.modMe fun x => x.raiseLbl (s.me.readP g).l) := by simp [guarded, h]

/-- A word under a false guard: the label and nothing else. -/
theorem guarded_false (s : State) (g : POp) (k : State → State) (h : (s.me.readP g).v = false) :
    guarded s g k = s.modMe fun x => x.raiseLbl (s.me.readP g).l := by simp [guarded, h]

/-- A word that changes the active unit alone, under a true guard. -/
theorem guarded_modMe (s : State) (g : POp) (f : Unit → Unit) (h : (s.me.readP g).v = true) (hm : s.me.mode ≠ .idle) :
    guarded s g (fun s => s.modMe f) = s.modMe fun x => f (x.raiseLbl (x.readP g).l) := by
  rw [guarded_true s g _ h, s.modMe_modMe _ f (by simpa using hm)]
  exact s.modMe_congr _ _ rfl

/-! ## Delivery -/

/-- A scalar result to come, in a segment (R39). -/
theorem Unit.deliver_timed (x : Unit) (d : Dst) (n : Nat) (v : Lv 64) (h : x.iss.timed = true) :
    x.deliver d n v =
      let q := insertDue ⟨x.iss.cyc + n, phWrite, lnS, x.iss.cyc, .sres x.iss.cyc v⟩ x.pend
      let w := insertDue ⟨x.iss.cyc + n + 1, phWrite, lnS, x.iss.cyc, .sname (physS x d.nidx.toNat) v⟩ q
      { x with pend := if d.nw then w else q } := by
  unfold Unit.deliver
  simp only [h, if_true]
  split <;> rfl

/-- A scalar result at once, in untimed code (R39, R42). -/
theorem Unit.deliver_untimed (x : Unit) (d : Dst) (n : Nat) (v : Lv 64) (h : x.iss.timed = false) :
    x.deliver d n v = { x with
      vol := { x.vol with q := (v :: x.vol.q).take 16, lat := v, latIss := some (2 ^ 32) }
      regs := { x.regs with s := if d.nw then x.regs.s.put (physS x d.nidx.toNat) v else x.regs.s } } := by
  unfold Unit.deliver
  simp only [h, Bool.false_eq_true, if_false]
  split <;> rfl

end Sys2Proof.Machine
end

