-- ==== Sys2Proof/Laws/SLane.lean ====
section
/-! SUPPORT. A state whose active unit has the guard's label raised: what it reads as, and what the control words of the
S lane do to it. -/

namespace Sys2Proof.Machine

/-- The state with a label raised by the active unit. -/
abbrev State.raised (s : State) (l : Label) : State := s.modMe fun x => x.raiseLbl l

section
variable {s : State} (hm : s.me.mode ≠ .idle) (l : Label)
include hm

theorem State.raised_me : (s.raised l).me = s.me.raiseLbl l := s.me_modMe _ (by simpa using hm)

theorem State.raised_modMe (f : Unit → Unit) : (s.raised l).modMe f = s.modMe fun x => f (x.raiseLbl l) :=
  s.modMe_modMe _ f (by simpa using hm)

theorem State.raised_task (u : Nat) : ((s.raised l).unit u).task = (s.unit u).task := by
  by_cases h : u = s.active
  · subst h
    have := State.raised_me hm l
    unfold State.me at this
    show ((s.raised l).units.get s.active).task = _
    rw [show (s.raised l).units.get s.active = s.me.raiseLbl l from this]
    simp; rfl
  · rw [State.unit_modMe_ne _ _ _ h]

theorem State.raised_taskOf (u : Nat) : (s.raised l).taskOf u = s.taskOf u := by
  unfold State.taskOf; rw [State.raised_task hm l u]; rfl

theorem State.raised_box (u k : Nat) : (s.raised l).box u k = s.box u k := by
  unfold State.box; rw [State.raised_taskOf hm l u]

theorem State.raised_launchOf (u : Nat) : (s.raised l).launchOf u = s.launchOf u := by
  unfold State.launchOf; rw [State.raised_taskOf hm l u]; rfl

theorem State.raised_asidOf (u : Nat) : (s.raised l).asidOf u = s.asidOf u := by
  unfold State.asidOf; rw [State.raised_launchOf hm l u]

theorem State.raised_prot (u : Nat) : (s.raised l).prot u = s.prot u := by
  unfold State.prot State.entryOf; rw [State.raised_launchOf hm l u, State.raised_taskOf hm l u]

end

theorem Unit.raiseLbl_instrAt (x : Unit) (l : Label) (t : Nat) : (x.raiseLbl l).instrAt t = x.instrAt t := by
  rw [Unit.raiseLbl_cases]; rfl

/-- A control word under a true guard that raises nothing. -/
theorem ctlWord_true (s : State) (g : POp) (k : Unit → Option (Unit × Nat)) (bad : Unit → Bool)
    (hm : s.me.mode ≠ .idle) (hg : (s.me.readP g).v = true) (hb : bad s.me = false) :
    ctlWord s g k bad = s.modMe fun x => (match k (x.raiseLbl (x.readP g).l) with
      | some (y, t) => y.control true t (x.readP g).l
      | none => (x.raiseLbl (x.readP g).l).control false 0 (x.readP g).l) := by
  unfold ctlWord
  simp only [hg, if_true, hb, Bool.false_eq_true, if_false]
  rw [State.modMe_modMe _ _ _ (by simpa using hm)]
  exact s.modMe_congr _ _ rfl

/-- A control word under a false guard goes on. -/
theorem ctlWord_false (s : State) (g : POp) (k : Unit → Option (Unit × Nat)) (bad : Unit → Bool)
    (hm : s.me.mode ≠ .idle) (hg : (s.me.readP g).v = false) :
    ctlWord s g k bad = s.modMe fun x => (x.raiseLbl (x.readP g).l).control false 0 (x.readP g).l := by
  unfold ctlWord
  simp only [hg, Bool.false_eq_true, if_false]
  rw [State.modMe_modMe _ _ _ (by simpa using hm)]
  exact s.modMe_congr _ _ rfl

/-- A control word that raises. -/
theorem ctlWord_bad (s : State) (g : POp) (k : Unit → Option (Unit × Nat)) (bad : Unit → Bool)
    (hg : (s.me.readP g).v = true) (hb : bad s.me = true) :
    ctlWord s g k bad = (s.raised (s.me.readP g).l).fail lanS fIllegalOperand 0 ((s.me.readP g).l ||| s.me.iss.lab) := by
  unfold ctlWord
  simp only [hg, if_true, hb, Unit.baseL]

end Sys2Proof.Machine
end

