-- ==== Sys2Proof/Tests/Slice0.lean ====
section
/-! SUPPORT. Decoding of words written out from the rules' encodings, an ill-formed term for each check of WellFormed, and
for each statement with hypotheses a state and operands that meet them, clause by clause. -/

namespace Sys2Proof.Tests

open Sys2Proof

set_option Elab.async false

/-! ## Words of the rules' worked examples -/

def h0 : Hdr := ⟨0#10, none, none⟩
def g0 : POp := ⟨false, 0#6⟩

/-- R147's and R222's VADD with three idle cycles. -/
theorem test_decode_vadd : decode [0x00D0000201808000#64] =
    .ok (.vadd ⟨3#10, none, none⟩ .f32 ⟨0#8, .row 1#8, .row 2#8, 0#3, false⟩ none, 1) := by decide +kernel

/-- R79 field by field: IDLE 0, LANE S, OP 0x01, XW 0, NW 1, NIDX 4, A q5, B lat, guard !p3. -/
theorem test_decode_sub : decode [0b0000000000#10 ++ 0b00#2 ++ 0x01#8 ++ 0#2 ++ (1#1 ++ 4#5 ++ (0b010#3 ++ 5#4) ++ 0#7
    ++ (1#1 ++ 3#6) ++ 0#15)] = .ok (.sub h0 ⟨⟨true, 4#5⟩, .q 5#4, .op .lat, ⟨true, 3#6⟩⟩, 1) := by decide +kernel

/-- R120, R79: FMUL.F64 with rm=rtz in FN[2:0]. -/
theorem test_decode_fmul : decode [0#10 ++ 0b00#2 ++ 0x92#8 ++ 0#2 ++ (1#1 ++ 1#5 ++ (0b10#2 ++ 2#5) ++ (0b11#2 ++ 3#5)
    ++ 0#7 ++ (0#12 ++ 1#3))] = .ok (.fmul h0 .f64 ⟨⟨true, 1#5⟩, .s 2#5, .op (.k 3#5), g0⟩ .rtz, 1) := by decide +kernel

/-- R81, R118: CMP.ltu p9. -/
theorem test_decode_cmp : decode [0#10 ++ 0b00#2 ++ 0xA0#8 ++ 0#2 ++ (9#6 ++ (0b10#2 ++ 1#5) ++ (0b10#2 ++ 2#5) ++ 0#7
    ++ 6#4 ++ 0#11)] = .ok (.cmp h0 ⟨9#6, .s 1#5, .op (.s 2#5), g0⟩ .ltu, 1) := by decide +kernel

/-- R124's LOOPB of five words back. -/
theorem test_decode_loopb : decode [0x000B3007FFFFD800#64] = .ok (.loopb h0 g0 0xFFFFFB#24, 1) := by decide +kernel

/-- R130's BOXSUB d5, d1, k1, k0. -/
theorem test_decode_boxsub : decode [0x000C20051C380000#64] =
    .ok (.boxsub h0 5#4 1#4 (.k 1#5) (.k 0#5) none g0, 1) := by decide +kernel

/-- The worked LDS of the scalar chapter. -/
theorem test_decode_lds : decode [0x004C82730B080028#64] =
    .ok (.lds ⟨1#10, none, none⟩ ⟨true, 7#5⟩ 3#4 (.imm 5#7) (.op (.s 2#5)) none ⟨false, 2#6⟩, 1) := by decide +kernel

/-- R238's WAITGE b6(#0), k2 and R227's REALIGN #3. -/
theorem test_decode_waitge : decode [0x000D200C40003000#64] = .ok (.waitge h0 6#4 0#8 (.op (.k 2#5)), 1) := by decide +kernel
theorem test_decode_realign : decode [0x000D500000000003#64] = .ok (.realign h0 3#12, 1) := by decide +kernel

/-- R229's ARG b2, d6, out. -/
theorem test_decode_arg : decode [0x000D809880000000#64] = .ok (.arg h0 2#4 6#4 .out .excl g0, 1) := by decide +kernel

/-- R192's SYSWR ACCINJ, k7. -/
theorem test_decode_syswr : decode [0x000E300CE000000C#64] = .ok (.syswr h0 12#8 (.op (.k 7#5)) g0, 1) := by decide +kernel

/-- R74's VFMA with a MOD and a DEP word. -/
theorem test_decode_vfma : decode [0x0050C81601A0B230#64, 0x1800180100000000#64, 0x21C2000000000000#64] =
    .ok (.vfma ⟨1#10, none, some ⟨7#6, 2#6, 0#6, 0#6⟩⟩ .f32 ⟨5#8, .row 1#8, .row 0x82#8, .k 3#5, 0#3, false⟩
      (some ⟨true, false, false, false, false, false, 0#7, some .rtz, false, false, .none, true⟩), 3) := by decide +kernel

/-- R157, R94: VIADD.I16 at base 24, slot 1. -/
theorem test_decode_viadd : decode [0#10 ++ 0b01#2 ++ (24#6 ++ 1#2) ++ 0#2 ++ (7#8 ++ (0b10#2 ++ 1#8) ++ (0b01#2 ++ 0#5 ++ 2#3)
    ++ 0#10 ++ 5#3 ++ 1#1)] = .ok (.viadd h0 .i16 ⟨7#8, .row 1#8, .vq 2#3, 5#3, true⟩ none, 1) := by decide +kernel

/-- R160's VBCAST.32 w3, w2, k16, R161's VZIP, R148's VCMP with |a|. -/
theorem test_decode_vbcast : decode [0x009B020E82CC0000#64] =
    .ok (.vbcast ⟨2#10, none, none⟩ .w32 ⟨0x83#8, .row 0x82#8, 0#3, false⟩ (.k 16#5), 1) := by decide +kernel
theorem test_decode_vzip : decode [0x001C000208000020#64] = .ok (.vzip h0 .w32 0#8 8#8 2#2 0#3 false, 1) := by decide +kernel
theorem test_decode_vcmp : decode [0x0011840680C84040#64, 0x1400000000000000#64] =
    .ok (.vcmp h0 .f32 ⟨1#3, .row 0x80#8, .k 1#5, 0#3, false⟩ .gt
      (some ⟨false, true, false, false, false, false, 0#7, none, false, false, .none, false⟩), 2) := by decide +kernel

/-- R163's VLD and VST. -/
theorem test_decode_vld : decode [0x009E8020800CC001#64] =
    .ok (.vld ⟨2#10, none, none⟩ .w32 ⟨8#8, 2#4, 3#12, 1#3, none⟩ true true, 1) := by decide +kernel
theorem test_decode_vst : decode [0x019ED40040004000#64, 0x2040000000000000#64] =
    .ok (.vst ⟨6#10, none, some ⟨1#6, 0#6, 0#6, 0#6⟩⟩ .w16 ⟨0#8, 1#4, 0#12, 0#3, none⟩ true, 2) := by decide +kernel

/-- R184's MMA and R190's MCHKV. -/
theorem test_decode_mma : decode [0x086010821FC80000#64] =
    .ok (.mma ⟨33#10, none, none⟩ 2#4 false 1#4 0#4 127#7 false false true, 1) := by decide +kernel
theorem test_decode_mchkv : decode [0x0020410221415000#64] = .ok (.mchkv h0 4#4 1#5 2#5 20#8 21#8, 1) := by decide +kernel

/-- R206's COUT, R212's CSIG, R218's XRECV. -/
theorem test_decode_cout : decode [0x0330108400010000#64] =
    .ok (.cout ⟨12#10, none, none⟩ ⟨2#4, 1#4, none, true, false⟩, 1) := by decide +kernel
theorem test_decode_csig : decode [0x03F05000C1020001#64] = .ok (.csig ⟨15#10, none, none⟩ 3#4 4#8 1#14, 1) := by decide +kernel
theorem test_decode_xrecv : decode [0x0030B4C000080003#64, 0x3000000000000131#64] =
    .ok (.xrecv h0 3#4 2#3 3#6 305#32 false, 2) := by decide +kernel

/-- R97: an unassigned opcode, a reserved bit, a missing extension word. -/
theorem test_decode_unassigned : decode [0x00FF000000000000#64 &&& 0x000FF00000000000#64] = .error .unassigned := by decide +kernel
theorem test_decode_reserved : decode [0x000D000000000001#64] = .error .malformed := by decide +kernel
theorem test_decode_truncated : decode [0x0030B4C000080003#64] = .error .truncated := by decide +kernel

/-! ## Ill-formed terms -/

def sa0 : SA := ⟨⟨false, 0#5⟩, .lat, .op .lat, g0⟩
def sa10 : SA1 := ⟨⟨false, 0#5⟩, .lat, g0⟩
def va1 : VA1 := ⟨0#8, .row 0#8, 0#3, false⟩
def va2 : VA2 := ⟨0#8, .row 0#8, .row 1#8, 0#3, false⟩
def mod0 : Mod := ⟨false, false, false, false, false, false, 0#7, none, false, false, .none, false⟩
def hDep (d : Dep) : Hdr := ⟨0#10, none, some d⟩

theorem test_wf_good : (Instr.add h0 sa0).wf = true ∧ (Instr.vadd (hDep ⟨1#6, 2#6, 3#6, 0#6⟩) .f32 va2 (some mod0)).wf = true
    ∧ (Instr.sync h0).wf = true := by decide +kernel

theorem test_wf_dep_on_s : (Instr.add (hDep ⟨1#6, 0#6, 0#6, 0#6⟩) sa0).wf = false := by decide +kernel
theorem test_wf_stamp_with_idle : (Instr.add ⟨1#10, some 5#32, none⟩ sa0).wf = false := by decide +kernel
theorem test_wf_dep_empty : (Instr.mzero (hDep ⟨0#6, 0#6, 0#6, 0#6⟩) 0#4).wf = false := by decide +kernel
theorem test_wf_dep_gap : (Instr.mzero (hDep ⟨0#6, 0#6, 1#6, 0#6⟩) 0#4).wf = false
    ∧ (Instr.mzero (hDep ⟨0#6, 1#6, 0#6, 2#6⟩) 0#4).wf = false := by decide +kernel
theorem test_wf_dep_twice : (Instr.mzero (hDep ⟨0#6, 1#6, 1#6, 0#6⟩) 0#4).wf = false
    ∧ (Instr.mzero (hDep ⟨0#6, 1#6, 2#6, 2#6⟩) 0#4).wf = false
    ∧ (Instr.mzero (hDep ⟨0#6, 1#6, 2#6, 1#6⟩) 0#4).wf = false := by decide +kernel
theorem test_wf_field_past_63 : (Instr.bfx h0 sa10 63#6 1#6).wf = false ∧ (Instr.bfi h0 sa0 1#6 63#6).wf = false := by decide +kernel
theorem test_wf_scalar_rsr : (Instr.fadd h0 .f32 sa0 .rsr).wf = false := by decide +kernel
theorem test_wf_fcvt_same : (Instr.fcvt h0 .f32 sa10 .rne .f32 false).wf = false := by decide +kernel
theorem test_wf_dget_word : (Instr.dget h0 ⟨false, 0#5⟩ 0#4 5#3 g0).wf = false := by decide +kernel
theorem test_wf_sync_header : (Instr.sync ⟨1#10, none, none⟩).wf = false := by decide +kernel
theorem test_wf_segend_stamp : (Instr.segend ⟨0#10, some 0#32, none⟩ 0#64 0#32).wf = false := by decide +kernel
theorem test_wf_realign_zero : (Instr.realign h0 0#12).wf = false := by decide +kernel
theorem test_wf_arg_root : (Instr.arg h0 0#4 0#4 .root .excl g0).wf = false := by decide +kernel
theorem test_wf_arg_merge_in : (Instr.arg h0 0#4 0#4 .in_ .sum g0).wf = false := by decide +kernel
theorem test_wf_mod_source : (Instr.vadd h0 .f32 va2 (some { mod0 with negc := true })).wf = false
    ∧ (Instr.vscan h0 .f32 va1 (some { mod0 with absb := true })).wf = false := by decide +kernel
theorem test_wf_mod_special_rm : (Instr.vrcp h0 .f32 va1 (some { mod0 with rm := some .rtz })).wf = false := by decide +kernel
theorem test_wf_mod_int_exp : (Instr.viadd h0 .i32 va2 (some { mod0 with exp := 1#7 })).wf = false
    ∧ (Instr.viadd h0 .i32 va2 (some { mod0 with rm := some .rne })).wf = false := by decide +kernel
theorem test_wf_mod_compare : (Instr.vcmp h0 .f32 ⟨1#3, .vlat, .vlat, 0#3, false⟩ .eq (some { mod0 with sat := true })).wf = false := by
  decide +kernel
theorem test_wf_pair_latch : (Instr.viadd h0 .i64 ⟨0#8, .vlat, .row 0#8, 0#3, false⟩ none).wf = false
    ∧ (Instr.vmov h0 .w64 ⟨0#8, .vq 0#3, 0#3, false⟩).wf = false := by decide +kernel
theorem test_wf_no_64 : (Instr.vimul h0 .i64 va2 none).wf = false ∧ (Instr.vnot h0 .i64 va1).wf = false := by decide +kernel
theorem test_wf_vcvt_same : (Instr.vcvt h0 .f32 .f32 va1 none false none).wf = false := by decide +kernel
theorem test_wf_vcvt_nosat : (Instr.vcvt h0 .f16 .f32 va1 none true none).wf = false := by decide +kernel
theorem test_wf_vcvt_int_rsr : (Instr.vcvt h0 .int8 .f32 va1 none false (some { mod0 with rm := some .rsr })).wf = false := by
  decide +kernel
theorem test_wf_zip_one : (Instr.vzip h0 .w32 0#8 8#8 0#2 0#3 false).wf = false := by decide +kernel
theorem test_wf_zip_span : (Instr.vzip h0 .w32 127#8 8#8 1#2 0#3 false).wf = false
    ∧ (Instr.vunzip h0 .w64 0#8 125#8 1#2 0#3 false).wf = false := by decide +kernel
theorem test_wf_gather_pair : (Instr.vgth h0 .w64 ⟨0#8, 0#4, 0#12, 0#3, none⟩ (.vq 0#3)).wf = false := by decide +kernel
theorem test_wf_vwin_empty : (Instr.vwin h0 none none).wf = false ∧ (Instr.vmode h0 none none).wf = false := by decide +kernel
theorem test_wf_vwin_dep : (Instr.vwin (hDep ⟨1#6, 0#6, 0#6, 0#6⟩) (some 0#4) none).wf = false := by decide +kernel
theorem test_wf_mcopy_same : (Instr.mcopy h0 3#4 3#4).wf = false := by decide +kernel
theorem test_wf_accrel_17 : (Instr.accrel h0 17#5).wf = false := by decide +kernel
theorem test_wf_csig_zero : (Instr.csig h0 0#4 0#8 0#14).wf = false := by decide +kernel


/-! ## States that meet the hypotheses of the statements

A witness gives, clause by clause, a state and operands that meet all hypotheses of the clause. -/

open Sys2Proof.Machine Sys2Proof.Machine.Claims

def gF : POp := ⟨true, 0#6⟩
def d1 : Dst := ⟨true, 1#5⟩

/-- Core 0 issuing a word at cycle 20 of a segment, and core 0 carrying out a word of untimed code. -/
def inSeg : Machine.Unit :=
  { (default : Machine.Unit) with mode := .seg, regs := Regs.start 16, iss := ⟨3, 1, 20, 0#8, true, 20, none⟩ }
def inCode : Machine.Unit :=
  { (default : Machine.Unit) with mode := .code, regs := Regs.start 16, iss := ⟨3, 1, 0, 0#8, false, 0, none⟩ }

def one (x : Machine.Unit) : State := { (default : State) with units := [(0, x)] }
/-- The same unit as sequencer 0 of die 0. -/
def sq (x : Machine.Unit) : State := { (default : State) with units := [(384, x)], active := 384 }

/-- Unit `x` of `u` running task 1 of launch 1, with boxes. -/
def tasked (u : Nat) (x : Machine.Unit) (bs : Tab Box) : State :=
  { (default : State) with
    active := u
    units := [(u, { x with task := some 1 })]
    tasks := [(1, { (default : Task) with st := .running, lid := 1, unit := some u, seq := decide (384 ≤ u), boxes := bs })]
    launches := [(1, { (default : Launch) with live := true, tasks := [default] })] }

/-- A box of rank 2, 4 by 8 elements, in the scratchpad at 0. -/
def box0 : Box :=
  { (default : Box) with
    present := true, layout := 0x0A, rank := 2, mode := .inout, merge := .excl, scope := .scratch, cap := 4096,
    ext := ⟨8, 4, 1, 1⟩, decl := ⟨8, 4, 1, 1⟩ }

def addI : Instr := .add h0 ⟨d1, .s 2#5, .op (.k 3#5), g0⟩

theorem witness_ScalarIntegerResult : working (one inSeg) ∧ working (one inCode)
    ∧ scalarInt addI = some ⟨g0, d1, 1, ab ⟨d1, .s 2#5, .op (.k 3#5), g0⟩ fnAdd⟩
    ∧ ((one inSeg).me.readP g0).v = true ∧ ((one inCode).me.readP g0).v = true := by
  refine ⟨?_, ?_, rfl, ?_, ?_⟩ <;> (try unfold working) <;> decide +kernel

theorem witness_ScalarFloatResult : working (one inSeg)
    ∧ scalarFp (.fadd h0 .f64 sa0 .rne) = some ⟨g0, sa0.d, 6, ab sa0 fun a b =>
      fres .f64 .rne (.ex (XVal.sum .rne [fval .f64 a, fval .f64 b]))⟩
    ∧ ((one inSeg).me.readP g0).v = true := by
  refine ⟨?_, rfl, ?_⟩ <;> (try unfold working) <;> decide +kernel

theorem witness_PredicateResult : working (one inSeg)
    ∧ scalarPred (.pand h0 ⟨0#6, g0, g0, g0⟩) = ppp ⟨0#6, g0, g0, g0⟩ (fun a b => a && b)
    ∧ (ppp ⟨0#6, g0, g0, g0⟩ (fun a b => a && b)).isSome = true ∧ ((one inSeg).me.readP g0).v = true := by
  refine ⟨?_, rfl, rfl, ?_⟩ <;> (try unfold working) <;> decide +kernel

theorem witness_FalseGuardNoEffect : working (one inSeg) ∧ guardOf (.tend h0 gF) = some gF
    ∧ guardOf (.add h0 { sa0 with g := gF }) = some gF ∧ ((one inSeg).me.readP gF).v = false := by
  refine ⟨?_, rfl, rfl, ?_⟩ <;> (try unfold working) <;> decide +kernel

def inLoop (l : BitVec 32) (d : BitVec 16) : Machine.Unit :=
  { inSeg with regs := { inSeg.regs with lcnt := l, dcnt := d } }

theorem witness_BranchNotTaken : working (one (inLoop 0#32 0#16)) ∧ ctlGuard (.loopb h0 g0 1#24) = some g0
    ∧ ctlGuard (.rett h0 gF) = some gF ∧ ((one inSeg).me.readP gF).v = false
    ∧ (∃ h off, Instr.loopb h0 g0 1#24 = .loopb h g0 off ∧ (one (inLoop 0#32 0#16)).me.regs.lcnt = 0#32
      ∧ (one (inLoop 0#32 0#16)).me.regs.dcnt = 0#16) := by
  refine ⟨?_, rfl, rfl, ?_, h0, 1#24, rfl, ?_, ?_⟩ <;> (try unfold working) <;> decide +kernel

/-- A segment whose word 4 is SYNC. -/
def toSync : Machine.Unit := { inSeg with code := Mem.write [] 32 (leBytes 8 0x000D000000000000), codeN := 5 }
def deep (n : Nat) (x : Machine.Unit) : Machine.Unit := { x with vol := { x.vol with rstack := List.replicate n 9 } }

theorem no_lead (x : Machine.Unit) (t : Nat) (e : x.instrAt t = none) : mayLead x t := by
  intro _ h hh; rw [e] at hh; cases hh

theorem witness_BranchTaken :
    (working (one (deep 7 inSeg)) ∧ ((one (deep 7 inSeg)).me.readP g0).v = true
      ∧ mayLead (one (deep 7 inSeg)).me (targetOf (one (deep 7 inSeg)).me 1#24)
      ∧ (one (deep 7 inSeg)).me.vol.rstack.length < 8
      ∧ (one (deep 7 inSeg)).me.vol.rstack = 9 :: List.replicate 6 9 ∧ mayLead (one (deep 7 inSeg)).me 9)
    ∧ (working (one (deep 8 inSeg)) ∧ 8 ≤ (one (deep 8 inSeg)).me.vol.rstack.length)
    ∧ (one inSeg).me.vol.rstack = []
    ∧ (working (one toSync) ∧ (one toSync).me.iss.timed = true
      ∧ (one toSync).me.instrAt (targetOf (one toSync).me 1#24) = some (.sync h0)) := by
  refine ⟨⟨?_, ?_, no_lead _ _ ?_, ?_, ?_, no_lead _ _ ?_⟩, ⟨?_, ?_⟩, ?_, ?_, ?_, ?_⟩ <;> (try unfold working) <;> decide +kernel

theorem witness_LoopTaken :
    (working (one (inLoop 1#32 0#16)) ∧ ((one (inLoop 1#32 0#16)).me.readP g0).v = true
      ∧ mayLead (one (inLoop 1#32 0#16)).me (targetOf (one (inLoop 1#32 0#16)).me 0xFFFFFF#24)
      ∧ (one (inLoop 1#32 0#16)).me.regs.lcnt ≠ 0#32)
    ∧ (mayLead (one (inLoop 0#32 1#16)).me (targetOf (one (inLoop 0#32 1#16)).me 0xFFFFFF#24)
      ∧ (one (inLoop 0#32 1#16)).me.regs.lcnt = 0#32 ∧ (one (inLoop 0#32 1#16)).me.regs.dcnt ≠ 0#16)
    ∧ (mayLead (one (inLoop 0#32 0#16)).me (targetOf (one (inLoop 0#32 0#16)).me 0xFFFFFF#24)
      ∧ (one (inLoop 0#32 0#16)).me.regs.lcnt = 0#32 ∧ (one (inLoop 0#32 0#16)).me.regs.dcnt = 0#16) := by
  refine ⟨⟨?_, ?_, no_lead _ _ ?_, ?_⟩, ⟨no_lead _ _ ?_, ?_, ?_⟩, no_lead _ _ ?_, ?_, ?_⟩ <;> (try unfold working) <;>
    decide +kernel

/-- Core 0 with box 1 (`box0`), a handle of it in d1 and scalar `v` in s1. -/
def withBox (b : Box) (v : Nat) : State :=
  tasked 0 { inSeg with regs := { inSeg.regs with
    d := [(1, ⟨1#4, true, 0#8, ⟨1, 1, 1, 1⟩, ⟨0, 0, 0, 0⟩, ⟨8, 4, 1, 1⟩⟩)]
    s := [(1, ⟨BitVec.ofNat 64 v, 0#8⟩)] } } [(1, b), (0, box0)]

theorem witness_DescriptorWords :
    working (withBox box0 1) ∧ ((withBox box0 1).me.readP g0).v = true
    ∧ fits (withBox box0 1) ((withBox box0 1).me.regs.d.get 1) .slot ((withBox box0 1).me.readS (.s 1#5)).v
    ∧ fits (withBox box0 1) ((withBox box0 1).me.regs.d.get 1) .valid ((withBox box0 1).me.readS (.s 1#5)).v
    ∧ fits (withBox box0 255) ((withBox box0 255).me.regs.d.get 1) (.step 1#2) ((withBox box0 255).me.readS (.s 1#5)).v
    ∧ fits (withBox box0 (2 ^ 29 - 1)) ((withBox box0 0).me.regs.d.get 1) (.org 1#2)
        ((withBox box0 (2 ^ 29 - 1)).me.readS (.s 1#5)).v
    ∧ fits (withBox box0 (2 ^ 30 - 1)) ((withBox box0 0).me.regs.d.get 1) (.ext 0#2)
        ((withBox box0 (2 ^ 30 - 1)).me.readS (.s 1#5)).v
    ∧ (let s := withBox box0 (2 ^ 29 - 1)
      let he := s.me.regs.d.get 1
      let off : Quad Int := ⟨(s.me.readS (.s 1#5)).v.toInt, (s.me.readS (.s 1#5)).v.toInt, co2 none, co3 none⟩
      he.valid = true
      ∧ (∀ i < 4, (i < (s.box s.active he.slot.toNat).rank ∨ off.get i = 0) ∧ fits30 (he.orgZ i + off.get i * he.stepZ i))
      ∧ (1#2).toNat < (s.box s.active he.slot.toNat).rank
      ∧ fits30 (he.orgZ 1 + (s.me.readS (.s 1#5)).v.toInt * he.stepZ 1)
      ∧ (s.box s.active 1).present = true) := by
  refine ⟨?_, ?_, ?_, ?_, ?_, ?_, ?_, ?_⟩ <;> (try unfold working) <;> (try unfold fits) <;> (try unfold fits30) <;> decide +kernel

/-- The same boxes for a word of untimed code. -/
def codeBox (b : Box) (v : Nat) : State :=
  tasked 0 { inCode with regs := { inCode.regs with s := [(1, ⟨BitVec.ofNat 64 v, 0#8⟩)] } } [(1, b), (0, box0)]

def ldsI (y : BitVec 7) : Instr := .lds h0 d1 1#4 (.imm 7#7) (.imm y) none g0
def ldsR (y : BitVec 7) : SRead := ⟨g0, d1, 1,
  fun u => ⟨(u.readC (.imm 7#7)).v.toInt, (u.readC (.imm y)).v.toInt, co2 none, co3 none⟩,
  fun u => (u.readC (.imm 7#7)).l ||| (u.readC (.imm y)).l ||| coLab u none, fun _ b => scalarBox b,
  fun b => signedLay b.layout⟩

/-- Element (7, 3) is the last of the box, (7, 4) lies outside. -/
theorem witness_ScalarLoad :
    scalarRead (ldsI 3#7) = some (ldsR 3#7) ∧ scalarRead (ldsI 4#7) = some (ldsR 4#7)
    ∧ (working (withBox box0 0) ∧ ((withBox box0 0).me.readP g0).v = true ∧ scalarBox ((withBox box0 0).box 0 1)
      ∧ ((withBox box0 0).box 0 1).has ((ldsR 3#7).c (withBox box0 0).me) = true ∧ (withBox box0 0).me.iss.timed = true
      ∧ ((withBox box0 0).box 0 1).has ((ldsR 4#7).c (withBox box0 0).me) = false)
    ∧ (let s := codeBox box0 0
      let b := s.box 0 1
      let c := (ldsR 3#7).c s.me
      let s1 := s.modMe fun x => withLabel x (x.readP g0).l;
      working s ∧ scalarBox b ∧ b.has c = true ∧ s.me.iss.timed = false
      ∧ ∃ t q, s1.readBox (s1.ctxOf s.active) s.active b (b.loc c).addr (b.loc c).bytes = (t, .ok q)
        ∧ Label.sub q.lab b.lab = true) := by
  refine ⟨rfl, rfl, ⟨?_, ?_, ?_, ?_, ?_, ?_⟩, ?_, ?_, ?_, ?_, _, ⟨[0#8, 0#8], 0#8, 0, 0⟩, Prod.ext rfl ?_, ?_⟩ <;> (try unfold working) <;>
    (try unfold scalarBox) <;> decide +kernel

/-- A counter box of 8 counters. -/
def ctrBox : Box := { box0 with layout := 0x30, rank := 1, ext := ⟨8, 1, 1, 1⟩, decl := ⟨8, 1, 1, 1⟩, scope := .diemem }
def guarded (s : State) : State := { s with launches := [(1, { (default : Launch) with live := true, tasks := [{ (default : TaskE) with prot := true }] })] }

theorem witness_ScalarStore :
    (let b := (withBox box0 0).box 0 1;
      working (withBox box0 0) ∧ scalarBox b ∧ b.mode ≠ .in_ ∧ Label.sub 0#8 b.lab = true
      ∧ (384 ≤ (withBox box0 0).active → (withBox box0 0).inGroupArg 0 1 ⟨7, 3, 0, 0⟩ = false)
      ∧ b.has ⟨7, 3, 0, 0⟩ = true ∧ b.has ⟨8, 3, 0, 0⟩ = false ∧ (withBox box0 0).me.iss.timed = true)
    ∧ (let b := (codeBox box0 0).box 0 1;
      working (codeBox box0 0) ∧ scalarBox b ∧ b.mode ≠ .in_ ∧ b.has ⟨7, 3, 0, 0⟩ = true ∧ b.scope = .scratch
      ∧ (codeBox box0 0).me.iss.timed = false)
    ∧ (let b := (withBox ctrBox 0).box 0 1;
      counterBox 0 b ∧ b.mode ≠ .in_ ∧ b.has ⟨7, 0, 0, 0⟩ = true ∧ b.has ⟨8, 0, 0, 0⟩ = false
      ∧ (withBox ctrBox 0).prot 0 = false ∧ (guarded (withBox ctrBox 0)).prot 0 = true
      ∧ counterBox 0 ((guarded (withBox ctrBox 0)).box 0 1)) := by
  refine ⟨⟨?_, ?_, ?_, ?_, ?_, ?_, ?_, ?_⟩, ⟨?_, ?_, ?_, ?_, ?_, ?_⟩, ?_, ?_, ?_, ?_, ?_, ?_, ?_⟩ <;> (try unfold working) <;>
    (try unfold scalarBox) <;> (try unfold counterBox) <;> decide +kernel

theorem witness_SystemRead :
    working (one inSeg) ∧ ((one inSeg).me.readP g0).v = true ∧ 0 < (15#8).toNat ∧ (15#8).toNat < 0x10
    ∧ (384 ≤ (one inSeg).active → ¬ notOnSeq 15)
    ∧ (one inSeg).me.iss.timed = true ∧ (one inSeg).active < 384 ∧ 0x10 ≤ (16#8).toNat
    ∧ working (sq inCode) ∧ 384 ≤ (sq inCode).active ∧ notOnSeq (12#8).toNat ∧ ¬ notOnSeq 8 := by
  refine ⟨?_, ?_, ?_, ?_, ?_, ?_, ?_, ?_, ?_, ?_, ?_, ?_⟩ <;> (try unfold working) <;> (try unfold notOnSeq) <;> decide +kernel

theorem witness_SystemWrite :
    working (one inSeg) ∧ ((one inSeg).me.readP g0).v = true ∧ sysAllowed (one inSeg) 1 5#64 ∧ sysAllowed (one inSeg) 6 0#64
    ∧ ¬ sysAllowed (one inSeg) 6 1#64 ∧ sysAllowed (one inSeg) 0xB 0x0F4#64 ∧ ¬ sysAllowed (one inSeg) 0xB 0x005#64
    ∧ ¬ sysAllowed (one inSeg) 0xC 0#64 ∧ ¬ sysAllowed (one inSeg) 5 0#64 ∧ ¬ sysAllowed (sq inCode) 9 0#64
    ∧ sysAllowed (sq inCode) 4 0#64 := by
  refine ⟨?_, ?_, ?_, ?_, ?_, ?_, ?_, ?_, ?_, ?_, ?_⟩ <;> (try unfold working) <;> (try unfold sysAllowed) <;>
    (try unfold notOnSeq) <;> (try unfold vmodeFits) <;> decide +kernel

theorem witness_SmallScalarWords :
    working (withBox box0 (2 ^ 32 - 1)) ∧ ((withBox box0 0).me.readP g0).v = true
    ∧ ((withBox box0 (2 ^ 32 - 1)).me.readS (.s 1#5)).v.toNat < 2 ^ 32
    ∧ working (withBox box0 (2 ^ 32)) ∧ 2 ^ 32 ≤ ((withBox box0 (2 ^ 32)).me.readS (.s 1#5)).v.toNat := by
  refine ⟨?_, ?_, ?_, ?_, ?_⟩ <;> (try unfold working) <;> decide +kernel

/-- Core 0 with a COUT of its own under way. -/
def withWord : State :=
  { one inSeg with xwords := [(1, { (default : XWord) with kind := .cout false, unit := 0 })], xnext := 2 }

theorem witness_FenceWord :
    (working (one inSeg) ∧ ((one inSeg).me.readP g0).v = true ∧ openOf (one inSeg) = [])
    ∧ (working withWord ∧ (withWord.me.readP g0).v = true ∧ withWord.active < 384 ∧ openOf withWord ≠ []) := by
  refine ⟨⟨?_, ?_, ?_⟩, ?_, ?_, ?_, ?_⟩ <;> (try unfold working) <;> decide +kernel

/-! V lane -/

/-- No tile is allotted. -/
def bare : Machine.Unit := { inSeg with regs := Regs.start 0 }

theorem witness_VectorFloatResult : ∃ r, vectorFloat (.vadd h0 .f32 va2 none) = some r ∧ issuing (one inSeg)
    ∧ usable (one inSeg).me (r.dest :: r.rows) ∧ r.ok (one inSeg).me
    ∧ issuing (one bare) ∧ ¬ (usable (one bare).me (r.dest :: r.rows) ∧ r.ok (one bare).me) := by
  refine ⟨_, rfl, ?_, ?_, ?_, ?_, fun h => absurd h.1 ?_⟩ <;> (try unfold issuing) <;> (try unfold usable) <;> (try dsimp only) <;>
    decide +kernel

theorem witness_VectorReduction : ∃ r, vectorReduce (.vredsum h0 .f32 0#8 (.row 1#8) 0#3 none) = some r ∧ issuing (one inSeg)
    ∧ usable (one inSeg).me (r.dest :: r.rows) ∧ r.ok (one inSeg).me
    ∧ issuing (one bare) ∧ ¬ (usable (one bare).me (r.dest :: r.rows) ∧ r.ok (one bare).me) := by
  refine ⟨_, rfl, ?_, ?_, ?_, ?_, fun h => absurd h.1 ?_⟩ <;> (try unfold issuing) <;> (try unfold usable) <;> (try dsimp only) <;>
    decide +kernel

theorem witness_VectorIntegerResult : ∃ r, vectorInt (.viadd h0 .i64 va2 none) = some r ∧ issuing (one inSeg)
    ∧ usable (one inSeg).me (r.dest :: r.rows) ∧ r.ok (one inSeg).me
    ∧ issuing (one bare) ∧ ¬ (usable (one bare).me (r.dest :: r.rows) ∧ r.ok (one bare).me) := by
  refine ⟨_, rfl, ?_, ?_, ?_, ?_, fun h => absurd h.1 ?_⟩ <;> (try unfold issuing) <;> (try unfold usable) <;> (try dsimp only) <;>
    decide +kernel

theorem witness_VectorConvertAndScan : ∃ r, vectorConvert (.vcvt h0 .f16 .f32 va1 none false none) = some r
    ∧ issuing (one inSeg) ∧ usable (one inSeg).me (r.dest :: r.rows) ∧ r.ok (one inSeg).me
    ∧ issuing (one bare) ∧ ¬ (usable (one bare).me (r.dest :: r.rows) ∧ r.ok (one bare).me) := by
  refine ⟨_, rfl, ?_, ?_, ?_, ?_, fun h => absurd h.1 ?_⟩ <;> (try unfold issuing) <;> (try unfold usable) <;> (try dsimp only) <;>
    decide +kernel

theorem witness_VectorMoveResult : ∃ r, vectorMove (.vmov h0 .w32 va1) = some r
    ∧ issuing (one inSeg) ∧ usable (one inSeg).me (r.dest :: r.rows) ∧ r.ok (one inSeg).me
    ∧ issuing (one bare) ∧ ¬ (usable (one bare).me (r.dest :: r.rows) ∧ r.ok (one bare).me) := by
  refine ⟨_, rfl, ?_, ?_, ?_, ?_, fun h => absurd h.1 ?_⟩ <;> (try unfold issuing) <;> (try unfold usable) <;> (try dsimp only) <;>
    decide +kernel

theorem witness_MaskResult : ∃ r, maskResult (.vcmp h0 .f32 ⟨1#3, .row 0#8, .row 0x7F#8, 0#3, false⟩ .lt none) = some r
    ∧ issuing (one inSeg) ∧ usable (one inSeg).me r.rows ∧ issuing (one bare) ∧ ¬ usable (one bare).me r.rows := by
  refine ⟨_, rfl, ?_, ?_, ?_, ?_⟩ <;> (try unfold issuing) <;> (try unfold usable) <;> (try dsimp only) <;> decide +kernel

theorem witness_VectorZip : issuing (one inSeg)
    ∧ usable (one inSeg).me (((List.range 2).map fun i => 0#8 + BitVec.ofNat 8 (if vwW .w32 = 64 then 2 * i else i))
      ++ (List.range 2).map fun i => 8#8 + BitVec.ofNat 8 (if vwW .w32 = 64 then 2 * i else i)) := by
  refine ⟨?_, ?_⟩ <;> (try unfold issuing) <;> (try unfold usable) <;> decide +kernel

theorem witness_WindowAndMode : issuing (one inSeg) := by unfold issuing; decide +kernel

/-- Core 0 with a handle of box 1, of label `l` and `e` elements from coordinate `o`, in d1. -/
def vbox (b : Box) (l : Label) (o e : Nat) : State :=
  tasked 0 { inSeg with regs := { inSeg.regs with
    d := [(1, ⟨1#4, true, l, ⟨1, 1, 1, 1⟩, ⟨BitVec.ofNat 30 o, 0, 0, 0⟩, ⟨BitVec.ofNat 30 e, 4, 1, 1⟩⟩)] } } [(1, b)]
def vm1 : VM := ⟨0#8, 1#4, 0#12, 0#3, none⟩

theorem witness_VectorLoad :
    (issuing (vbox box0 0#8 0 8) ∧ usable (vbox box0 0#8 0 8).me [vm1.reg]
      ∧ accessible ((vbox box0 0#8 0 8).vacc .w16 vm1) false ∧ flatBox ((vbox box0 0#8 0 8).vacc .w16 vm1).box
      ∧ usable (vbox box0 0#8 0 8).me (vm1.reg :: ixRow (.row 5#8)) ∧ accessible ((vbox box0 0#8 0 8).vacc .w16 vm1) true)
    ∧ (¬ accessible ((vbox box0 0#8 0 8).vacc .w32 vm1) false ∧ ¬ accessible ((vbox box0 0#8 0 8).vacc .w32 vm1) true) := by
  refine ⟨⟨?_, ?_, ?_, ?_, ?_, ?_⟩, ?_, ?_⟩ <;> (try unfold issuing) <;> (try unfold usable) <;> (try unfold accessible) <;>
    (try unfold flatBox) <;> decide +kernel

def roBox : Box := { box0 with mode := .in_ }
/-- L of a store of `vm1`. -/
def storeLab (s : State) : Label := accLab s.me vm1 (s.vacc .w16 vm1) ||| elemLab s.me 16 (.row 0#8)

theorem witness_VectorStore :
    (let s := vbox box0 0#8 0 8; let a := s.vacc .w16 vm1;
      issuing s ∧ usable s.me [vm1.reg] ∧ usable s.me (vm1.reg :: ixRow (.vq 0#3)) ∧ accessible a false ∧ accessible a true
      ∧ flatBox a.box ∧ a.box.mode ≠ .in_ ∧ Label.sub (storeLab s) a.box.lab = true
      ∧ Label.sub (storeLab s ||| elemLab s.me 16 (.vq 0#3)) a.box.lab = true)
    ∧ (let s := vbox roBox 0#8 0 8; let a := s.vacc .w16 vm1;
      usable s.me [vm1.reg] ∧ accessible a false ∧ accessible a true ∧ a.box.mode = .in_)
    ∧ (let s := vbox box0 1#8 0 8; let a := s.vacc .w16 vm1;
      usable s.me [vm1.reg] ∧ accessible a false ∧ accessible a true ∧ a.box.mode ≠ .in_
      ∧ Label.sub (storeLab s) a.box.lab = false ∧ Label.sub (storeLab s ||| elemLab s.me 16 (.vq 0#3)) a.box.lab = false)
    ∧ (¬ accessible ((vbox box0 0#8 0 8).vacc .w32 vm1) false ∧ ¬ accessible ((vbox box0 0#8 0 8).vacc .w32 vm1) true) := by
  refine ⟨⟨?_, ?_, ?_, ?_, ?_, ?_, ?_, ?_, ?_⟩, ⟨?_, ?_, ?_, ?_⟩, ⟨?_, ?_, ?_, ?_, ?_, ?_⟩, ?_, ?_⟩ <;> (try unfold issuing) <;>
    (try unfold usable) <;> (try unfold accessible) <;> (try unfold flatBox) <;> decide +kernel

/-- An FP4 box and a ZMASK box of two groups with room for 256 values each. -/
def fp4Box : Box := { box0 with layout := 0x14, ext := ⟨64, 4, 1, 1⟩, decl := ⟨64, 4, 1, 1⟩ }
def zmBox : Box := { box0 with layout := 0x20, cap := 576, ext := ⟨512, 4, 1, 1⟩, decl := ⟨512, 4, 1, 1⟩ }

theorem witness_PackedAndZmaskAccess :
    (let s := vbox fp4Box 0#8 62 64; let a := s.vacc .w8 vm1;
      issuing s ∧ usable s.me [vm1.reg] ∧ accessible a false ∧ layZmask a.box.layout = false
      ∧ (layFp6 a.box.layout || layFp4 a.box.layout) = true ∧ a.box.mode ≠ .in_
      ∧ Label.sub (accLab s.me vm1 a ||| elemLab s.me a.w (.row vm1.reg)) a.box.lab = true)
    ∧ (let s := vbox zmBox 0#8 256 512; let a := s.vacc .w16 vm1;
      usable s.me [vm1.reg] ∧ accessible a false ∧ layZmask a.box.layout = true ∧ a.box.mode ≠ .in_
      ∧ (a.box.has (coordAt a 0) && a.box.has (coordAt a ((layGroup a.box.layout : Int) - 1))) = true
      ∧ Label.sub (accLab s.me vm1 a ||| elemLab s.me a.w (.row vm1.reg)) a.box.lab = true)
    ∧ (let s := vbox zmBox 0#8 512 512; let a := s.vacc .w16 vm1;
      usable s.me [vm1.reg] ∧ accessible a false ∧ layZmask a.box.layout = true
      ∧ (a.box.has (coordAt a 0) && a.box.has (coordAt a ((layGroup a.box.layout : Int) - 1))) = false) := by
  refine ⟨⟨?_, ?_, ?_, ?_, ?_, ?_, ?_⟩, ⟨?_, ?_, ?_, ?_, ?_, ?_⟩, ?_, ?_, ?_, ?_⟩ <;> (try unfold issuing) <;>
    (try unfold usable) <;> (try unfold accessible) <;> decide +kernel

/-! M lane and C lane -/

/-- A matrix of 128 by 128 E4M3 elements, and a core whose format queue starts with `fw` at cycle `c` of its segment. -/
def matBox : Box := { box0 with layout := 0x10, cap := 16384, ext := ⟨128, 128, 1, 1⟩, decl := ⟨128, 128, 1, 1⟩ }
def matrix (b : Box) (fmt : List Fmt) (c : Nat) (v : Bool) : State :=
  tasked 0 { inSeg with
    iss := { inSeg.iss with cyc := c }
    regs := { inSeg.regs with d := [(1, ⟨1#4, true, 0#8, ⟨1, 1, 1, 1⟩, ⟨0, 0, 0, 0⟩, ⟨128, 128, 1, 1⟩⟩)] }
    que := { inSeg.que with fmtq := fmt, slots := [(0, { (default : BSlot) with valid := v, sch := 0, ready := 1 })] } } [(1, b)]

theorem witness_MatrixLoad :
    (issuing (matrix matBox [] 20 false) ∧ (matrix matBox [] 20 false).me.que.fmtq = [])
    ∧ (let s := matrix matBox [⟨0#64, 0#8⟩] 20 false;
      s.me.que.fmtq = [⟨0#64, 0#8⟩] ∧ fwValid 0 = true ∧ (handle s 1#4).okM (fmtLayB (fwB 0)) false = true
      ∧ (handle s 1#4).okScale (fwScale 0) = true)
    ∧ ((matrix matBox [⟨0x20000#64, 0#8⟩] 20 false).me.que.fmtq = [⟨0x20000#64, 0#8⟩] ∧ fwValid 0x20000 = false)
    ∧ (let s := matrix box0 [⟨0#64, 0#8⟩] 20 false;
      fwValid 0 = true ∧ ¬ ((handle s 1#4).okM (fmtLayB (fwB 0)) false = true ∧ (handle s 1#4).okScale (fwScale 0) = true)) := by
  refine ⟨⟨?_, ?_⟩, ?_, ?_, ?_⟩ <;> (try unfold issuing) <;> decide +kernel

def agreed (s : State) (w : Nat) : Prop :=
  let sl := s.me.que.slots.get 0
  fwValid w = true ∧ (s.me.regs.tiles.get 2).int = fwInt w ∧ (sl.valid = true → sl.bfmt = fwB w ∧ sl.sch = fwScale w)
def soundA (s : State) (w : Nat) : Prop :=
  (handle s 1#4).okM (fmtLayA (fwA w)) true = true ∧ (handle s 1#4).okScale (fwScale w) = true

theorem witness_MatrixMultiply :
    (issuing (matrix matBox [] 42 true) ∧ (matrix matBox [] 42 true).me.iss.cyc < (matrix matBox [] 42 true).me.iss.dep + 23)
    ∧ ((matrix matBox [] 43 true).me.iss.dep + 23 ≤ (matrix matBox [] 43 true).me.iss.cyc
      ∧ (matrix matBox [] 43 true).me.que.fmtq = [])
    ∧ (let s := matrix matBox [⟨0#64, 0#8⟩] 43 true;
      s.me.iss.dep + 23 ≤ s.me.iss.cyc ∧ s.me.que.fmtq = [⟨0#64, 0#8⟩] ∧ agreed s 0
      ∧ (s.me.que.slots.get 0).valid = true ∧ false = fwChk 0 ∧ tileReady s.me 2 ∧ soundA s 0)
    ∧ (let s := matrix matBox [⟨0x20000#64, 0#8⟩] 43 true;
      s.me.que.fmtq = [⟨0x20000#64, 0#8⟩] ∧ ¬ agreed s 0x20000)
    ∧ (let s := matrix matBox [⟨0#64, 0#8⟩] 43 false; agreed s 0 ∧ (s.me.que.slots.get 0).valid = false)
    ∧ true ≠ fwChk 0
    ∧ (let s := matrix box0 [⟨0#64, 0#8⟩] 43 true;
      agreed s 0 ∧ (s.me.que.slots.get 0).valid = true ∧ ¬ (tileReady s.me 2 ∧ soundA s 0)) := by
  refine ⟨⟨?_, ?_⟩, ⟨?_, ?_⟩, ⟨?_, ?_, ?_, ?_, ?_, ?_, ?_⟩, ⟨?_, ?_⟩, ⟨?_, ?_⟩, ?_, ?_, ?_, ?_⟩ <;> (try unfold issuing) <;>
    (try unfold agreed) <;> (try unfold soundA) <;> (try unfold tileReady) <;> decide +kernel

theorem tolerance_zero : tolerance 0 := ⟨false, 0, _, rfl, fun _ => rfl⟩

/-- An MZERO of tile 2 is still to come; tile 3 is gated. -/
def tileWork : Machine.Unit :=
  { inSeg with
    pend := [⟨28, phWrite, lnM, 20, .mzero 2 0#8⟩]
    regs := { inSeg.regs with tiles := [(3, { (default : Tile) with pow := .gated })] } }

theorem witness_TileWords :
    (issuing (one inSeg) ∧ tileReady (one inSeg).me 15 ∧ tileReady (one inSeg).me 14
      ∧ tolerance ((one inSeg).me.pool 1).v.toNat ∧ tileReady (one inSeg).me ((one inSeg).me.vplace 20#8).1
      ∧ tileReady (one inSeg).me ((one inSeg).me.vplace 21#8).1 ∧ (one inSeg).me.vplace 20#8 ≠ (one inSeg).me.vplace 21#8)
    ∧ (issuing (one tileWork) ∧ ¬ tileReady (one tileWork).me 3)
    ∧ (¬ (∃ e ∈ (one tileWork).me.pend, ∃ k ∈ (one tileWork).me.effTiles e.eff, (3#5).toNat ≤ k)
      ∧ (∃ e ∈ (one tileWork).me.pend, ∃ k ∈ (one tileWork).me.effTiles e.eff, (2#5).toNat ≤ k)
      ∧ ¬ (∃ e ∈ (one tileWork).me.pend, ∃ k ∈ (one tileWork).me.effTiles e.eff, k = (3#4).toNat)
      ∧ (∃ e ∈ (one tileWork).me.pend, ∃ k ∈ (one tileWork).me.effTiles e.eff, k = (2#4).toNat))
    ∧ ((one tileWork).me.regs.tiles.get 3).pow ≠ .on ∧ ((one tileWork).me.regs.tiles.get 2).pow = .on := by
  refine ⟨⟨?_, ?_, ?_, tolerance_zero, ?_, ?_, ?_⟩, ⟨?_, ?_⟩, ⟨?_, ?_, ?_, ?_⟩, ?_, ?_⟩ <;> (try unfold issuing) <;>
    (try unfold tileReady) <;> decide +kernel

theorem of_some {α : Type} {P : α → Prop} {a : α} (h : P a) : ∀ b, some a = some b → P b := by rintro _ ⟨⟩; exact h
theorem of_none {α : Type} {P : α → Prop} : ∀ b, none = some b → P b := by rintro _ ⟨⟩

/-- A stream in device memory, and core 0 with box 1 in d1 and box 2 in d2, in a segment opened at tick 5, die 1 live. -/
def strBox : Box := { box0 with mode := .stream, scope := .devmem, root := some 0 }
def hnd (slot : Nat) (l : Label) (e0 e1 : Nat) : Desc :=
  ⟨BitVec.ofNat 4 slot, true, l, ⟨1, 1, 1, 1⟩, ⟨0, 0, 0, 0⟩, ⟨BitVec.ofNat 30 e0, BitVec.ofNat 30 e1, 1, 1⟩⟩
def copying (b1 b2 : Box) (l : Label) (e0 e1 ares : Nat) : State :=
  { tasked 0 { inSeg with
      seg := { inSeg.seg with tick := some 5 }
      que := { inSeg.que with ares := ares }
      regs := { inSeg.regs with d := [(1, hnd 1 0#8 e0 e1), (2, hnd 2 l e0 e1)] } } [(1, b1), (2, b2), (3, { ctrBox with scope := .scratch })]
    with dies := [(0, { (default : Die) with live := true, group := some 0 }),
      (1, { (default : Die) with live := true, group := some 0, ticks := [5] })] }
def ca12 : CA := ⟨1#4, 2#4, none, false, false⟩

theorem witness_CopyWordsIssue : ∃ r, copyWord (copying box0 strBox 0#8 8 4 0) (.cin h0 ca12) = some r
    ∧ issuing (copying box0 strBox 0#8 8 4 0) ∧ cleared (copying box0 strBox 0#8 8 4 0) r := by
  refine ⟨_, rfl, ?_, ?_, of_none, id, fun _ => ?_, trivial, of_some ?_, of_none⟩ <;> (try unfold issuing) <;>
    (try dsimp only) <;> decide +kernel

theorem witness_CrossDieWordsIssue : ∃ r, crossWord (copying matBox strBox 0#8 128 4 0) (.xsend h0 1#4 1#3 63#6 false) = some r
    ∧ issuing (copying matBox strBox 0#8 128 4 0) ∧ cleared (copying matBox strBox 0#8 128 4 0) r := by
  refine ⟨_, rfl, ?_, ⟨?_, ?_, ?_, 5, rfl, ?_, ?_, ?_, ?_, ?_⟩, of_none, id, fun _ => ?_, trivial, of_none, of_none⟩ <;> (try unfold issuing) <;>
    (try dsimp only) <;> decide +kernel

/-- Core 0 with `n` words of its own under way. -/
def crowd (n : Nat) (s : State) : State :=
  { s with xwords := (List.range n).map fun k => (k + 1, { (default : XWord) with kind := .cin, unit := 0 }) }

/-- A stream of E4M3 elements. -/
def strA : Box := { matBox with mode := .stream, scope := .devmem, root := some 0 }

theorem witness_CWordFaults :
    (∃ r, copyWord (copying box0 box0 0#8 8 4 0) (.cin h0 ca12) = some r ∧ issuing (copying box0 box0 0#8 8 4 0)
      ∧ ¬ (r.ok ∧ counterFits (copying box0 box0 0#8 8 4 0) r))
    ∧ (∃ r, signalWord (copying strA strA 0#8 128 32 1) (.cfill h0 1#4 none false) = some r
      ∧ issuing (copying strA strA 0#8 128 32 1) ∧ r.ok ∧ counterFits (copying strA strA 0#8 128 32 1) r ∧ r.late)
    ∧ (∃ r, copyWord (crowd 32 (copying box0 strBox 0#8 8 4 0)) (.cin h0 ca12) = some r
      ∧ issuing (crowd 32 (copying box0 strBox 0#8 8 4 0)) ∧ r.ok
      ∧ counterFits (crowd 32 (copying box0 strBox 0#8 8 4 0)) r ∧ ¬ r.late
      ∧ ¬ roomLeft (crowd 32 (copying box0 strBox 0#8 8 4 0)) r)
    ∧ (∃ r h, copyWord (copying roBox strBox 0#8 8 4 0) (.cin h0 ca12) = some r ∧ r.ok
      ∧ counterFits (copying roBox strBox 0#8 8 4 0) r ∧ ¬ r.late ∧ roomLeft (copying roBox strBox 0#8 8 4 0) r
      ∧ r.dst = some h ∧ h.box.mode = .in_)
    ∧ (∃ r h, copyWord (copying box0 strBox 1#8 8 4 0) (.cin h0 ca12) = some r ∧ r.ok
      ∧ counterFits (copying box0 strBox 1#8 8 4 0) r ∧ ¬ r.late ∧ roomLeft (copying box0 strBox 1#8 8 4 0) r
      ∧ r.dst = some h ∧ h.box.mode ≠ .in_ ∧ (∀ b, counterOf (copying box0 strBox 1#8 8 4 0) r = some b → b.mode ≠ .in_)
      ∧ Label.sub (cLab (copying box0 strBox 1#8 8 4 0) r) h.box.lab = false) := by
  refine ⟨⟨_, rfl, ?_, fun h => absurd h.1 ?_⟩, ⟨_, rfl, ?_, ?_, of_none, ?_⟩, ⟨_, rfl, ?_, ?_, of_none, id, fun h => absurd (h rfl) ?_⟩,
    ⟨_, _, rfl, ?_, of_none, id, fun _ => ?_, rfl, ?_⟩, ⟨_, _, rfl, ?_, of_none, id, fun _ => ?_, rfl, ?_, of_none, ?_⟩⟩ <;>
    (try unfold issuing) <;> (try dsimp only) <;> decide +kernel

/-- CSIG of the last counter of box 3, and of the first place past it, which counts nothing. -/
theorem witness_SignalWordsIssue : ∃ r, signalWord (copying box0 strBox 0#8 8 4 0) (.csig h0 3#4 7#8 1#14) = some r
    ∧ issuing (copying box0 strBox 0#8 8 4 0) ∧ cleared (copying box0 strBox 0#8 8 4 0) r
    ∧ (counted (copying box0 strBox 0#8 8 4 0) r).isSome = true ∧ ∃ q, signalWord (copying box0 strBox 0#8 8 4 0)
      (.csig h0 3#4 8#8 1#14) = some q ∧ cleared (copying box0 strBox 0#8 8 4 0) q
      ∧ counted (copying box0 strBox 0#8 8 4 0) q = none := by
  refine ⟨_, rfl, ?_, ⟨trivial, of_some ?_, id, fun h => absurd h ?_, trivial, of_none, of_some ?_⟩, ?_, _, rfl,
    ⟨trivial, of_some ?_, id, fun h => absurd h ?_, trivial, of_none, of_some ?_⟩, ?_⟩ <;>
    (try unfold issuing) <;> (try dsimp only) <;> decide +kernel

/-! Segments, phases, tasks -/

def later (t : Nat) (x : Machine.Unit) : Machine.Unit := { x with real := some t }
def due1 : Due := ⟨40, phWrite, lnS, 20, .raise 1#8⟩
def dueIn (x : Machine.Unit) : Machine.Unit := { x with pend := [due1] }
def drained (s : State) : State := { s with dies := [(0, { (default : Die) with drain := true })] }

theorem solo_one (x : Machine.Unit) (a : (one x).me.iss.timed = false) (b : (one x).me.mode = .code) (c : (one x).me.task = none) :
    solo (one x) := ⟨a, b, by rw [c]; exact of_none⟩

theorem witness_SyncWord :
    (one inSeg).me.iss.timed = true
    ∧ ((one (later 0 inCode)).me.iss.timed = false ∧ (one (later 0 inCode)).me.real = some 0
      ∧ 0 ≤ (one (later 0 inCode)).frame.toNat)
    ∧ ((one (later 1 inCode)).me.real = some 1 ∧ (one (later 1 inCode)).frame.toNat < 1)
    ∧ (solo (one inCode) ∧ (one inCode).me.real = none ∧ (one inCode).me.pend = []
      ∧ ((one inCode).dies.get (dieOf (one inCode).active)).drain = false)
    ∧ (solo (one (dueIn inCode)) ∧ (one (dueIn inCode)).me.pend ≠ [])
    ∧ ((drained (one inCode)).dies.get (dieOf (one inCode).active)).drain = true := by
  refine ⟨?_, ⟨?_, ?_, ?_⟩, ⟨?_, ?_⟩, ⟨solo_one _ ?_ ?_ ?_, ?_, ?_, ?_⟩, ⟨solo_one _ ?_ ?_ ?_, ?_⟩, ?_⟩ <;> decide +kernel

/-- Core 0 in a segment that has ended with `e`, its last word at cycle 9. -/
def closing (e : Option (BitVec 64 × BitVec 32)) : Machine.Unit :=
  { inSeg with seg := { inSeg.seg with ended := e, last := 9 } }
def rightSig : BitVec 64 := signatureOf (one (closing none))

theorem witness_SegmentEnd :
    (one inCode).me.iss.timed = false
    ∧ ((one (deep 1 inSeg)).me.iss.timed = true ∧ (one (deep 1 inSeg)).me.vol.rstack ≠ [])
    ∧ ((one inSeg).me.iss.timed = true ∧ (one inSeg).me.vol.rstack = [])
    ∧ (let s := one (closing (some (rightSig, 11#32)));
      s.me.mode = .seg ∧ s.me.seg.ended = some (rightSig, 11#32) ∧ ¬ buffered s ∧ s.me.seg.last + 1 ≠ (11#32).toNat)
    ∧ (let s := one (closing (some (rightSig, 10#32)));
      s.me.mode = .seg ∧ s.me.seg.ended = some (rightSig, 10#32) ∧ ¬ buffered s ∧ signatureOf s = rightSig
      ∧ s.me.seg.last + 1 = (10#32).toNat ∧ noWords s ∧ s.strict s.active = false) := by
  refine ⟨?_, ⟨?_, ?_⟩, ⟨?_, ?_⟩, ⟨?_, ?_, ?_, ?_⟩, ⟨?_, ?_, ?_, ?_, ?_, ?_, ?_⟩⟩ <;> (try unfold buffered) <;> (try unfold noWords) <;>
    decide +kernel

/-- Core 0 at a word of untimed code of task 1, under phase protection, in attempt `n`. -/
def phased (n : Nat) : State :=
  guarded (tasked 0 { inCode with vol := { inCode.vol with attempt := n } } [(1, { ctrBox with scope := .scratch })])

theorem solo_phased (n : Nat) : solo (phased n) :=
  ⟨rfl, rfl, of_some ⟨rfl, rfl⟩⟩

theorem witness_PhaseWords :
    ((one inSeg).me.iss.timed = true ∧ (one inCode).prot (one inCode).active = false)
    ∧ (let s := guarded (tasked 0 (dueIn inCode) []);
      s.me.iss.timed = false ∧ s.prot s.active = true ∧ s.me.pend ≠ [])
    ∧ (solo (phased 2) ∧ (phased 2).prot (phased 2).active = true ∧ (phased 2).me.pend = [] ∧ noWords (phased 2)
      ∧ 2 ≤ (phased 2).me.vol.attempt)
    ∧ (solo (phased 1) ∧ (phased 1).me.vol.attempt < 2 ∧ (phased 1).me.iss.timed = false) := by
  refine ⟨⟨?_, ?_⟩, ⟨?_, ?_, ?_⟩, ⟨solo_phased 2, ?_, ?_, ?_, ?_⟩, solo_phased 1, ?_, ?_⟩ <;> (try unfold noWords) <;> decide +kernel

theorem pair_of {α β : Type} (p : α × β) (b : β) (h : p.2 = b) : ∃ t, p = (t, b) := ⟨p.1, by rw [← h]⟩

/-- Core 0 waiting for counter 7 of box 1 to come to 0. -/
def waiting : State := tasked 0 { inCode with mode := .wait 1 7 0 4#8 } [(1, { ctrBox with scope := .scratch })]

theorem witness_WaitWord :
    (one inSeg).me.iss.timed = true
    ∧ (let b := (phased 0).box 0 1;
      (phased 0).me.iss.timed = false ∧ ¬ (b.present = true ∧ b.layout = 0x30 ∧ b.has ⟨8, 0, 0, 0⟩ = true)
      ∧ solo (phased 0) ∧ (b.present = true ∧ b.layout = 0x30 ∧ b.has ⟨7, 0, 0, 0⟩ = true) ∧ noWords (phased 0)
      ∧ ((phased 0).prot 0 = true → (phased 0).me.pend = []))
    ∧ (let b := waiting.box 0 1;
      (waiting.task 1).unit = some 0 ∧ (waiting.unit 0).mode = .wait 1 7 0 4#8 ∧ b.present = true ∧ b.layout = 0x30
      ∧ b.has ⟨7, 0, 0, 0⟩ = true
      ∧ ∃ t, waiting.counterGet (waiting.ctxOf 0) 0 b (b.addr ⟨7, 0, 0, 0⟩) = (t, .ok 0) ∧ 0 ≤ 0) := by
  refine ⟨?_, ⟨?_, ?_, solo_phased 0, ?_, ?_, ?_⟩, ?_, ?_, ?_, ?_, ?_,
    (pair_of _ _ ?_).imp fun _ h => ⟨h, Nat.le_refl 0⟩⟩ <;> (try unfold noWords) <;> decide +kernel

/-- Sequencer 0 running task 1 with argument slot 3 pending, its handle d1 of box 1, d2 invalid. -/
def arguing (b : Box) : State :=
  (tasked 384 { inCode with regs := { inCode.regs with d := [(1, hnd 1 0#8 8 4)] } } [(1, b)]).modTask 1 fun t =>
    { t with args := [⟨3, hnd 1 0#8 8 4, .in_, .excl, 0#8⟩] }

theorem witness_ArgumentWord :
    working (arguing box0) ∧ ((arguing box0).me.readP g0).v = true ∧ (arguing box0).me.task = some 1
    ∧ ((arguing box0).me.regs.d.get 2).valid = false
    ∧ (∃ a ∈ ((arguing box0).task 1).args, a.slot = (3#4).toNat)
    ∧ ((arguing box0).me.regs.d.get 1).valid = true ∧ ¬ (∃ a ∈ ((arguing box0).task 1).args, a.slot = (4#4).toNat)
    ∧ ((arguing roBox).box 384 1).mode = .in_ ∧ (AMode.out = .out ∨ AMode.out = .inout)
    ∧ ¬ ((AMode.out = .out ∨ AMode.out = .inout) ∧ ((arguing box0).box 384 1).mode = .in_) := by
  refine ⟨?_, ?_, ?_, ?_, ?_, ?_, ?_, ?_, ?_, ?_⟩ <;> (try unfold working) <;> decide +kernel

/-- Sequencer 0 running task 1 of level 0 beside `n` other tasks of die 0; task entry 1 is of level 1, in domain `dom`. -/
def parent (dom n : Nat) : State :=
  { (tasked 384 inCode [(1, box0)]) with
    spawns := 2
    tasks := (1, { (default : Task) with st := .running, lid := 1, unit := some 384, seq := true, boxes := [(1, box0)] })
      :: (List.range n).map fun i => (i + 2, { (default : Task) with st := .done })
    launches := [(1, { (default : Launch) with
      live := true, tasks := [default, { (default : TaskE) with level := 1 }], levels := [default, { (default : LevelE) with domain := dom }] })] }

theorem witness_SpawnWords :
    (working (parent 2 0) ∧ ((parent 2 0).me.readP g0).v = true ∧ (parent 2 0).me.task = some 1
      ∧ ((parent 2 0).task 1).st = .running ∧ 1 < (parent 2 0).spawns
      ∧ ((parent 2 0).launchOf 384).tasks[((parent 2 0).me.readT (.imm 2#7)).v.toNat]? = none
      ∧ spawnBad (lifted (parent 2 0) g0) 384 ((parent 2 0).me.readT (.imm 1#7)).v.toNat 2 true = some (fIllegalOperand, 0)
      ∧ spawnBad (lifted (parent 2 0) g0) 384 ((parent 2 0).me.readT (.imm 1#7)).v.toNat 1 false = none
      ∧ ¬ (parent 2 0).freeEntries ((lifted (parent 2 0) g0).childDie 384) < 1 + 512
      ∧ (((parent 2 0).task 1).args.map (·.slot)).Nodup)
    ∧ (spawnBad (lifted (parent 2 3583) g0) 384 ((parent 2 3583).me.readT (.imm 1#7)).v.toNat 1 false = none
      ∧ (((parent 2 3583).launchOf 384).levelOf (((parent 2 3583).task 1).level + 1)).domain ≠ 4
      ∧ (parent 2 3583).freeEntries ((lifted (parent 2 3583) g0).childDie 384) < 1 + 512)
    ∧ (spawnBad (lifted (parent 4 0) g0) 384 ((parent 4 0).me.readT (.imm 1#7)).v.toNat 8 true = none
      ∧ ¬ (parent 4 0).freeEntries ((lifted (parent 4 0) g0).childDie 384) < 8) := by
  refine ⟨⟨?_, ?_, ?_, ?_, ?_, ?_, ?_, ?_, ?_, ?_⟩, ⟨?_, ?_, ?_⟩, ?_, ?_⟩ <;> (try unfold working) <;> decide +kernel

/-- Task 1 on core 0 with a COUT of its own under way. -/
def ending : State := { tasked 0 inCode [] with xwords := [(1, { (default : XWord) with kind := .cout false, task := 1 })] }

theorem witness_TaskEndWords :
    (working (arguing box0) ∧ (arguing box0).me.task = some 1 ∧ ((arguing box0).task 1).args ≠ [] ∧ ¬ mayEnd (arguing box0))
    ∧ (working (parent 2 0) ∧ ((parent 2 0).me.readP g0).v = true ∧ (parent 2 0).me.task = some 1 ∧ ((parent 2 0).task 1).args = [])
    ∧ (let s := tasked 0 (dueIn inCode) []; working s ∧ s.me.task = some 1 ∧ mayEnd s ∧ s.me.pend ≠ [])
    ∧ (working ending ∧ ending.me.task = some 1 ∧ mayEnd ending ∧ ending.me.pend = [] ∧ ending.prot ending.active = false
      ∧ ending.wordsDone 1 = false)
    ∧ (let s := phased 0;
      working s ∧ s.me.task = some 1 ∧ mayEnd s ∧ s.me.pend = [] ∧ noWords s ∧ s.strict s.active = false
      ∧ s.outLabelBad (s.task 1) = none ∧ (s.task 1).group = []) := by
  refine ⟨⟨?_, ?_, ?_, ?_⟩, ⟨?_, ?_, ?_, ?_⟩, ⟨?_, ?_, ?_, ?_⟩, ⟨?_, ?_, ?_, ?_, ?_, ?_⟩, ?_, ?_, ?_, ?_, ?_, ?_, ?_, ?_⟩ <;>
    (try unfold working) <;> (try unfold noWords) <;> (try unfold mayEnd) <;> decide +kernel

theorem not_tending (m : UMode) (h : (match m with | .tending _ => false | _ => true) = true) : ∀ e, m ≠ .tending e := by
  rintro e rfl; exact Bool.noConfusion h

theorem witness_FaultOutcomes :
    (∀ n ∈ [1, 2], ((phased n).unit 0).task = some 1 ∧ ((phased n).task 1).gang = none
      ∧ ∀ e, ((phased n).unit 0).mode ≠ .tending e)
    ∧ 0x02 ∈ failCodes ∧ ((phased 1).unit 0).vol.attempt < 2 ∧ 2 ≤ ((phased 2).unit 0).vol.attempt
    ∧ (0x03 ∉ failCodes ∧ 0x0D ∉ failCodes ∧ 0x11 ∉ failCodes ∧ 0x14 ∉ failCodes) := by
  refine ⟨fun n hn => ⟨?_, ?_, not_tending _ ?_⟩, ?_, ?_, ?_, ?_⟩
  · revert n; decide +kernel
  · revert n; decide +kernel
  · revert n; decide +kernel
  all_goals decide +kernel

/-- Core 0 in a segment with `e` to come at cycle 40. -/
def coming (e : Eff) : State := one { inSeg with pend := [⟨40, phWrite, lnS, 20, e⟩] }
/-- Core 0 with ACCINJ armed for tile 0, and a row group to come that it may flip. -/
def armed : State := one { inSeg with
  vol := { inSeg.vol with accinj := ⟨0x8000000000000000#64, 0#8⟩ }
  pend := [⟨40, phWrite, lnM, 20, .mzero 0 0#8⟩] }

theorem witness_TimedEffects :
    (∀ e, (coming e).me.pend = [⟨40, phWrite, lnS, 20, e⟩] ∧ (coming e).me.mode ≠ .idle ∧ (coming e).me.que.mwC ≠ 40
      ∧ 15 < (coming e).me.regs.acc ∧ ((coming e).me.regs.tiles.get 15).pow = .on)
    ∧ ((coming (.sname 1 default)).me.mode = .seg ∧ (coming (.sname 1 default)).me.fetchBlocked = false)
    ∧ (armed.me.pend ≠ [] ∧ armed.me.mode = .seg ∧ armed.me.flipCand.isSome = true) := by
  refine ⟨fun e => ⟨rfl, ?_, ?_, ?_, ?_⟩, ⟨?_, ?_⟩, ?_, ?_, ?_⟩
  · show UMode.seg ≠ .idle; decide
  · show (0 : Nat) ≠ 40; decide
  · show 15 < 16; decide
  · rfl
  all_goals decide +kernel

/-- Task 1 of gang-less launch 1 in state `st` on core 0, which is in mode `m`; 4 ms and more may have passed at tick `f`. -/
def sched (m : UMode) (t : Task) (l : Launch) (f : Nat) : State :=
  { (default : State) with
    units := [(0, { inCode with mode := m, task := if m = .idle then none else some 1 })]
    tasks := [(1, { t with lid := 1, unit := some 0 })]
    launches := [(1, l)]
    frame := BitVec.ofNat 64 f
    dies := [(0, { (default : Die) with live := true })] }
def onUnit : Task := { (default : Task) with st := .running }
def plain : Launch := { (default : Launch) with live := true, tasks := [default] }
def protect : Launch := { plain with tasks := [{ (default : TaskE) with prot := true }] }
def waitMode : UMode := .wait 1 7 3 0#8

theorem witness_TasksLeaveUnits :
    (let s := sched .restoring onUnit protect 0;
      runs1 s 1 0 ∧ (s.unit 0).mode = .restoring ∧ s.quiet 0 = true ∧ (s.unit 0).saving = 0 ∧ s.prot 0 = true)
    ∧ (let s := sched .restoring onUnit plain 0; runs1 s 1 0 ∧ s.quiet 0 = true ∧ (s.unit 0).saving = 0 ∧ s.prot 0 = false)
    ∧ (let s := sched waitMode onUnit plain 25;
      runs1 s 1 0 ∧ (s.unit 0).mode = .wait 1 7 3 0#8 ∧ passed s (s.unit 0).since (s.launch (s.task 1).lid).limit
      ∧ s.quiet 0 = true ∧ (s.task 1).timed = none)
    ∧ ((sched waitMode { onUnit with timed := some (0, 3, 0) } plain 25).task 1).timed = some (0, 3, 0)
    ∧ (let s := sched .idle { onUnit with st := .parked } plain 0;
      (s.task 1).gang = none ∧ (s.task 1).st = .parked ∧ (s.asids.get (s.launch (s.task 1).lid).asid).off = false
      ∧ ∃ t, s.wakes 1 = (t, .ok true))
    ∧ (let s := sched .held onUnit plain 0; runs1 s 1 0 ∧ (s.unit 0).mode = .held)
    ∧ (let s := tasked 384 { inCode with mode := .held } [];
      (s.task 1).unit = some 384 ∧ (s.unit 384).mode = .held ∧ 384 ≤ 384)
    ∧ (let s := { sched .code onUnit plain 25 with asids := [(0, { (default : As) with pre := some (0, 100) })] };
      runs1 s 1 0 ∧ ((s.unit 0).mode = .code ∨ (s.unit 0).mode = .seg) ∧ (s.task 1).timed = none ∧ (s.unit 0).saveNext = false
      ∧ (s.asids.get (s.launch (s.task 1).lid).asid).pre = some (0, 100) ∧ passed s 0 100) := by
  refine ⟨⟨?_, ?_, ?_, ?_, ?_⟩, ⟨?_, ?_, ?_, ?_⟩, ⟨?_, ?_, ?_, ?_, ?_⟩, ?_, ⟨?_, ?_, ?_, pair_of _ _ ?_⟩, ⟨?_, ?_⟩, ⟨?_, ?_, ?_⟩,
    ?_, ?_, ?_, ?_, ?_, ?_⟩ <;> (try unfold runs1) <;> (try unfold passed) <;> decide +kernel

/-- Task 1, in state PREPARING, has a LOCAL box in device memory whose page it may read but not write. -/
def unwritable : State :=
  { sched .idle { onUnit with st := .preparing, boxes := [(1, { box0 with mode := .loc, scope := .devmem })] } plain 0 with
    tlb := [(0, 0, 0, { (default : Pte) with r := true })] }
def preparing : State := sched .idle { onUnit with st := .preparing } plain 0
def returning : State := sched .idle { onUnit with st := .returning } plain 0
/-- Task 1 joins its children 2 and 3, which are done. -/
def joining : State :=
  { sched .idle default plain 0 with tasks := [(1, { (default : Task) with st := .joining, lid := 1, group := [2, 3] }),
      (2, { (default : Task) with st := .done }), (3, { (default : Task) with st := .done, how := .tfail 7 })] }

theorem witness_ChildrenJoin :
    (let s := preparing;
      (s.task 1).st = .preparing ∧ (s.task 1).unit = some 0 ∧ (s.task 1).ready = false ∧ s.schedStalled 1 = false
      ∧ (s.copyIn 1) = (s, none) ∧ (s.task 1).gang = none)
    ∧ (let s := unwritable;
      (s.task 1).st = .preparing ∧ (s.task 1).unit = some 0 ∧ (s.task 1).ready = false ∧ s.schedStalled 1 = false
      ∧ ∃ t va acc, s.copyIn 1 = (t, some (.flt fPermission 0 0 va, acc)))
    ∧ (let s := returning;
      (s.task 1).st = .returning ∧ s.schedStalled 1 = false
      ∧ s.outBoxes 1 ((s.task 1).unit.getD 0) (s.task 1).boxes = (s, none))
    ∧ (let s := joining;
      (s.task 1).st = .joining ∧ (∀ i ∈ (s.task 1).group, (s.task i).st = .done ∧ s.wordsDone i = true)
      ∧ s.schedStalled 1 = false ∧ s.recordsOut (s.launch (s.task 1).lid).fn = true
      ∧ s.mergeAll (s.task 1).home (s.task 1).group = (s, none) ∧ (s.task 1).how = .ok ∧ 1 ∉ (s.task 1).group) := by
  refine ⟨⟨?_, ?_, ?_, ?_, Prod.ext ?_ ?_, ?_⟩, ⟨?_, ?_, ?_, ?_, (pair_of _ (some (XErr.flt fPermission 0 0 0, 1)) ?_).imp fun _ h => ⟨0, 1, h⟩⟩, ⟨?_, ?_, Prod.ext ?_ ?_⟩,
    ?_, ?_, ?_, ?_, Prod.ext ?_ ?_, ?_, ?_⟩ <;> decide +kernel

/-- Task 1 is READY on core 0: alone, or the one member of gang 5 with the reservation `r`. -/
def ready1 (t : Task) : State := sched .idle { t with st := .ready } { plain with ceil := 3 } 1000
def ganged (r : GRes) : State :=
  { ready1 { (default : Task) with gang := some (5, 0, 1) } with gangs := [(5, [1])], gres := [(5, r)] }

theorem witness_SchedulerPicks :
    (let s := ready1 default;
      (s.task 1).st = .ready ∧ passed s (s.task 1).start 4000 ∧ (s.task 1).prio < (s.launch (s.task 1).lid).ceil)
    ∧ (gangReady (ganged (.held 750)) 1 5 ∧ ((ganged (.held 750)).task 1).timed = none
      ∧ (ganged (.held 750)).allIdle ((ganged (.held 750)).gangTasks 1) = true
      ∧ (ganged (.held 750)).gres.get 5 = .held 750 ∧ passed (ganged (.held 750)) 750 1000
      ∧ gangReady (ganged (.lapsed 750)) 1 5 ∧ (ganged (.lapsed 750)).gres.get 5 = .lapsed 750)
    ∧ (let s := ready1 { (default : Task) with timed := some (0, 1000, 0) };
      (s.task 1).timed = some (0, 1000, 0) ∧ (s.task 1).saved = none ∧ 1000 = s.frame.toNat ∧ (s.task 1).st = .ready
      ∧ (s.task 1).gang = none ∧ (s.task 1).unit = some 0 ∧ s.idleUnit 0 = true ∧ s.fitsUnit 0 1 = true)
    ∧ (let s := ready1 { (default : Task) with timed := some (0, 999, 0) };
      (s.task 1).timed = some (0, 999, 0) ∧ 999 < s.frame.toNat ∧ (s.task 1).st = .ready)
    ∧ (let a := ready1 default;
      a.idleUnit 0 = true ∧ a.reservedFor 0 = none
      ∧ a.best ((a.queued 0).filter fun i => (a.task i).st = .ready && (a.task i).gang.isNone && (a.task i).timed.isNone
        && a.fitsUnit 0 i) = some 1)
    ∧ (let s := { sched .idle { onUnit with st := .parked } plain 0 with
        asids := [(0, { (default : As) with pre := some (0, 100) })] };
      (s.asids.get 0).pre = some (0, 100) ∧ ∀ e ∈ s.tasks, (s.launch e.2.lid).asid = 0 →
        e.2.st ≠ .running ∧ e.2.st ≠ .preparing ∧ e.2.st ≠ .ready ∧ e.2.st ≠ .returning) := by
  refine ⟨⟨?_, ?_, ?_⟩, ⟨⟨⟨0, 1, ?_⟩, ?_⟩, ?_, ?_, ?_, ?_, ⟨⟨0, 1, ?_⟩, ?_⟩, ?_⟩, ⟨?_, ?_, ?_, ?_, ?_, ?_, ?_, ?_⟩, ⟨?_, ?_, ?_⟩,
    ?_, ?_, ?_⟩ <;> (try unfold passed) <;> decide +kernel

theorem witness_TaskStart :
    (∃ v, ((sched .idle { onUnit with saved := some default } plain 0).task 1).saved = some v)
    ∧ ((sched .idle onUnit plain 0).task 1).saved = none := by
  refine ⟨⟨_, rfl⟩, ?_⟩; decide +kernel

/-! Untimed words, launches, pages -/

/-- One C word under way, from the stream of device memory `strBox` to box `box0` of core 0. -/
def moving (k : XKind) (f : XWord → XWord) : State :=
  { (default : State) with xwords := [(1, f { (default : XWord) with
      kind := k, unit := 0, task := 1, issue := 20, src := ⟨hnd 2 0#8 8 4, strBox⟩, dst := ⟨hnd 1 0#8 8 4, box0⟩ })] }
/-- The page of the stream may be written but not read. -/
def unreadable (s : State) : State := { s with tlb := [(0, 0, 0, { (default : Pte) with w := true })] }
def atomic (n : Nat) : XKind := .ratom .add true 5#16 1 0 n
/-- An atomic whose operands are read, and the same with its answer recorded. -/
def asked (n : Nat) : State := moving (atomic n) fun w => { w with read := 1, src := w.dst, dst := w.src }
def replied : State := { asked 0 with ratoms := [(0, 0, 5#16, 7)] }

theorem witness_UntimedWords :
    (let s := moving (.csig 1) id; let w := s.xwords.get 1;
      Tab.find s.xwords 1 = some w ∧ w.done = false ∧ w.kind = .csig 1 ∧ ∃ t, s.tryWord 1 = (t, .ok))
    ∧ (let s := moving (.csig 1) fun w => { w with cstat := .pending }; let w := s.xwords.get 1;
      Tab.find s.xwords 1 = some w ∧ w.kind = .csig 1 ∧ w.done = false ∧ s.xfrozen w = false ∧ s.mayMove 1 w = true
      ∧ w.cstat = .pending)
    ∧ (let s := moving (.xsend 1 0 0) fun w => { w with data := List.replicate 64 0#8 }; let w := s.xwords.get 1;
      w.kind = .xsend 1 0 0 ∧ w.done = false ∧ w.src.size ≤ w.data.length)
    ∧ (∃ t, (unreadable (moving .cin id)).tryWord 1 = (t, .flt fPermission 0 0 0) ∧ (t.xwords.get 1).void = false)
    ∧ ((replied.xwords.get 1).kind = atomic 0 ∧ ∃ t, replied.tryWord 1 = (t, .ok))
    ∧ (∀ n ∈ [2, 3], let s := asked n; let w := s.xwords.get 1;
      w.kind = atomic n ∧ w.done = false ∧ w.read ≠ 0 ∧ s.mayMove 1 w = true ∧ s.xfrozen w = false)
    ∧ ((32 = 32 ∨ 32 = 64) ∧ 2 ^ 32 - 1 < 2 ^ 32) := by
  refine ⟨⟨?_, ?_, ?_, pair_of _ _ ?_⟩, ⟨?_, ?_, ?_, ?_, ?_, ?_⟩, ⟨?_, ?_, ?_⟩,
    ⟨((unreadable (moving .cin id)).tryWord 1).1, Prod.ext rfl ?_, ?_⟩, ⟨?_, pair_of _ _ ?_⟩, ?_, ?_⟩ <;> decide +kernel

theorem movesItself_csig : movesItself (.csig 1) := trivial

def okOf (p : State × Except XErr RdOk) : RdOk := match p.2 with | .ok r => r | .error _ => default
theorem read_of (p : State × Except XErr RdOk) (h : p.2 = .ok (okOf p)) : p = (p.1, .ok (okOf p)) := Prod.ext rfl h

/-- A chain entry of operation `op` (R310) and a launch record of two levels, one root and one task (R285 to R289). -/
def entryBytes (op : Nat) : List Byte := leBytes 8 8192 ++ leBytes 1 op ++ leBytes 3 0 ++ leBytes 2 1 ++ leBytes 1 1 ++ leBytes 49 0
def recordBytes : List Byte :=
  leBytes 4 0x314D554C ++ leBytes 2 1 ++ [2#8, 1#8] ++ leBytes 2 1 ++ leBytes 2 0 ++ leBytes 4 0 ++ leBytes 8 0
    ++ List.replicate 16 0xFF#8 ++ leBytes 4 0 ++ leBytes 4 64 ++ leBytes 4 96 ++ leBytes 4 128 ++ leBytes 4 672 ++ leBytes 4 0
    ++ ([0#8, 3#8] ++ leBytes 14 0) ++ ([4#8, 0#8] ++ leBytes 14 0)
    ++ (leBytes 8 0 ++ [1#8, 1#8, 0#8, 3#8] ++ leBytes 4 0 ++ leBytes 4 8 ++ leBytes 4 1 ++ leBytes 4 1 ++ leBytes 4 1)
    ++ (leBytes 4 0 ++ leBytes 12 0 ++ leBytes 4 160 ++ leBytes 12 0) ++ List.replicate 512 0#8

/-- The bytes from address `a` on, those that are zero left out. -/
def cellsAt (a : Nat) (bs : List Byte) : Mem := (bs.zipIdx.filter fun e => e.1 ≠ 0#8).map fun e => (a + e.2, e.1)

/-- A host's chain with one entry of operation `op` in its window, in the address space 1 that is granted to it. -/
def chained (op : Nat) : State :=
  { (default : State) with
    pwr := { (default : Pwr) with ready := true }
    fns := [(0, { (default : Fn) with
      chains := [(0, { (default : Chain) with base := 4096, log2n := 4, en := true, tail := 1#64 })], winSet := true, winAs := 1 })]
    asids := [(1, { (default : As) with live := true, map := List.replicate 8 0 })]
    dies := [(0, { (default : Die) with live := true })]
    tlb := [(8, 1, 0, { (default : Pte) with r := true })]
    dev := cellsAt 4096 (entryBytes op) ++ cellsAt 8192 recordBytes }

/-- The read of the entry, of the record's header and of the record, one after the other. -/
def entryRd (op : Nat) : State × Except XErr RdOk := (chained op).readVa (cpCtx 1) .rd false 2 4096 64
def headRd : State × Except XErr RdOk := (entryRd 1).1.readVa (cpCtx 1) .rd false 3 8192 64
def recordRd : State × Except XErr RdOk := headRd.1.readVa (cpCtx 1) .rd false (pagesOf 672) 8192 672
def entryGot (op : Nat) : ChainE := chainEntryOf (okOf (entryRd op)).data

theorem entry_read (op : Nat) (h : (entryRd op).2 = .ok (okOf (entryRd op))) (k : (entryGot op).serial = false) :
    entryRead (chained op) (entryRd op).1 0 0 (entryGot op) :=
  ⟨by rfl, by rfl, by show (0#64 : BitVec 64) < 1#64; decide, by rfl, by rfl, by rfl, by rfl,
    fun j => absurd j (by rw [k]; decide), okOf (entryRd op), read_of (entryRd op) h, rfl⟩

/-- A launch whose entry task 1 is done, without a status record. -/
def launched : State :=
  { chained 0 with
    tasks := [(1, { (default : Task) with st := .done })]
    launches := [(1, { (default : Launch) with live := true, asid := 1, top := 1 })] }

def recordGot : Launch :=
  (launchOfBytes (okOf recordRd).data (recordRd.1.asids.get 1).map (recordRd.1.asids.get 1).slots).getD default

theorem entry_done (op : Nat) (h : op < 2) : (entryRd op).2 = .ok (okOf (entryRd op)) ∧ (entryGot op).serial = false
    ∧ (entryGot op).op = op ∧ (entryGot op).asid = 1 ∧ (entryGot op).record = 8192 := by
  revert op; decide +kernel
theorem head_done : headRd.2 = .ok (okOf headRd) ∧ Machine.fld (okOf headRd).data 0x38 4 = 672 := by decide +kernel
theorem record_done : recordRd.2 = .ok (okOf recordRd)
    ∧ launchOfBytes (okOf recordRd).data (recordRd.1.asids.get 1).map (recordRd.1.asids.get 1).slots = some recordGot
    ∧ recordGot.live = true ∧ recordRd.1.timedOk (entryGot 1) recordGot = true := by decide +kernel

theorem witness_chain : (let c := (chained 0).chain 0 0;
      door (chained 0) (chained 0) 0 0 ∧ c.en = true ∧ (0#64).toNat < c.tail.toNat ∧ c.head.toNat + 2 ^ c.log2n < (17#64).toNat
      ∧ c.tail.toNat ≤ (1#64).toNat ∧ (16#64).toNat ≤ c.head.toNat + 2 ^ c.log2n)
    ∧ (door (chained 0) (chained 0) 0 3 ∧ ((chained 0).chain 0 3).en = false)
    ∧ (entryRead (chained 0) (entryRd 0).1 0 0 (entryGot 0) ∧ (entryGot 0).op = 0) := by
  have e := entry_done 0 (by decide)
  refine ⟨?_, ?_, entry_read 0 e.1 e.2.1, e.2.2.1⟩ <;> (try unfold door) <;> decide +kernel

theorem witness_launch : let e := entryGot 1; let t := (entryRd 1).1; let h := okOf headRd; let t2 := recordRd.1;
      entryRead (chained 1) t 0 0 e ∧ e.op = 1 ∧ t.entryOk 0 e = true ∧ t.cpStalled e.asid = false
      ∧ t.readVa (cpCtx e.asid) .rd false 3 e.record 64 = (headRd.1, .ok h) ∧ 64 ≤ Machine.fld h.data 0x38 4
      ∧ headRd.1.readVa (cpCtx e.asid) .rd false (pagesOf (Machine.fld h.data 0x38 4)) e.record (Machine.fld h.data 0x38 4)
        = (t2, .ok (okOf recordRd))
      ∧ launchOfBytes (okOf recordRd).data (t2.asids.get e.asid).map (t2.asids.get e.asid).slots = some recordGot
      ∧ recordGot.live = true ∧ t2.timedOk e recordGot = true := by
  have e := entry_done 1 (by decide)
  have r := record_done
  refine ⟨entry_read 1 e.1 e.2.1, e.2.2.1, ?_, ?_, ?_, ?_, ?_, ?_, r.2.2.1, r.2.2.2⟩
  · decide +kernel
  · decide +kernel
  · rw [e.2.2.2.1, e.2.2.2.2]; exact read_of headRd head_done.1
  · rw [head_done.2]; decide
  · rw [e.2.2.2.1, e.2.2.2.2, head_done.2]; exact read_of recordRd r.1
  · rw [e.2.2.2.1]; exact r.2.1

theorem witness_launchEnd : let s := launched; let l := s.launch 1;
      s.launchDone 1 = true ∧ s.cpStalled l.asid = false ∧ s.recordsOut l.fn = true ∧ (s.task l.top).how = .ok
      ∧ s.writeStatus l.fn l.asid l.status l.user 0 0 0 0#8 = some s := by
  refine ⟨?_, ?_, ?_, ?_, ?_⟩ <;> decide +kernel

/-- `witness_chain`, `witness_launch` and `witness_launchEnd`, in the order of the clauses. -/
theorem witness_ChainsAndLaunches :
    entryRead (chained 0) (entryRd 0).1 0 0 (entryGot 0) ∧ entryRead (chained 1) (entryRd 1).1 0 0 (entryGot 1)
    ∧ launched.launchDone 1 = true := ⟨witness_chain.2.2.1, witness_launch.1, witness_launchEnd.1⟩

/-- Core 0 stalls for page 0 of its address space: a stall, posted under tag 9 as `a` asked, or walked again since. -/
def stalled (a : Agent) (posted walked : Bool) : Stall := ⟨0, 0, 0, 0, 1, a, 0, 9, 1, posted, walked⟩
def faulting (a : Agent) (posted walked : Bool) : State :=
  { (default : State) with
    pwr := { (default : Pwr) with ready := true }
    units := [(384, { inCode with mode := .stall 0 })]
    stalls := [stalled a posted walked] }
def paged (s : State) : State := { s with tlb := [(0, 0, 0, { (default : Pte) with r := true }), (8, 0, 0, { (default : Pte) with tx := true })]
                                          asids := [(0, { (default : As) with fst := [(0, some ([0#64], 1, 0, 0#8))] })] }

theorem witness_PageFaults :
    (let s := moving .cin id;
      s.stalls = [] ∧ (s.wordWaits ++ s.counterWaits ++ s.schedWaits ++ s.cpWaits).filter (fun x =>
        decide (x.die = 0) && decide (x.asid = 0) && decide (x.page = 0)) = s.wordWaits ∧ s.wordWaits.length = 1)
    ∧ (let s := faulting (.clane 0) true true;
      s.pwr.ready = true ∧ s.stalls = [stalled (.clane 0) true true] ∧ (stalled (.clane 0) true true).tag % 65536 = (9#16).toNat
      ∧ ∀ x ∈ s.stalls, ¬ (x.posted = true ∧ x.die = 0 ∧ x.tag % 65536 = (8#16).toNat))
    ∧ (let s := faulting (.seq 384) true true;
      s.stalls = [stalled (.seq 384) true true] ∧ (s.unit 384).mode = .stall 0)
    ∧ (let s := paged (faulting (.clane 0) true false);
      s.stalls = [stalled (.clane 0) true false] ∧ stallsAt 0 0 0 (stalled (.clane 0) true false)
      ∧ ∃ t, s.xlate (stalled (.clane 0) true false).ctx (0 * 65536) = (t, .leaf { (default : Pte) with r := true } 0)
        ∧ t.stalls = s.stalls)
    ∧ (let s := faulting (.clane 0) true false;
      ∃ t, s.xlate (stalled (.clane 0) true false).ctx (0 * 65536) = (t, .absent 0) ∧ t.stalls = s.stalls) := by
  refine ⟨⟨?_, ?_, ?_⟩, ⟨?_, ?_, ?_, ?_⟩, ⟨?_, ?_⟩, ⟨?_, ⟨?_, ?_, ?_⟩, _, Prod.ext rfl ?_, ?_⟩, _, Prod.ext rfl ?_, ?_⟩ <;> decide +kernel

/-- The expanded view of a page whose stream holds no chunk reads as zeros. -/
theorem witness_expandedView : let s := paged (faulting (.clane 0) true false); let p : Pte := { (default : Pte) with tx := true };
    s.pageOf 8 0 65532 = some (p, 0) ∧ p.tx = true ∧ 65532 + 4 ≤ 0 + pageBytes p.size
    ∧ (s.readPage (s.viewCtx p 0 ((65532 - 0) / 4096)) p 0 65532 4 false).2 = .ok ⟨List.replicate 4 0#8, 0#8, 0, 0⟩ := by
  refine ⟨?_, ?_, ?_, ?_⟩ <;> decide +kernel

/-! The Col, accesses from outside, the mailbox -/

/-- One write of label `l` waits at the Col, of word 1 or of function 0; masters `f` are frozen. -/
def wtx (l : Label) (word : Option Nat) : Txn :=
  { (default : Txn) with lab := l, size := 4, word := word, master := some (.fn 0 0), act := .wr [⟨0, [1#8, 2#8, 3#8, 4#8], []⟩] }
def gated (l : Label) (word : Option Nat) (f : List Master) : State :=
  { (default : State) with
    pwr := { (default : Pwr) with ready := true }
    colQ := [wtx l word], frozen := f
    dies := [(0, { (default : Die) with live := true })]
    asids := [(1, { (default : As) with live := true })]
    tlb := [(8, 1, 0, { (default : Pte) with r := true, w := true })] }
/-- The window of function 0 lies in address space 1. -/
def windowed : State := { gated 0#8 none [] with fns := [(0, { (default : Fn) with winSet := true, winAs := 1 })] }

theorem witness_Col :
    masterFrozen (gated 1#8 none [.fn 0 0]) (wtx 1#8 none)
    ∧ (gated 1#8 none [.fn 0 0]).colQ = [wtx 1#8 none]
    ∧ (¬ masterFrozen (gated 0#8 none []) (wtx 0#8 none)
      ∧ ∃ s1, ({ gated 0#8 none [] with colQ := [] } : State).judge (wtx 0#8 none) = (s1, none))
    ∧ (¬ masterFrozen (gated 1#8 none []) (wtx 1#8 none) ∧ (wtx 1#8 none).master = some (.fn 0 0)
      ∧ ∃ s1, ({ gated 1#8 none [] with colQ := [] } : State).judge (wtx 1#8 none) = (s1, some 1))
    ∧ ((wtx 1#8 (some 1)).word = some 1
      ∧ ∃ s1, ({ gated 1#8 (some 1) [] with colQ := [] } : State).judge (wtx 1#8 (some 1)) = (s1, some 1)) := by
  refine ⟨⟨.fn 0 0, rfl, ?_⟩, rfl, ⟨?_, pair_of _ _ ?_⟩, ⟨?_, rfl, pair_of _ _ ?_⟩, rfl, pair_of _ _ ?_⟩
  · decide +kernel
  · rintro ⟨m, -, h⟩; exact absurd h (by show m ∉ []; exact List.not_mem_nil)
  · decide +kernel
  · rintro ⟨m, -, h⟩; exact absurd h (by show m ∉ []; exact List.not_mem_nil)
  all_goals decide +kernel

theorem witness_ColAndOutsideAccess :
    (gated 1#8 none [.fn 0 0]).pwr.ready = true ∧ 1 < 2 ∧ 0 < accLen (.wr (2 ^ 36 - 4) [1#8, 2#8, 3#8, 4#8])
    ∧ accOff (.wr (2 ^ 36 - 4) [1#8, 2#8, 3#8, 4#8]) + accLen (.wr (2 ^ 36 - 4) [1#8, 2#8, 3#8, 4#8]) ≤ 2 ^ 36
    ∧ Master.fn 0 0 ∈ (gated 1#8 none [.fn 0 0]).frozen
    ∧ (((gated 0#8 none []).fns.get 0).flr = false ∧ Master.fn 0 0 ∉ (gated 0#8 none []).frozen
      ∧ ((gated 0#8 none []).fns.get 0).winSet = false)
    ∧ ((windowed.fns.get 0).flr = false ∧ Master.fn 0 0 ∉ windowed.frozen ∧ (windowed.fns.get 0).winSet = true
      ∧ (windowed.asids.get (windowed.fns.get 0).winAs).live = true
      ∧ ∃ t, windowed.writeVa ⟨.hostp 0, 8, (windowed.fns.get 0).winAs, 0xFFFFFFFF, 0, false, none, false⟩ .wr 0#8 (pagesOf 4)
        ((windowed.fns.get 0).winBase + 0) [1#8, 2#8, 3#8, 4#8] = (t, none))
    ∧ (0 < 4096 ∧ 4096 ≤ 4096 ∧ (windowed.asids.get 1).live = true ∧ Master.debug ∈ (gated 0#8 none [.debug]).frozen
      ∧ Master.debug ∉ windowed.frozen
      ∧ ∃ t, windowed.readVa ⟨.hostp 0, 8, 1, 0xFFFFFFFF, 0, false, none, false⟩ .rd false (pagesOf 4) 16 4 =
        (t, .ok ⟨List.replicate 4 0#8, 0#8, 0, 0⟩)) := by
  refine ⟨?_, ?_, ?_, ?_, ?_, ⟨?_, ?_, ?_⟩, ⟨?_, ?_, ?_, ?_, pair_of _ _ ?_⟩, ?_, ?_, ?_, ?_, ?_, pair_of _ _ ?_⟩ <;> decide +kernel

/-- Command `c` with payload `b` is in progress. -/
def boxed (c : Nat) (b : List Byte) : State :=
  { (default : State) with
    pwr := { (default : Pwr) with ready := true }
    mbox := { (default : Mbox) with cmd := BitVec.ofNat 8 c, len := BitVec.ofNat 64 b.length, busy := true }
    dies := [(0, { (default : Die) with live := true })]
    hostMem := cellsAt 0 b }
/-- The same with address space 0 in being, of a launch under way if `l`. -/
def inBeing (l : Bool) (s : State) : State :=
  { s with asids := [(0, { (default : As) with live := true })], launches := [(1, { (default : Launch) with live := l })] }

def zeros (n : Nat) : List Byte := List.replicate n 0#8
def destBytes : List Byte := zeros 16 ++ leBytes 8 64 ++ zeros 8
def policyBytes : List Byte :=
  leBytes 4 0x504C4F43 ++ leBytes 2 1 ++ [2#8, 1#8] ++ leBytes 8 1 ++ leBytes 8 0 ++ leBytes 8 0 ++ zeros 32 ++ [0#8, 1#8] ++ zeros 6
    ++ zeros 8 ++ destBytes ++ zeros 480 ++ zeros 228
def keyed : State := { boxed 6 policyBytes with keys := [(0, zeros 57), (1, zeros 57)] }
def policyGot : Policy := (policyOf policyBytes).getD default

theorem witness_commands :
    (∀ e ∈ [(0x01, zeros 71), (0x0F, []), (0x01, zeros 72), (0x02, zeros 8), (0x03, [0#8, 0#8, 1#8] ++ zeros 21), (0x04, zeros 72),
      (0x05, zeros 8 ++ destBytes), (0x06, policyBytes), (0x07, zeros 8), (0x08, zeros 64), (0x09, zeros 8), (0x0A, zeros 16),
      (0x0B, zeros 8), (0x0C, zeros 8), (0x0D, zeros 8), (0x0E, [0#8, 1#8] ++ zeros 6)],
      command (boxed e.1 e.2) e.1 e.2.length e.2 ∧ command (inBeing true (boxed e.1 e.2)) e.1 e.2.length e.2
      ∧ command (inBeing false (boxed e.1 e.2)) e.1 e.2.length e.2)
    ∧ command keyed 6 820 policyBytes ∧ commandLen .createAs = some (0x01, 72) ∧ 71 ≠ 72 ∧ 14 < 0x0F := by
  unfold command; refine ⟨?_, ?_, ?_, ?_, ?_⟩ <;> decide +kernel

theorem witness_MailboxCommands :
    (createOk (boxed 1 (zeros 72)) (zeros 72) ∧ ((boxed 1 (zeros 72)).asids.get 0).live = false
      ∧ createOk (inBeing false (boxed 1 (zeros 72))) (zeros 72))
    ∧ ((inBeing true (boxed 2 (zeros 8))).asBusy 0 = true ∧ (inBeing false (boxed 2 (zeros 8))).asBusy 0 = false
      ∧ ((inBeing false (boxed 2 (zeros 8))).asids.get 0).live = true ∧ zeroAt (zeros 8) 2 6 = true)
    ∧ ((boxed 3 ([0#8, 0#8, 1#8] ++ zeros 21)).asOnWay 0 none = false)
    ∧ ((destOf ((zeros 8 ++ destBytes).drop 8 |>.take 32) false).isSome = true
      ∧ ¬ ∀ x ∈ (zeros 8 ++ destBytes).drop 8 |>.take 32, x = 0#8)
    ∧ (policyOf policyBytes = some policyGot ∧ 820 = 592 + 114 * Machine.fld policyBytes 6 1 ∧ policyGot.tenants = [0, 1]
      ∧ Tab.find (boxed 6 policyBytes).keys 0 = none ∧ (∀ x ∈ policyGot.tenants, Tab.find keyed.keys x ≠ none)
      ∧ keyed.devtime.toNat ≤ policyGot.expiry ∧ (∀ e ∈ keyed.policies, ¬ (e.2.tenants = policyGot.tenants ∧ e.2.nonce = policyGot.nonce))
      ∧ (List.range 1024).find? (fun h => !(keyed.policies.get h).live) = some 0)
    ∧ (({ boxed 7 (zeros 8) with policies := [(0, { (default : Policy) with live := true })] } : State).policies.get 0).live = true
    ∧ ((boxed 8 (zeros 64)).retune = none ∧ (∀ i, i < 8 → Machine.fld (zeros 64) (9 * i) 1 = 0)
      ∧ (∀ i, i < 8 → ((List.range 8).map fun j => Machine.fld (zeros 64) (8 * i + j) 1).sum ≤ 224
        ∧ ((List.range 8).map fun j => Machine.fld (zeros 64) (8 * j + i) 1).sum ≤ 224)
      ∧ ∀ i, i < 8 → ∀ j, j < 8 → i ≠ j → (boxed 8 (zeros 64)).pairBusy i j = false ∧ (boxed 8 (zeros 64)).pairTimed i j = false)
    ∧ ((inBeing true (boxed 10 (zeros 16))).granted 0 0 = true ∧ (boxed 10 (zeros 16)).granted 0 0 = false)
    ∧ ((∀ d, d < 8 → (1 : Nat).testBit d = true → (boxed 14 ([0#8, 1#8] ++ zeros 6)).dieLive d = true)
      ∧ (∀ d, d < 8 → (1 : Nat).testBit d = true → ((boxed 14 ([0#8, 1#8] ++ zeros 6)).dies.get d).group = none)
      ∧ (boxed 14 ([0#8, 1#8] ++ zeros 6)).groupBusy 0 = false) := by
  refine ⟨⟨?_, ?_, ?_⟩, ⟨?_, ?_, ?_, ?_⟩, ?_, ⟨?_, ?_⟩, ⟨?_, ?_, ?_, ?_, ?_, ?_, ?_, ?_⟩, ?_, ⟨?_, ?_, ?_, ?_⟩, ⟨?_, ?_⟩, ?_, ?_, ?_⟩ <;>
    (try unfold createOk) <;> decide +kernel

/-! Registers, ports, power, errors, decoding, steps -/

def up1 (f : Peer → Peer) : State :=
  { (default : State) with
    pwr := { (default : Pwr) with ready := true, en0 := 0x3FF#64, stage := 7, fwOk := true, fuseOk := true, liveF := 1#8 }
    dies := [(0, { (default : Die) with live := true })]
    peers := [(3, f { (default : Peer) with up := true, rate := 200 })]
    asids := [(1, { (default : As) with live := true })]
    tlb := [(8, 1, 0, { (default : Pte) with r := true, w := true })] }
def rec1 (r : RingId) : Rec := ⟨r, zeros 64⟩
/-- Function 0's fault ring of 16 records holds `n`, and one more waits. -/
def ringed (n : Nat) (en : Bool) : State :=
  { (up1 id).setRing (.fault 0) { (default : Ring) with log2n := 4, en := en, tail := BitVec.ofNat 64 n } with recQ := [rec1 (.fault 0)] }

theorem witness_RegistersAndRings :
    thaws .thawDebugSession = some .debug ∧ (up1 id).pwr.ready = true ∧ (default : State).pwr.ready = false ∧ 383 < 384
    ∧ (let f := ({ up1 id with fns := [(192, { (default : Fn) with vftab := 1#2 })] } : State).fns.get 192;
      (3#64).getLsbD 0 = true ∧ f.vftab.getLsbD 0 = true ∧ f.vftab.getLsbD 1 ≠ (3#64).getLsbD 1
      ∧ ¬ ((1#64).getLsbD 0 = true ∧ f.vftab.getLsbD 0 = true ∧ f.vftab.getLsbD 1 ≠ (1#64).getLsbD 1))
    ∧ ((∀ fn, RingId.fault 0 = .fault fn → (ringed 4 true).fnLive fn = true)
      ∧ ((ringed 4 true).ring (.fault 0)).tail.toNat < (5#64).toNat ∧ (4#64).toNat ≤ ((ringed 4 true).ring (.fault 0)).tail.toNat)
    ∧ ((ringed 15 true).recQ = [rec1 (.fault 0)] ∧ RingId.fault 0 ≠ .fq
      ∧ (let x := (ringed 15 true).ring (.fault 0); x.en = true ∧ (x.tail - x.head).toNat < 2 ^ x.log2n)
      ∧ (let x := (ringed 16 true).ring (.fault 0); ¬ (x.en = true ∧ (x.tail - x.head).toNat < 2 ^ x.log2n)))
    ∧ ((up1 id).mbox.busy = false ∧ (boxed 1 []).mbox.busy = true ∧ ownRow 0x10000 = false) := by
  refine ⟨rfl, ?_, ?_, ?_, ⟨?_, ?_, ?_, ?_⟩, ⟨?_, ?_, ?_⟩, ⟨?_, ?_, ⟨?_, ?_⟩, ?_⟩, ?_, ?_, ?_⟩
  case refine_8 => rintro fn ⟨⟩; decide +kernel
  all_goals decide +kernel

def flit1 : Flit := { (default : Flit) with sq := 7#12 }
def asking (a : Option Nat) (f : List Master) : State :=
  { up1 fun p => { p with reqs := [.rd 16 4 0], asid := a } with frozen := f }

theorem witness_PeersAndFunctionReset :
    (3 < 32 ∧ ((up1 id).peers.get 3).up = true ∧ (up1 id).feature 8 = true ∧ (up1 id).pwr.ready = true
      ∧ 0#12 = ((up1 id).peers.get 3).rxseq ∧ 1#12 ≠ ((up1 id).peers.get 3).rxseq ∧ ((up1 id).peers.get 3).buf = [])
    ∧ ((up1 fun p => { p with buf := [flit1] }).peers.get 3).buf = [flit1]
    ∧ (((asking none []).peers.get 3).reqs = [.rd 16 4 0] ∧ Master.peer 3 ∈ (asking none [.peer 3]).frozen
      ∧ Master.peer 3 ∉ (asking none []).frozen ∧ ((asking none []).peers.get 3).asid = none
      ∧ Master.peer 3 ∉ (asking (some 1) []).frozen ∧ ((asking (some 1) []).peers.get 3).asid = some 1
      ∧ ∃ t, ({ asking (some 1) [] with peers := (asking (some 1) []).peers.put 3 { (asking (some 1) []).peers.get 3 with reqs := [] } } :
          State).readVa ⟨.peerp 3, 8, 1, 0xFFFFFFFF, 0, false, none, false⟩ .rd false (pagesOf 4) 16 4 =
        (t, .ok ⟨List.replicate 4 0#8, 0#8, 0, 0⟩))
    ∧ (quietPort (up1 id) 3 ∧ ((up1 id).peers.get 3).steps = none ∧ ((up1 id).peers.get 3).rate = 200
      ∧ quietPort (up1 fun p => { p with rate := 50 }) 3 ∧ ((up1 fun p => { p with rate := 50 }).peers.get 3).rate = 50
      ∧ ((up1 fun p => { p with rate := 50 }).peers.get 3).buf = [])
    ∧ ({ up1 id with fns := [(192, { (default : Fn) with vftab := 3#2 })] } : State).fnOn 192 1 = true := by
  refine ⟨⟨?_, ?_, ?_, ?_, ?_, ?_, ?_⟩, ?_, ⟨?_, ?_, ?_, ?_, ?_, ?_, pair_of _ _ ?_⟩, ⟨?_, ?_, ?_, ?_, ?_, ?_⟩, ?_⟩ <;>
    (try unfold quietPort) <;> decide +kernel

def saving (k : Nat) (n : Nat) : State := { up1 id with pwr := { (up1 id).pwr with ckKind := k, ckNext := n } }
def draining : State := { up1 id with dies := [(0, { (default : Die) with live := true, drain := true, preq := 4 })] }
def asleep : State := { up1 id with dies := [(0, { (default : Die) with live := true, ccur := 3 })] }

theorem witness_TicksPowerAndReset :
    ((up1 id).pwr.ready = true ∧ (∀ e ∈ (up1 id).tasks, (up1 id).startDue e.1 = false) ∧ 4 < (5#3).toNat ∧ (4#3).toNat ≤ 4)
    ∧ ((draining.dies.get 0).drain = true ∧ (draining.dies.get 0).group = none ∧ 4 = (draining.dies.get 0).preq
      ∧ (draining.dies.get 0).pcur ≠ 4 ∧ (∀ e ∈ draining.units, dieOf e.1 = 0 → e.2.mode ≠ .seg) ∧ draining.crossInFlight [0] = false)
    ∧ ((up1 id).dieLive 0 = true ∧ (up1 id).dieIdle 0 = true ∧ ((up1 id).dies.get 0).ccur < (up1 id).deepest 0)
    ∧ (asleep.pwr.ready = true ∧ (asleep.dies.get 0).ccur = 3)
    ∧ ((saving 1 0).ckWhere = some (0, 0) ∧ (saving 1 0).ckQuiet = true ∧ (saving 2 0).ckWhere = some (0, 0)
      ∧ (saving 2 (2 ^ 40)).ckWhere = none)
    ∧ (∀ e ∈ (up1 id).launches, e.2.live = false) ∧ (0x3FF#64).getLsbD 8 = (up1 id).pwr.en0.getLsbD 8
    ∧ (∃ e ∈ (inBeing true (up1 id)).launches, e.2.live = true) := by
  refine ⟨⟨?_, ?_, ?_, ?_⟩, ⟨?_, ?_, ?_, ?_, ?_, ?_⟩, ⟨?_, ?_, ?_⟩, ⟨?_, ?_⟩, ⟨?_, ?_, ?_, ?_⟩, ?_, ?_, ?_⟩ <;> decide +kernel

/-! A record laid out (22_faults_freezes_repair.md, "A record laid out") -/

def recorded1 : State :=
  { (default : State) with
    units := [(0, { (default : Machine.Unit) with task := some 1, seg := { (default : Seg) with segno := 1 } })]
    tasks := [(1, { (default : Task) with lid := 1, taskid := 0x012#32 })]
    launches := [(1, { (default : Launch) with asid := 5 })]
    devtime := 200000#64 }

theorem test_fault_record :
    (List.range 8).map (fun i => leNat (((faultRecord recorded1 0
      ⟨0x08, 1, 1, 60, 3#8, 0, 2, ⟨1, 2, ⟨2, 4, 0, 0⟩, ⟨0, 2, 0, 0⟩⟩⟩ 1).drop (8 * i)).take 8)) =
    [0x0005031100010108, 0x000000120000003C, 0x0000000000030D40, 0x0022000100000000, 0x0000000400000002, 0, 0x0000000200000000, 0] := by
  decide +kernel

def frozenCp : State := { up1 id with cps := [(8, { (default : Cp) with frozen := true })] }

theorem witness_ErrorsAndRestarts :
    (up1 id).pwr.ready = true ∧ 64 % 64 = 0 ∧ (up1 id).physOk 64 64 = true ∧ 32 * 4096 - 1 < 32 * 4096
    ∧ ((up1 id).cps.get 8).frozen = false ∧ ((up1 id).cps.get 8).dead = false
    ∧ (frozenCp.cps.get 8).frozen = true ∧ (frozenCp.cps.get 8).dead = false := by
  refine ⟨?_, ?_, ?_, ?_, ?_, ?_, ?_, ?_⟩ <;> decide +kernel

theorem witness_DecodeEncode : (Instr.vadd (hDep ⟨1#6, 2#6, 3#6, 0#6⟩) .f32 va2 (some mod0)).wf = true
    ∧ (Instr.vadd (hDep ⟨1#6, 2#6, 3#6, 0#6⟩) .f32 va2 (some mod0)).isWord = true := by decide +kernel

theorem witness_EncodeDecode : decode [0x000D000000000000#64] = .ok (.sync h0, 1) := by decide +kernel

/-- An ADD stands next in untimed code, R147's VADD without idle cycles next in a segment, and no word. -/
def addNext : State := (default : State).withFetchWord 64 0x0000021850C00000
def vaddNext : State := (default : State).withFetchWord 64 0x0010000201808000
def nothingNext : State := (default : State).withFetchWord 64 0x000FF00000000000
def addW : Instr := .add h0 ⟨d1, .s 2#5, .op (.s 3#5), g0⟩
def va12 : VA2 := ⟨0#8, .row 1#8, .row 2#8, 0#3, false⟩
def vaddW : Instr := .vadd h0 .f32 va12 none
def vaddQ : QWord := ⟨0, [0x0010000201808000#64], 0, 0#8, none⟩

theorem witness_StepRunsDecoded :
    (let s := addNext; let x := s.unit 0; let ws := x.fetchWords x.pc; let s0 := { s with turn := none };
      s.turn = some (.unit 0) ∧ x.mode = .code ∧ decode ws = .ok (addW, 1)
      ∧ (s0.takeUp 0 1).wordBad 0 x.pc (laneOf (ws.headD 0#64)) x.regs.acc addW = none ∧ laneOf (ws.headD 0#64) = 0
      ∧ x.order = false)
    ∧ (let s := nothingNext; let x := s.unit 0;
      s.turn = some (.unit 0) ∧ x.mode = .code ∧ decode (x.fetchWords x.pc) = .error .unassigned)
    ∧ (let s := vaddNext; let s0 := { s with turn := none };
      let s1 := s0.modUnit 0 fun x => { x with seg := { x.seg with cyc := max x.seg.cyc 65 } };
      s.turn = some (.unit 0) ∧ (s.unit 0).mode = .seg ∧ s0.firstOf 0 = true
      ∧ s0.nextOf 0 = some ⟨65, phIssue, 2, .issue 1⟩ ∧ (s1.unit 0).seg.queue 1 = [vaddQ]
      ∧ (s1.unit 0).when 1 vaddQ ≤ 2 ^ 32 - 1 ∧ decode vaddQ.words = .ok (vaddW, 1)
      ∧ (s1.beginAt 0 1 65 vaddQ).tokStanding 0 (consumedBy (hdrOf vaddQ.words)) = none
      ∧ (∀ k ∈ consumedBy (hdrOf vaddQ.words), (s1.beginAt 0 1 65 vaddQ).tokFault 0 1 k = none) ∧ s1.lateLane 0 65 1 = none
      ∧ ∃ t, exec vaddW (s1.beginAt 0 1 65 vaddQ) = .next t) := by
  refine ⟨⟨?_, ?_, ?_, ?_, ?_, ?_⟩, ⟨?_, ?_, ?_⟩, ⟨?_, ?_, ?_, ?_, ?_, ?_, ?_, ?_, ?_, ?_, _, rfl⟩⟩ <;> decide +kernel

theorem witness_MemoryWrites :
    ({ (default : Pte) with r := true } : Pte).tgt ≠ 1 ∧ ({ (default : Pte) with r := true } : Pte).tgt ≠ 2
    ∧ ({ (default : Pte) with tgt := 1 } : Pte).tgt = 1 ∧ ({ (default : Pte) with tgt := 2 } : Pte).tgt = 2
    ∧ ({ box0 with scope := .clstore } : Box).scope = .clstore ∧ box0.scope = .scratch
    ∧ Memory.wf (cellsAt 4096 (entryBytes 1)) = true := by
  refine ⟨?_, ?_, ?_, ?_, ?_, ?_, ?_⟩ <;> decide +kernel

theorem witness_circuitRetune : ({ (default : State) with retune := some [(1, 8)] } : State).retune = some [(1, 8)] := rfl

/-- Box `b` of sequencer 0 in untimed code, with a value in s1. -/
def seqBox (b : Box) (v : Nat) : State :=
  tasked 384 { inCode with regs := { inCode.regs with s := [(1, ⟨BitVec.ofNat 64 v, 0#8⟩)] } } [(1, b)]

theorem stored (p : State × Option XErr) (h : p.2 = none) : ∃ t, p = (t, none) := ⟨p.1, by rw [← h]⟩

/-- STS and CADD of untimed code, on a core and on a sequencer, and FMTQ with the queue short of full and full. -/
theorem witness_ScalarStore_untimed :
    (let s := codeBox box0 0; let b := s.box 0 1; let s1 := s.modMe fun x => withLabel x (x.readP g0).l;
      working s ∧ scalarBox b ∧ b.mode ≠ .in_ ∧ b.has ⟨7, 3, 0, 0⟩ = true ∧ s.me.iss.timed = false
      ∧ ∃ t', s1.writeBox (s1.ctxOf 0) 0 b 0#8 (b.loc ⟨7, 3, 0, 0⟩).addr ((b.loc ⟨7, 3, 0, 0⟩).bytesOf 5) (b.loc ⟨7, 3, 0, 0⟩).maskOf
        = (t', none))
    ∧ (let s := seqBox { box0 with scope := .clstore } 0; let b := s.box 384 1; let s1 := s.modMe fun x => withLabel x (x.readP g0).l;
      working s ∧ scalarBox b ∧ s.inGroupArg 384 1 ⟨7, 3, 0, 0⟩ = false
      ∧ s1.seqEgress 384 b 0#8 (b.loc ⟨7, 3, 0, 0⟩).addr 2 = (s1, none)
      ∧ ∃ t', s1.writeBox (s1.ctxOf 384) 384 b 0#8 (b.loc ⟨7, 3, 0, 0⟩).addr ((b.loc ⟨7, 3, 0, 0⟩).bytesOf 5) (b.loc ⟨7, 3, 0, 0⟩).maskOf
        = (t', none))
    ∧ (let s := seqBox { ctrBox with scope := .clstore } 0; let b := s.box 384 1; let s1 := s.modMe fun x => withLabel x (x.readP g0).l;
      working s ∧ counterBox 384 b ∧ b.mode ≠ .in_ ∧ b.has ⟨7, 0, 0, 0⟩ = true ∧ s1.seqEgress 384 b 0#8 (b.addr ⟨7, 0, 0, 0⟩) 8 = (s1, none)
      ∧ ∃ t', s1.counterAdd (s1.ctxOf 384) 384 b 0#8 (b.addr ⟨7, 0, 0, 0⟩) 5 = (t', none))
    ∧ (let s := codeBox { ctrBox with scope := .scratch } 0; let b := s.box 0 1;
      working s ∧ counterBox 0 b ∧ b.has ⟨7, 0, 0, 0⟩ = true ∧ s.prot 0 = false ∧ s.me.iss.timed = false ∧ b.scope = .scratch)
    ∧ ((one inCode).me.iss.timed = false ∧ (one inCode).me.que.fmtq.length < 16)
    ∧ (let s := one { inCode with que := { inCode.que with fmtq := List.replicate 16 ⟨0#64, 0#8⟩ } };
      working s ∧ s.me.iss.timed = false ∧ 16 ≤ s.me.que.fmtq.length) := by
  refine ⟨⟨?_, ?_, ?_, ?_, ?_, stored _ ?_⟩, ⟨?_, ?_, ?_, ?_, stored _ ?_⟩, ⟨?_, ?_, ?_, ?_, ?_, stored _ ?_⟩, ⟨?_, ?_, ?_, ?_, ?_, ?_⟩,
    ⟨?_, ?_⟩, ?_, ?_, ?_⟩ <;> (try unfold working) <;> (try unfold scalarBox) <;> (try unfold counterBox) <;> decide +kernel

theorem behind_withWord : behind withWord := by
  refine ⟨_, List.mem_singleton.mpr rfl, ?_, ?_, .inl ?_⟩ <;> decide +kernel
theorem not_behind : ¬ behind (one inSeg) := by rintro ⟨e, h, -⟩; exact absurd h List.not_mem_nil

theorem witness_FenceWord_behind : (working withWord ∧ withWord.active < 384 ∧ behind withWord)
    ∧ (working (one inSeg) ∧ ¬ behind (one inSeg)) := by
  refine ⟨⟨?_, ?_, behind_withWord⟩, ?_, not_behind⟩ <;> (try unfold working) <;> decide +kernel

theorem witness_PhaseWords_attempts : (phased 2).me.iss.timed = false ∧ 2 ≤ (phased 2).gangAttempt (phased 2).active
    ∧ (phased 1).gangAttempt (phased 1).active < 2 := by
  refine ⟨?_, ?_, ?_⟩ <;> decide +kernel

/-- A LOCAL argument of a child whose level is in the cluster store, of which `n` bytes are taken. -/
def cramped (n : Nat) : State :=
  { (tasked 384 { inCode with regs := { inCode.regs with d := [(1, hnd 1 0#8 8 4)] } } [(1, box0)]) with
    spawns := 2
    clused := (List.range 6).map fun c => (c, [(0, n)])
    tasks := [(1, { (default : Task) with
      st := .running, lid := 1, unit := some 384, seq := true, boxes := [(1, box0)], args := [⟨3, hnd 1 0#8 8 4, .loc, .excl, 0#8⟩] })]
    launches := [(1, { (default : Launch) with
      live := true
      tasks := [default, { (default : TaskE) with level := 1, decls := [default, default, default,
        { (default : DeclE) with present := true, layout := 0x0A, rank := 2, mode := 4, decl := ⟨8, 4, 1, 1⟩, cap := 4096 }] }]
      levels := [default, { (default : LevelE) with domain := 2, scope := 1 }] })] }
def room (s : State) : Option State :=
  let v := s.me.readT (.imm 1#7)
  let s1 := lifted s g0
  (s1.newChildren 384 1 v.v.toNat 1 false (s1.me.vol.lblpc ||| (v.l ||| s.me.baseL g0))).placeChildren 1 ((List.range 1).map (s.spawns + ·))


theorem witness_SpawnWords_room :
    (working (parent 2 0) ∧ room (parent 2 0) ≠ none)
    ∧ (let s := cramped 0; working s ∧ (s.me.readP g0).v = true ∧ s.me.task = some 1 ∧ (s.task 1).st = .running ∧ 1 < s.spawns
      ∧ spawnBad (lifted s g0) 384 (s.me.readT (.imm 1#7)).v.toNat 1 false = none
      ∧ ¬ s.freeEntries ((lifted s g0).childDie 384) < 1 + 512 ∧ room s ≠ none ∧ ((s.task 1).args.map (·.slot)).Nodup)
    ∧ (let s := cramped (2 ^ 24); working s
      ∧ spawnBad (lifted s g0) 384 (s.me.readT (.imm 1#7)).v.toNat 1 false = none
      ∧ ¬ s.freeEntries ((lifted s g0).childDie 384) < 1 + 512 ∧ room s = none) := by
  refine ⟨⟨?_, ?_⟩, ⟨?_, ?_, ?_, ?_, ?_, ?_, ?_, ?_, ?_⟩, ?_, ?_, ?_, ?_⟩ <;> (try unfold working) <;> decide +kernel

/-- Task 1 on core 0 with a word that holds GATE_REFUSAL. -/
def standingAt : State :=
  { tasked 0 inCode [] with xwords := [(1, { (default : XWord) with
      kind := .cout false, task := 1, done := true, held := some { (default : Flt) with code := 0x14 } })] }

theorem witness_TaskEndWords_standing :
    (lifted ending g0).standing ending.active = none
    ∧ (working standingAt ∧ (standingAt.me.readP g0).v = true ∧ standingAt.me.task = some 1 ∧ mayEnd standingAt ∧ standingAt.me.pend = []
      ∧ (lifted standingAt g0).standing standingAt.active = some { (default : Flt) with code := 0x14 }) := by
  refine ⟨?_, ?_, ?_, ?_, ?_, ?_, ?_⟩ <;> (try unfold working) <;> (try unfold mayEnd) <;> decide +kernel

theorem witness_FaultOutcomes_running : ∀ n ∈ [1, 2], ((phased n).task 1).unit = some 0 ∧ ((phased n).task 1).st = .running
    ∧ ((phased n).unit 0).mode = .code := by decide +kernel

/-- The word of a running task. -/
def running1 (s : State) : State := { s with tasks := [(1, onUnit)] }

theorem witness_UntimedWords_more :
    (let s := running1 (unreadable (moving .cin id)); let t := (s.tryWord 1).1;
      (∃ t, s.tryWord 1 = (t, .flt fPermission 0 0 0)) ∧ (t.xwords.get 1).void = false ∧ (t.task (t.xwords.get 1).task).over = false)
    ∧ ∀ n ∈ [2, 3], let s := asked n; s.soOk 1 (s.xwords.get 1) 0 = true := by
  refine ⟨⟨pair_of _ _ ?_, ?_, ?_⟩, ?_⟩ <;> decide +kernel

theorem witness_ChainsAndLaunches_more :
    (chained 0).doorFrozen 0 = (chained 0, false)
    ∧ (let s : State := { chained 0 with frozen := [.fn 0 0, .fn 0 1] }; s.doorFrozen 0 = (s, true))
    ∧ (Master.fn 0 0 ∈ [Master.fn 0 0, .fn 0 1] ↔ Master.fn 0 1 ∈ [Master.fn 0 0, .fn 0 1])
    ∧ (let s : State := { chained 0 with fns := [(5, { (default : Fn) with vftab := 3#2 })] }; 5 ≠ 0 ∧ s.vfPort 5 = some 1)
    ∧ (let l := recordGot; let t2 := recordRd.1;
      (if (l.levelOf 0).domain = 4 then 1 else 513) ≤ t2.freeEntries (t2.arbiterDie { l with dies := (entryGot 1).dies })) := by
  refine ⟨?_, ?_, ?_, ?_, ?_⟩ <;> decide +kernel

theorem witness_PageFaults_restart : let s := faulting (.fst 0) true true; let st := stalled (.fst 0) true true;
    s.pwr.ready = true ∧ s.stalls = [st] ∧ named 0 9#16 st ∧ st.agent = .fst 0 ∧ st.acc = 1 ∧ ¬ named 0 8#16 st := by
  refine ⟨?_, ?_, ?_, rfl, rfl, ?_⟩ <;> (try unfold named) <;> decide +kernel

/-- Sequencer 0 stalls for a page the die's TLB has. -/
theorem witness_PageFaults_sequencer : let s := paged (faulting (.seq 384) true false);
    s.stalls = [stalled (.seq 384) true false] ∧ stallsAt 0 0 0 (stalled (.seq 384) true false)
    ∧ ∃ t, s.xlate (stalled (.seq 384) true false).ctx (0 * 65536) = (t, .leaf { (default : Pte) with r := true } 0)
      ∧ t.stalls = s.stalls ∧ (t.unit 384).mode = .stall 0 := by
  refine ⟨?_, ⟨?_, ?_, ?_⟩, _, Prod.ext rfl ?_, ?_, ?_⟩ <;> decide +kernel

/-- A box of task 1 on core 0, which the debug session of address space 0 may read. -/
def debugging : State :=
  { tasked 0 inCode [(1, box0)] with
    pwr := { (default : Pwr) with ready := true }, asids := [(0, { (default : As) with live := true })] }

theorem witness_ColAndOutsideAccess_box : debugging.pwr.ready = true ∧ 0 < 4 ∧ 4 ≤ 4096 ∧ (debugging.asids.get 0).live = true
    ∧ Master.debug ∉ debugging.frozen ∧ debugging.boxBytes 0 1 1 0 4 = some (0#8, 0x0A, List.replicate 4 0#8) := by
  refine ⟨?_, ?_, ?_, ?_, ?_, ?_⟩ <;> decide +kernel

theorem witness_circuitRetune_empty : let s : State := { (default : State) with retune := some [(1, 8)] };
    s.retune = some [(1, 8)] ∧ s.tuned = false ∧ ∀ e ∈ [(1, 8)], s.circuitEmpty (e.1 / 8) (e.1 % 8) = true := by decide +kernel

/-- The fault queue's ring is off and a record waits for it. -/
def queued : State := { up1 id with recQ := [rec1 .fq] }

theorem witness_RegistersAndRings_more :
    (up1 id).doorFrozen 0 = (up1 id, false)
    ∧ (let s : State := { up1 id with frozen := [.fn 0 0, .fn 0 1] }; s.doorFrozen 0 = (s, true))
    ∧ invalidation ([0#8, 0#8, 1#8] ++ zeros 21) = some (0, none)
    ∧ (queued.recQ = [rec1 .fq] ∧ (rec1 .fq).ring = .fq ∧ (queued.ring .fq).hasSpace = false)
    ∧ (3 < 4 ∧ 0x1038 = 0x1020 + 8 * 3 ∧ (4#64).toNat % 8 = 4 ∧ 0x60310 = 0x60000 + 0x100 * 3 + 0x10) := by
  refine ⟨?_, ?_, ?_, ⟨?_, ?_, ?_⟩, ?_⟩ <;> decide +kernel

theorem witness_FunctionReset_PF : (up1 id).fnOn 0 1 = true := by decide +kernel

/-- Three microseconds into a tick period. -/
def ticking : State := { up1 id with devtime := 3#64 }

theorem witness_TicksPowerAndReset_time :
    ((up1 id).devtime.toNat % 4 ≠ 3)
    ∧ (ticking.pwr.ready = true ∧ ticking.devtime.toNat % 4 = 3 ∧ (∀ e ∈ ticking.tasks, ticking.startDue e.1 = false)
      ∧ ∀ e ∈ ticking.units, e.2.mode ≠ .sync)
    ∧ (saving 1 0).cells = [] := by
  refine ⟨?_, ⟨?_, ?_, ?_, ?_⟩, ?_⟩ <;> decide +kernel

/-- A sector without a failing cell has nothing to correct. -/
theorem clean_sector (l sector : Nat) (x : List Lines) : (examine l sector [] x).corr = 0 := by
  unfold examine; split <;> rfl

theorem pmap_check {l : Nat} {m : PMap} (h : pmap l = some m) : 0 < m.chkA := by
  unfold pmap at h; split at h <;> first | (cases h; decide) | cases h

/-- A check bit of class A is wrong: every code corrects it. -/
theorem check_bit (l : Nat) : (examine l 64 [512]).corr ≠ 0 ∧ (examine l 64 [512]).sound = true
    ∧ (examine l 64 [512]).wrong = [] := by
  unfold examine; split
  · decide
  · rename_i m h
    have c : m.cls [] 64 512 = 0 := by simp [PMap.cls, pmap_check h]
    simp [c, codeSays, Exam.sound]

def upset1 : State := { up1 id with cells := [⟨64, [512], .upset⟩] }

theorem witness_ErrorsAndRestarts_sectors :
    (((up1 id).dies.get 0).ccur ≠ 3 ∧ (examine ((up1 id).frameProt 64).code 64 ((up1 id).flips 64) ((up1 id).frameProt 64).lines).corr = 0)
    ∧ (upset1.physOk 64 64 = true ∧ (upset1.dies.get 0).ccur ≠ 3
      ∧ (let e := examine (upset1.frameProt 64).code 64 (upset1.flips 64) (upset1.frameProt 64).lines
        e.corr ≠ 0 ∧ e.sound = true ∧ e.wrong = [])) := by
  have a : (up1 id).flips 64 = [] := by decide +kernel
  have b : upset1.flips 64 = [512] := by decide +kernel
  have c : upset1.frameProt 64 = ⟨Config.frameCode 64, 0, []⟩ := rfl
  refine ⟨⟨by decide +kernel, ?_⟩, by decide +kernel, by decide +kernel, ?_⟩
  · rw [a]; exact clean_sector _ _ _
  · rw [b, c]; exact check_bit _

/-! More of the clauses -/

theorem witness_TasksLeaveUnits_more :
    (sched .idle { onUnit with st := .parked } plain 0).schedStalled 1 = false ∧ 0 < 384
    ∧ runs1 (sched .held onUnit plain 0) 1 0 ∧ runs1 (sched .code onUnit plain 25) 1 0 := by
  refine ⟨?_, ?_, ⟨?_, ?_, ?_⟩, ?_, ?_, ?_⟩ <;> decide +kernel

/-- A timetabled task of core 0 that starts at cycle `y` of tick `t`, in microsecond `n` of tick 1000. -/
def timedAt (t y n : Nat) : State :=
  { ready1 { (default : Task) with timed := some (0, t, y) } with devtime := BitVec.ofNat 64 n }

theorem witness_SchedulerPicks_timed :
    (let s := timedAt 1000 0 0; (∀ e ∈ s.tasks, s.startDue e.1 = true → e.2.startsBefore (s.task 1) = false)
      ∧ s.cyclesIn 0 (s.devtime.toNat % 4) ≤ 0 ∧ 0 < s.cyclesIn 0 (s.devtime.toNat % 4 + 1))
    ∧ (let s := timedAt 1000 0 1; (∀ e ∈ s.tasks, s.startDue e.1 = true → e.2.startsBefore (s.task 1) = false)
      ∧ 1000 = s.frame.toNat ∧ 0 < s.cyclesIn 0 (s.devtime.toNat % 4) ∧ (s.task 1).st = .ready)
    ∧ (let s := timedAt 999 0 0; ∀ e ∈ s.tasks, s.startDue e.1 = true → e.2.startsBefore (s.task 1) = false) := by
  refine ⟨⟨?_, ?_, ?_⟩, ⟨?_, ?_, ?_, ?_⟩, ?_⟩ <;> decide +kernel

/-- Word 1, an XSEND to die 1 on channel 0, whose message has come whole. -/
def crossing : State :=
  { moving (.xsend 1 0 0) (fun w => { w with data := List.replicate 64 0#8 }) with
    conn := connReset
    xin := [{ (default : XMsg) with dst := 1, word := 1, beats := 1, size := 64, data := List.replicate 64 0#8 }] }

theorem witness_UntimedWords_xsend : let s := crossing; let w := s.xwords.get 1;
    Tab.find s.xwords 1 = some w ∧ w.kind = .xsend 1 0 0 ∧ w.done = false ∧ w.src.size ≤ w.data.length
    ∧ ∃ m, s.xin.find? (fun e => decide (e.word = 1)) = some m ∧ m.size ≤ m.data.length ∧ s.mayArrive m = true := by
  refine ⟨?_, ?_, ?_, ?_, _, rfl, ?_, ?_⟩ <;> decide +kernel

theorem witness_WaitWord_stall : waiting.unitStalled 0 = false := by decide +kernel

/-- Counters in the scratchpad in box 3, of mode `m` and label `l`. -/
def counting (m : AMode) (l cl : Label) : State :=
  let s := copying box0 strBox l 8 4 0
  { s with tasks := s.tasks.upd 1 fun t => { t with boxes := t.boxes.put 3 { ctrBox with scope := .scratch, mode := m, lab := cl } } }
def labelled (s : State) (l : Label) : State := s.modMe fun x => { x with iss := { x.iss with lab := l } }

theorem witness_CWordFaults_counter :
    (let s := counting .in_ 0#8 0#8; let r := signalWord s (.csig h0 3#4 7#8 1#14);
      issuing s ∧ ∃ q, r = some q ∧ q.ok ∧ counterFits s q ∧ ¬ q.late ∧ roomLeft s q ∧ q.dst = none
        ∧ ∃ b, counterOf s q = some b ∧ b.mode = .in_)
    ∧ (let s := labelled (counting .inout 0#8 0#8) 1#8; let r := signalWord s (.csig h0 3#4 7#8 1#14);
      ∃ q, r = some q ∧ q.ok ∧ counterFits s q ∧ ¬ q.late ∧ roomLeft s q ∧ q.dst = none
        ∧ ∃ b, counterOf s q = some b ∧ b.mode ≠ .in_ ∧ Label.sub (cLab s q) b.lab = false) := by
  refine ⟨⟨?_, _, rfl, trivial, of_some ?_, id, fun h => absurd h ?_, rfl, _, rfl, ?_⟩, _, rfl, trivial, of_some ?_, id,
    fun h => absurd h ?_, rfl, _, rfl, ?_, ?_⟩ <;> (try unfold issuing) <;> decide +kernel

/-- An atomic on a stream of U32 words, its operands in box 1, of mode `m`; the stream is of label `l`. -/
def wordBox : Box := { box0 with layout := 3 }
def atomizing (m : AMode) (l : Label) : State := copying { wordBox with mode := m } { strBox with layout := 3, lab := l } 0#8 4 2 0

theorem witness_CWordFaults_atomic :
    (let s := atomizing .in_ 0#8; issuing s ∧ ∃ r a b, signalWord s (.ratom h0 .add false 2#4 1#4 none) = some r ∧ r.src = some a
      ∧ r.dst = some b ∧ r.ok ∧ b.box.mode ≠ .in_ ∧ Label.sub (cLab s r) b.box.lab = true ∧ a.box.mode = .in_)
    ∧ (let s := atomizing .inout 1#8; ∃ r a b, signalWord s (.ratom h0 .add false 2#4 1#4 none) = some r ∧ r.src = some a
      ∧ r.dst = some b ∧ r.ok ∧ b.box.mode ≠ .in_ ∧ Label.sub (cLab s r) b.box.lab = true ∧ a.box.mode ≠ .in_
      ∧ Label.sub (cLab s r ||| b.box.lab) a.box.lab = false) := by
  refine ⟨⟨?_, _, _, _, rfl, rfl, rfl, ?_, ?_, ?_, ?_⟩, _, _, _, rfl, rfl, rfl, ?_, ?_, ?_, ?_, ?_⟩ <;> (try unfold issuing) <;>
    (try dsimp only) <;> decide +kernel

/-- Die 0 in C-state `c`, its one task waiting to be placed; the mailbox forms a timing group of it. -/
def sleeping (c : Nat) : State :=
  { up1 id with
    dies := [(0, { (default : Die) with live := true, ccur := c })]
    mbox := { (default : Mbox) with cmd := 0x0E#8, len := 8#64, busy := true }
    hostMem := [(1, 1#8)]
    tasks := [(1, { (default : Task) with st := .spawned, lid := 1 })]
    launches := [(1, { plain with dies := 1 })] }

theorem witness_TicksPowerAndReset_sleep :
    (let s := sleeping 2; 1 ∈ s.tasks.map (·.1) ∧ (s.dies.get 0).ccur ≠ 0 ∧ (s.task 1).st = .spawned ∧ s.pickDie 1 = 0
      ∧ (s.asids.get (s.launch (s.task 1).lid).asid).off = false ∧ s.mboxNames 0 = true)
    ∧ (64 / 2 ^ 37 = 0 ∧ ((sleeping 3).dies.get 0).ccur = 3)
    ∧ ((up1 id).dies.get 0).ccur ≠ (up1 id).deepest 0 := by
  refine ⟨⟨?_, ?_, ?_, ?_, ?_, ?_⟩, ⟨?_, ?_⟩, ?_⟩ <;> decide +kernel

/-- Bring-up at stage `n`, firmware and fuses as given, one die live. -/
def booting (n : Nat) (fw fuse : Bool) : State :=
  { (default : State) with pwr := { (default : Pwr) with stage := n, fwOk := fw, fuseOk := fuse, liveF := 1#8 } }

theorem witness_TicksPowerAndReset_boot :
    (∀ n ∈ [1, 2, 3, 4, 5, 6, 7], (booting n true true).pwr.ready = false ∧ (booting n true true).pwr.fail = false
      ∧ ((booting n true true).boot).isSome = true)
    ∧ ((booting 2 false true).boot = some { booting 2 false true with pwr := { (booting 2 false true).pwr with fail := true, error := 2 } })
    ∧ ((booting 3 true false).boot = some { booting 3 true false with pwr := { (booting 3 true false).pwr with fail := true, error := 3 } }) := by
  refine ⟨?_, ?_, ?_⟩ <;> decide +kernel

end Sys2Proof.Tests
end

section
/-! Register-space writes, record rings and thaws (spec 20, R371 to R377; 22, R406 to R408; 23, R424): what each row and
each operation behind it does, then O51. -/

namespace Sys2Proof.Machine

open Claims

/-! ## Thaws -/

/-- Every row that thaws a master is `State.thaw` of that master. -/
theorem exec_thaws {i : Instr} {m : Master} (h : thaws i = some m) (s : State) : exec i s = .next (s.thaw m) := by
  unfold thaws at h
  split at h <;> cases h <;> rfl

theorem State.thaw_ready {s : State} (h : s.pwr.ready = true) (m : Master) :
    s.thaw m = { s with frozen := s.frozen.filter fun x => decide (x ≠ m) } := if_pos h

theorem State.thaw_not_ready {s : State} (h : s.pwr.ready = false) (m : Master) : s.thaw m = s := by
  simp [State.thaw, h]

theorem exec_thawQuarantinedCore {s : State} {c : Nat} (hc : c < 384) (h : s.pwr.ready = true) :
    exec (.thawQuarantinedCore c) s = .next (s.modUnit c fun x => { x with quar := false }) := by
  show execThawQuarantinedCore c s = _
  simp [execThawQuarantinedCore, h, hc]

/-! ## The VF table -/

/-- A write of VFTAB enables a VF that is enabled on the other port. -/
abbrev State.vfMoves (s : State) (n : Nat) (v : BitVec 64) : Prop :=
  v.getLsbD 0 = true ∧ (s.fns.get n).vftab.getLsbD 0 = true ∧ (s.fns.get n).vftab.getLsbD 1 ≠ v.getLsbD 1

/-- A write of an existing VF's entry stands when the package is ready and no enabled VF would change its port. -/
theorem exec_vftabWrite (s : State) {n : Nat} (v : BitVec 64) (h1 : 1 ≤ n) (h2 : n ≤ 192) :
    exec (.vftabWrite n v) s = if s.pwr.ready = false ∨ s.vfMoves n v then .next s
      else .next { s with fns := s.fns.put n { s.fns.get n with vftab := v.setWidth 2 } } := by
  show execVftabWrite n v s = _
  simp only [execVftabWrite, Bool.or_eq_true, decide_eq_true_eq, State.vfMoves]
  rw [if_neg (by omega)]
  cases s.pwr.ready <;> simp

/-! ## Which port a doorbell write comes by -/

/-- Nothing but the count of free values can change (log 107). -/
theorem State.doorFrozen_fst (s : State) (fn : Nat) :
    (s.doorFrozen fn).1 = { s with frees := (s.doorFrozen fn).1.frees } := by
  unfold State.doorFrozen
  split
  · rfl
  · dsimp only; split <;> rfl

theorem State.doorFrozen_doorShut (s : State) (fn : Nat) : (s.doorFrozen fn).1.doorShut fn = s.doorShut fn := by
  rw [State.doorFrozen_fst]; rfl

/-! ## Rings -/

/-- A ring stands in the table of rings or in its function. -/
theorem State.ring_congr {s t : State} (hr : t.rings = s.rings) (hf : t.fns = s.fns) (r : RingId) : t.ring r = s.ring r := by
  cases r <;> simp [State.ring, hr, hf]

@[simp] theorem State.ring_dropExpired (s : State) (r : RingId) : s.dropExpired.ring r = s.ring r :=
  State.ring_congr rfl rfl r

theorem Ring.hasSpace_iff (x : Ring) : x.hasSpace = true ↔ x.en = true ∧ (x.tail - x.head).toNat < 2 ^ x.log2n := by
  simp [Ring.hasSpace]

theorem State.doorFrozen_ring (s : State) (fn : Nat) (r : RingId) : (s.doorFrozen fn).1.ring r = s.ring r := by
  rw [State.doorFrozen_fst]; exact State.ring_congr rfl rfl r

/-- A write of HEAD reaches the ring, in state `t`: a function's through its doorbell page, by a port on which it is not
frozen. -/
abbrev State.headOpen (s : State) (r : RingId) (t : State) : Prop :=
  match r with | .fault fn => s.fnLive fn = true ∧ s.doorFrozen fn = (t, false) | _ => t = s

/-- HEAD above TAIL is ignored (R372). -/
theorem exec_ringHeadWrite_open {s t : State} {r : RingId} (hp : s.pwr.ready = true) (h : s.headOpen r t) (v : BitVec 64) :
    exec (.ringHeadWrite r v) s = if (s.ring r).tail.toNat < v.toNat then .next t
      else .next (t.setRing r { s.ring r with head := v }) := by
  show execRingHeadWrite r v s = _
  cases r with
  | fault fn =>
    obtain ⟨hl, hd⟩ := h
    have hr := s.doorFrozen_ring fn (.fault fn)
    have hs := s.doorFrozen_doorShut fn
    rw [hd] at hr hs
    have ho : s.doorShut fn = false := by simp [State.doorShut, hp, hl]
    simp only [execRingHeadWrite, hd, hs, ho, hr, Bool.or_false, Bool.false_or, decide_eq_true_eq, gt_iff_lt, BitVec.lt_def]
  | fq | ev | col | err =>
    subst h
    simp only [execRingHeadWrite, hp, Bool.not_true, Bool.false_or, decide_eq_true_eq, gt_iff_lt, BitVec.lt_def]

/-- A frozen function's writes of its doorbell page are ignored (R406). -/
theorem exec_ringHeadWrite_frozen {s t : State} {fn : Nat} (h : s.doorFrozen fn = (t, true)) (v : BitVec 64) :
    exec (.ringHeadWrite (.fault fn) v) s = .next t := by
  show execRingHeadWrite (.fault fn) v s = _
  simp [execRingHeadWrite, h]

/-! ## Records -/

/-- A record of a ring other than the fault queue's never waits. -/
theorem State.nextRec_head (s : State) {r : Rec} (h : r.ring ≠ .fq) (q : List Rec) : s.nextRec [] (r :: q) = some (r, q) := by
  simp [State.nextRec, h]

/-- The fault queue's only record waits while its ring has no space. -/
theorem State.nextRec_waits {s : State} {r : Rec} (h : r.ring = .fq) (hs : (s.ring .fq).hasSpace = false) :
    s.nextRec [] [r] = none := by
  simp [State.nextRec, h, hs]

theorem exec_ringRecordWrite_waits {s : State} (h : s.nextRec [] s.recQ = none) : exec .ringRecordWrite s = .next s := by
  show execRingRecordWrite s = _
  simp [execRingRecordWrite, h, noEvent]

/-- The record that leaves is written where its ring has space, and is dropped with OVF set where it has not. -/
theorem exec_ringRecordWrite_next {s : State} {r : Rec} {q : List Rec} (h : s.nextRec [] s.recQ = some (r, q)) :
    exec .ringRecordWrite s = if (s.ring r.ring).hasSpace then .next ({ s with recQ := q }.putRecord r)
      else .next ({ s with recQ := q }.setRing r.ring { s.ring r.ring with ovf := true }) := by
  have hr : ({ s with recQ := q } : State).ring r.ring = s.ring r.ring := State.ring_congr rfl rfl _
  show execRingRecordWrite s = _
  simp only [execRingRecordWrite, h, hr]

/-- A record written where TAIL stands in host memory, TAIL raised, the ring's vector fired (R372, R375). -/
theorem State.putRecord_eq (s : State) (r : Rec) :
    let x := s.ring r.ring
    let place := x.base + r.data.length * (x.tail.toNat % 2 ^ x.log2n)
    s.putRecord r = (({ s.dropExpired with hostMem := Mem.write s.hostMem place r.data } : State).setRing r.ring
      { x with tail := x.tail + 1 }).msi (ringVec r.ring).1 (ringVec r.ring).2 := by
  simp only [State.putRecord, State.ring_dropExpired]
  rfl

/-! ## Register writes -/

theorem exec_registerWrite_not_ready {s : State} (h : s.pwr.ready = false) (off : Nat) (v : BitVec 64) :
    exec (.registerWrite off v) s = .next s := by
  show execRegisterWrite off v s = _
  simp [execRegisterWrite, h]

/-- A register with a row of its own. -/
theorem exec_registerWrite_own {s : State} (h : s.pwr.ready = true) {off : Nat} (ho : ownRow off = true) (v : BitVec 64) :
    exec (.registerWrite off v) s = ownWrite off v s := by
  show execRegisterWrite off v s = _
  simp [execRegisterWrite, h, ho]

/-- A register without one. -/
theorem exec_registerWrite_plain {s : State} (h : s.pwr.ready = true) {off : Nat} (ho : ownRow off = false) (v : BitVec 64) :
    exec (.registerWrite off v) s = .next (s.barWrite off v) := by
  show execRegisterWrite off v s = _
  simp [execRegisterWrite, h, ho]

theorem exec_registerWrite_mboxCmd {s : State} (h : s.pwr.ready = true) (v : BitVec 64) :
    exec (.registerWrite 0x10010 v) s = .next (s.mboxCmd v) :=
  exec_registerWrite_plain h (by decide) v

theorem State.mboxCmd_busy {s : State} (h : s.mbox.busy = true) (v : BitVec 64) : s.mboxCmd v = s.event 6 0 0 0 0 := by
  simp [State.mboxCmd, h]

theorem State.mboxCmd_other {s : State} (h : s.mbox.busy = false) {v : BitVec 64} (hv : v.setWidth 8 ≠ 3#8) :
    s.mboxCmd v = { s with mbox := { s.mbox with cmd := v.setWidth 8, busy := true } } := by
  simp [State.mboxCmd, h, hv]

theorem State.mboxCmd_invalidate {s : State} (h : s.mbox.busy = false) {v : BitVec 64} (hv : v.setWidth 8 = 3#8)
    {asid : Nat} {r : Option (Nat × Nat)} (hi : invalidation s.payload = some (asid, r)) :
    s.mboxCmd v = ({ s with mbox := { s.mbox with cmd := v.setWidth 8, busy := true } } : State).tlbDrop asid r := by
  simp only [State.mboxCmd, h, Bool.false_eq_true, if_false, if_pos hv]
  split
  · next e => cases e.symm.trans hi; rfl
  · next e => cases e.symm.trans hi

/-! ## Registers with rows of their own -/

section
variable {s : State} (hp : s.pwr.ready = true) (v : BitVec 64)
include hp

theorem exec_registerWrite_en {i : Nat} (hi : i < 4) :
    exec (.registerWrite (0x1020 + 8 * i) v) s = exec (.enWrite i v) s := by
  rw [exec_registerWrite_own hp (by simp [ownRow]; omega)]
  show _ = execEnWrite i v s
  rw [ownWrite, if_pos (by omega), show (0x1020 + 8 * i - 0x1020) / 8 = i by omega]

/-- MASTER 4 of THAW names a peer port (R407). -/
theorem exec_registerWrite_thawPeer (hv : v.toNat % 8 = 4) :
    exec (.registerWrite 0x70000 v) s = exec (.thawPeerPort (v.toNat / 8 % 8192)) s := by
  have hm : bits v.toNat 2 0 = 4 := by simpa [bits] using hv
  have hu : bits v.toNat 15 3 = v.toNat / 8 % 8192 := by simp [bits]
  rw [exec_registerWrite_own hp (by decide)]
  show thawWrite v s = execThawPeerPort _ s
  simp only [thawWrite, hm, hu]

theorem exec_registerWrite_modpwr : exec (.registerWrite 0x80080 v) s = exec (.modpwrWrite v) s :=
  exec_registerWrite_own hp (by decide) v

/-- A register of the PF's doorbell page. -/
theorem exec_registerWrite_door {o : Nat} (ho : doorOwn o = true) (hb : o < 0x10000) :
    exec (.registerWrite (0x60000 + o) v) s = doorOwnWrite 0 o v s := by
  rw [exec_registerWrite_own hp (by simp [ownRow, ho]; omega)]
  rw [ownWrite, if_neg (by omega), if_neg (by omega), if_neg (by omega), if_neg (by omega), if_pos (by omega),
    Nat.add_sub_cancel_left]

theorem exec_registerWrite_chainTail {ch : Nat} (hc : ch < 4) :
    exec (.registerWrite (0x60000 + 0x100 * ch + 0x10) v) s = exec (.chainTailWrite 0 ch v) s := by
  rw [Nat.add_assoc, exec_registerWrite_door hp v (by simp [doorOwn]; omega) (by omega), doorOwnWrite, if_pos (by omega),
    show (0x100 * ch + 0x10) / 0x100 = ch by omega]
  rfl

theorem exec_registerWrite_faultHead : exec (.registerWrite 0x60410 v) s = exec (.ringHeadWrite (.fault 0) v) s :=
  exec_registerWrite_door hp v (o := 0x410) (by decide) (by decide)

end

/-- Settles O51: each clause is the law above about its row. -/
theorem registersAndRings : Obligations.RegistersAndRings := by
  intro s
  refine ⟨?thawReady, ?thawNot, fun c hc hp => exec_thawQuarantinedCore hc hp, ?vftab, ?head,
    fun fn v t h => exec_ringHeadWrite_frozen h v, ?waits, ?record, ?mbox, ?own,
    fun off v hp => exec_registerWrite_not_ready hp off v⟩
  case thawReady => intro i m h hp; rw [exec_thaws h, State.thaw_ready hp]
  case thawNot => intro i m h hp; rw [exec_thaws h, State.thaw_not_ready hp]
  case vftab =>
    intro n v h1 h2 f moves
    exact ⟨fun h => (exec_vftabWrite s v h1 h2).trans (if_pos h),
      fun hp hm => (exec_vftabWrite s v h1 h2).trans (if_neg fun h => h.elim (by simp [hp]) hm)⟩
  case head =>
    intro r v t hp h
    have e := exec_ringHeadWrite_open hp h v
    exact ⟨fun hv => e.trans (if_pos hv), fun hv => e.trans (if_neg (Nat.not_lt.mpr hv))⟩
  case waits =>
    intro r hq hr hs
    exact exec_ringRecordWrite_waits (hq ▸ State.nextRec_waits hr hs)
  case record =>
    intro r q hq hr x s1 room place s2
    have e := exec_ringRecordWrite_next (hq ▸ s.nextRec_head hr q)
    have hx : s1.ring r.ring = x := State.ring_congr rfl rfl _
    refine ⟨fun h => e.trans (if_neg (mt x.hasSpace_iff.mp h)), fun h => (e.trans (if_pos (x.hasSpace_iff.mpr h))).trans ?_⟩
    rw [State.putRecord_eq, hx]
  case mbox =>
    intro v hp
    refine ⟨exec_registerWrite_plain hp (by decide) v, exec_registerWrite_plain hp (by decide) v, fun hb => ?_, fun hb => ?_⟩
    · refine ⟨fun hv => ?_, fun asid r hv hi => ?_⟩
      · rw [exec_registerWrite_mboxCmd hp, State.mboxCmd_other hb hv]
      · rw [exec_registerWrite_mboxCmd hp, State.mboxCmd_invalidate hb hv hi]
    · rw [exec_registerWrite_mboxCmd hp, State.mboxCmd_busy hb]
  case own =>
    intro hp n v
    refine ⟨?_, ?_, ?_, ?_, ?_⟩
    · rintro i hi rfl; exact exec_registerWrite_en hp v hi
    · rintro rfl hv; exact exec_registerWrite_thawPeer hp v hv
    · rintro rfl; exact exec_registerWrite_modpwr hp v
    · rintro ch hc rfl; exact exec_registerWrite_chainTail hp v hc
    · rintro rfl; exact exec_registerWrite_faultHead hp v

end Sys2Proof.Machine
end

section
/-! What a unit and a task read as once they are stored, in any table: those that do something. -/

namespace Sys2Proof.Machine

/-- A task that does something is not the entry an unlisted key reads as. -/
theorem Task.ne_default {j : Task} (h : j.st ≠ .none) : j ≠ default := fun e => h (by rw [e]; rfl)

theorem State.task_modTask_self (s : State) (k : Nat) (f : Task → Task) (h : (f (s.task k)).st ≠ .none) :
    (s.modTask k f).task k = f (s.task k) :=
  Tab.get_put_of_ne s.tasks k _ (Task.ne_default h)

theorem State.unit_modUnit_self (s : State) (u : Nat) (f : Unit → Unit) (h : (f (s.unit u)).mode ≠ .idle) :
    (s.modUnit u f).unit u = f (s.unit u) :=
  s.unit_setUnit_self u _ h

end Sys2Proof.Machine
end

section
/-! The first effect to come of a unit performed (spec 02, R39, R54 to R56; 05, R136; 06, R142; 07, R183, R184, R190, R192;
09, R239): what taking it off the list and performing it do, then O41. -/

namespace Sys2Proof.Machine

open Claims

/-! ## The first effect to come -/

/-- Effects that change their own unit and nothing else: `State.performDue` leaves them to `Unit.perform`. -/
def Eff.inUnit : Eff → Bool
  | .fpush _ | .dfault .. | .msamp .. | .beat .. | .rrot .. | .rput .. | .rmatch _ | .xrecv _ | .rsamp _ => false
  | _ => true

theorem State.performDue_inUnit (s : State) (u : Nat) {d : Due} (h : d.eff.inUnit = true) :
    s.performDue u d = s.modUnit u fun x => x.perform d := by
  obtain ⟨c, p, l, i, e⟩ := d
  cases e
  case fpush | dfault | msamp | beat | rrot | rput | rmatch | xrecv | rsamp => cases h
  all_goals rfl

section
variable {s : State} {d : Due} {r : List Due} (hp : s.me.pend = d :: r)
include hp

theorem State.performFirst_me : s.performFirst s.active = (s.modMe dropped1).performDue s.active d := by
  have hd : ({ s.me with pend := r } : Unit) = dropped1 s.me := by simp [dropped1, hp]
  have hf : s.performFirst s.active = (s.setUnit s.active { s.me with pend := r }).performDue s.active d := by
    unfold State.performFirst
    rw [show (s.unit s.active).pend = d :: r from hp]
    rfl
  rw [hf, hd]
  rfl

/-- A row of the table whose class the first effect belongs to performs it. -/
theorem dueRow_head {sel : Eff → Bool} (why : String) (hs : sel d.eff = true) :
    dueRow s sel why = .next ((s.modMe dropped1).performDue s.active d) := by
  simp only [dueRow, hp, hs, if_true, State.performFirst_me hp]

/-- An effect that stays in its unit: the unit without it, and with what it does. -/
theorem dueRow_inUnit {e : Eff} {sel : Eff → Bool} {why : String} {f : Unit → Unit} (hm : s.me.mode ≠ .idle) (he : d.eff = e)
    (hs : sel e = true) (hu : e.inUnit = true) (hf : (dropped1 s.me).perform { d with eff := e } = f s.me) :
    dueRow s sel why = .next (s.modMe f) := by
  subst he
  rw [dueRow_head hp why hs, State.performDue_inUnit _ _ hu]
  exact congrArg _ ((s.modMe_modMe dropped1 _ hm).trans (s.modMe_congr _ f hf))

end

/-! ## What the effects do to their unit -/

/-- The latch keeps the result of a later issue (R39, R40). -/
theorem Unit.arrive_eq (x : Unit) (i : Nat) (v : Lv 64) :
    x.arrive i v = { x with vol := { x.vol with
      q := (v :: x.vol.q).take 16
      lat := if x.vol.latIss = none ∨ x.vol.latIss.getD 0 < i then v else x.vol.lat
      latIss := if x.vol.latIss = none ∨ x.vol.latIss.getD 0 < i then some i else x.vol.latIss } } := by
  unfold Unit.arrive
  cases x.vol.latIss <;> simp

theorem Unit.setP_eq (x : Unit) (p : Nat) (v : Pred) :
    x.setP p v = { x with regs := { x.regs with p := if p = 0 then x.regs.p else x.regs.p.put p v } } := by
  unfold Unit.setP
  split <;> rfl

theorem Unit.pushRow_eq (x : Unit) (i : Nat) (w : Lv 4096) : x.pushRow i w = pushed x i w := by
  unfold Unit.pushRow pushed
  cases x.vol.vlatIss <;> simp

theorem Unit.mwNow_of_ne {x : Unit} {c : Nat} (h : x.que.mwC ≠ c) : x.mwNow c = [] := if_neg h

theorem Unit.tileOn_of_on {x : Unit} {t : Nat} (ha : t < x.regs.acc) (hon : (x.regs.tiles.get t).pow = .on) :
    x.tileOn t = true := by
  simp [Unit.tileOn, ha, hon]

/-- A row write that no M write of its cycle meets, of a tile allotted and on (R55, R142). -/
theorem Unit.rowWrite_alone {x : Unit} {c t : Nat} (ht : x.tileOn t = true) (hc : x.que.mwC ≠ c) (i n : Nat) (v : Lv 4096)
    (keep : Nat) (whole : Bool) (fl : BitVec 5) :
    x.rowWrite c i t n v keep whole fl =
      withRow (pushed (flagged x fl v.l) i (rowNew (x.rowAt t n) v keep whole)) t n (rowNew (x.rowAt t n) v keep whole) := by
  simp only [Unit.rowWrite, ht, if_true, Unit.mwNow_of_ne hc, List.find?_nil, Unit.pushRow_eq]
  rfl

/-- Settles O41: the row of each effect performs the first one to come, and the laws above say what it does to its unit. -/
theorem timedEffects : Obligations.TimedEffects := by
  intro s d r hp hm
  refine ⟨?sres, ?sname, ?pred, ?vrow, ?store, ?cadd, ?mrow, ?mslot, ?mchk, ?xrecv, ?fetch, ?flip⟩
  case sres =>
    intro i v he
    show execSResultArrive s = _
    exact dueRow_inUnit hp hm he rfl rfl (Unit.arrive_eq _ i v)
  case sname =>
    intro p v he
    show execSResultArrive s = _
    exact dueRow_inUnit hp hm he rfl rfl rfl
  case pred =>
    intro p v he
    show execSResultArrive s = _
    exact dueRow_inUnit hp hm he rfl rfl (Unit.setP_eq _ p v)
  case vrow =>
    intro i t n v keep whole fl he ha hon hc
    show execVRowWrite s = _
    have ht : (dropped1 s.me).tileOn t = true := Unit.tileOn_of_on ha hon
    exact dueRow_inUnit hp hm he rfl rfl (Unit.rowWrite_alone ht hc i n v keep whole fl)
  case store =>
    intro ws he
    show execTimedStorePerform s = _
    exact dueRow_inUnit hp hm he rfl rfl rfl
  case cadd =>
    intro a v he
    show execTimedStorePerform s = _
    refine dueRow_inUnit hp hm he rfl rfl ?_
    simp only [Unit.perform, satAdd, Nat.min_comm]
    rfl
  case mrow =>
    intro w k he
    show execMRowGroupAccumulate s = _
    exact dueRow_inUnit hp hm he rfl rfl rfl
  case mslot =>
    intro w he
    show execMloadbSlotReady s = _
    exact dueRow_inUnit hp hm he rfl rfl rfl
  case mchk =>
    intro w he
    show execMchkvResult s = _
    exact dueRow_inUnit hp hm he rfl rfl rfl
  case xrecv =>
    intro k he
    show execXrecvPerform s = _
    refine (dueRow_head hp _ (by rw [he])).trans ?_
    simp only [State.performDue, he]
  case fetch =>
    intro hseg hb
    show execFetchGroup s = _
    simp [execFetchGroup, hseg, hb]
  case flip =>
    intro a hseg ha
    show execAccinjFlip s = _
    simp only [execAccinjFlip, hseg, ha]
    exact congrArg _ (s.modMe_modMe _ Unit.flipBit hm)

end Sys2Proof.Machine
end

section
/-! Tasks leave their units and come back (spec 02, R62; 09, R252, R253; 15, R306, R308; 22, R404): a task that runs alone,
what a save and a re-run leave in the task table, then O42. -/

namespace Sys2Proof.Machine

open Claims

/-! ## A task alone on its unit -/

theorem State.gangTasks_alone {s : State} {k : Nat} (h : (s.task k).gang = none) : s.gangTasks k = [k] := by
  simp only [State.gangTasks, h]

/-- A time that has passed, as the model judges it. -/
theorem State.elapsed_of_passed {s : State} {t us : Nat} (h : passed s t us) : s.elapsed t us = true := decide_eq_true h

section
variable {s : State} {k u : Nat} (hr : runs1 s k u)
include hr

theorem State.taskOf_alone : s.taskOf u = s.task k := by
  obtain ⟨-, hu, -⟩ := hr
  simp only [State.taskOf, hu]

theorem State.gangOf_alone : s.gangOf u = [u] := by
  have ht := State.taskOf_alone hr
  obtain ⟨-, -, hg⟩ := hr
  simp only [State.gangOf, ht, hg]

theorem State.gangLive_alone (hm : ∀ e, (s.unit u).mode ≠ .tending e) : s.gangLive u = [u] := by
  -- with `hm` at hand simp takes the branch of a member that has not come to its TEND
  simp [State.gangLive, State.gangOf_alone hr]

end

/-! ## The restore after a cancel -/

/-- The unit as a restore leaves it: nothing is deferred, and the attempt counts or not (R252, R308). -/
theorem State.resume_unit (s : State) (u : Nat) (count : Bool) :
    let x := s.unit u
    let y := x.restore (x.snap.getD x.regs) x.snapM x.snapPc
    (s.resume u count).unit u =
      { y with defer := [], vol := { y.vol with attempt := x.vol.attempt + (if count then 1 else 0) } } :=
  s.unit_modUnit_self u _ UMode.noConfusion

theorem State.rerun_task {s : State} {u k : Nat} (h : (s.unit u).task = some k) (count : Bool) :
    let j := (s.rerun u count).task k
    j.st = .spawned ∧ j.unit = none ∧ j.attempt = (s.unit u).vol.attempt + (if count then 1 else 0) := by
  simp only [State.rerun, h]
  rw [State.task_modTask_self _ k _ TState.noConfusion]
  exact ⟨rfl, rfl, rfl⟩

/-- The restore of a task of no gang that nothing saves or sends elsewhere (R252 steps 4 and 5). -/
theorem exec_phaseRestoreComplete_alone {s : State} {k u : Nat} (hr : runs1 s k u) (hm : (s.unit u).mode = .restoring)
    (hq : s.quiet u = true) (hs : (s.unit u).saving = 0) :
    exec (.phaseRestoreComplete k) s = .next (if s.prot u then (s.resume u true).modUnit u fun x => { x with saving := 0 }
      else s.rerun u true) := by
  obtain ⟨hk, -, -⟩ := hr
  show execPhaseRestoreComplete k s = _
  simp only [execPhaseRestoreComplete, hk, hm, hq, hs]
  cases s.prot u <;> rfl

/-! ## Saves -/

section
variable {s : State} {k u : Nat}

/-- Whatever its save area and the charge of its function become, the table has the task as saved. -/
theorem State.saveOff_off (h : (s.unit u).task = some k) (r : Regs) (pc : Nat) : off (s.saveOff u .parked r pc) k r pc := by
  simp only [off, State.saveOff, h]
  rw [State.task_modTask_self _ k _ TState.noConfusion]
  exact ⟨rfl, rfl, _, rfl, rfl, rfl⟩

/-- A park keeps what the task waits for (R306). -/
theorem State.parkOff_wait {slot idx target : Nat} {l : Label} (h : (s.unit u).task = some k)
    (hm : (s.unit u).mode = .wait slot idx target l) :
    let t := s.parkOff u k
    off t k (savedRegs s u) (s.unit u).pc ∧ (t.task k).wait = some (slot, idx, target) := by
  obtain ⟨hst, hunit, v, hv, hregs, hpc⟩ := State.saveOff_off h (savedRegs s u) (s.unit u).pc
  simp only [off, State.parkOff, hm]
  rw [State.task_modTask_self _ k _ (fun e => TState.noConfusion (hst.symm.trans e))]
  exact ⟨⟨hst, hunit, v, hv, hregs, hpc⟩, rfl⟩

section
variable {slot idx target : Nat} {l : Label} (hr : runs1 s k u) (hm : (s.unit u).mode = .wait slot idx target l)
  (hp : passed s (s.unit u).since (s.launch (s.task k).lid).limit)
include hr hm hp

/-- Beyond PARKLIMIT a task without a timetable is parked once nothing more is written to its unit. -/
theorem exec_park_untimed (hq : s.quiet u = true) (ht : (s.task k).timed = none) :
    exec (.park k) s = .next (s.parkOff u k) := by
  have hg : s.saveGang u = s := by
    simp [State.saveGang, State.gangLive_alone hr fun e h => UMode.noConfusion (hm.symm.trans h)]
  obtain ⟨hk, hu, -⟩ := hr
  show execPark k s = _
  simp [execPark, hk, hu, hm, State.elapsed_of_passed hp, ht, hq, hg]

/-- A timetabled one ends (R306). -/
theorem exec_park_timed {e : Nat × Nat × Nat} (ht : (s.task k).timed = some e) :
    exec (.park k) s = .next (s.raise u { (s.unit u).flt lanS 0x12 2 (s.unit u).vol.lblpc with cyc := 0xFFFFFFFF } false) := by
  obtain ⟨hk, hu, -⟩ := hr
  show execPark k s = _
  simp [execPark, hk, hu, hm, State.elapsed_of_passed hp, ht, fTaskLate]

end

end

/-! ## Wakes, breaks, forced saves -/

/-- A parked task of no gang whose wait is over (R299). -/
theorem exec_parkedWake_alone {s t : State} {k : Nat} (hg : (s.task k).gang = none) (hst : (s.task k).st = .parked)
    (hoff : (s.asids.get (s.launch (s.task k).lid).asid).off = false) (hsc : s.schedStalled k = false)
    (hw : s.wakes k = (t, .ok true)) :
    exec (.parkedWake k) s =
      .next ((t.gain k).modTask k fun j => { j with st := .spawned, wait := none, start := t.frame.toNat }) := by
  show execParkedWake k s = _
  simp [execParkedWake, State.gangTasks_alone hg, hst, hoff, hsc, hw]

section
variable {s : State} {u : Nat}

/-- A hold ends with its restore (R237); a unit that a quarantine empties still is (R408). -/
theorem State.cancelAll_held (h : (s.unit u).mode = .held) :
    s.cancelAll [u] 3 = ((s.modUnit u fun x => { x with mode := .code }).cancelOne u (s.unit u).iss.cyc false).modUnit u
      fun x => { x with saving := if (s.unit u).saving = 2 ∨ (s.unit u).saving = 4 then 4 else 3 } := by
  simp only [State.cancelAll, List.foldl_cons, List.foldl_nil, h, if_true, Bool.false_eq_true, if_false, decide_true,
    Bool.true_and, Bool.or_eq_true, decide_eq_true_eq]
  rfl

/-- A unit in the middle of its phase is given up to a restore. -/
theorem State.cancelAll_inPhase (h : (s.unit u).mode = .code ∨ (s.unit u).mode = .seg) :
    s.cancelAll [u] 1 = (s.cancelOne u (s.unit u).iss.cyc false).modUnit u fun x => { x with saving := 1 } := by
  rcases h with h | h <;> simp [State.cancelAll, h]

end

section
variable {s : State} {k u : Nat}

/-- BREAK_RESUME of a task of no gang on a core (R404). -/
theorem exec_breakResume_core (hr : runs1 s k u) (hm : (s.unit u).mode = .held) (hu : u < 384) :
    exec (.breakResume k) s = .next (s.cancelAll [u] 3) := by
  have hl := State.gangLive_alone hr fun e h => UMode.noConfusion (hm.symm.trans h)
  obtain ⟨hk, -, -⟩ := hr
  show execBreakResume k s = _
  simp [execBreakResume, hk, hm, isSeq, Nat.not_le.mpr hu, hl]

/-- On a sequencer the next word runs. -/
theorem exec_breakResume_sequencer (hk : (s.task k).unit = some u) (hm : (s.unit u).mode = .held) (hu : 384 ≤ u) :
    exec (.breakResume k) s = .next (s.modUnit u fun x => { x with mode := .code }) := by
  show execBreakResume k s = _
  simp [execBreakResume, hk, hm, isSeq, hu]

/-- FORCED_SAVE of a task of no gang in the middle of its phase on a core (R308). -/
theorem exec_forcedSave_alone {f us : Nat} (hr : runs1 s k u) (hu : u < 384)
    (hm : (s.unit u).mode = .code ∨ (s.unit u).mode = .seg) (ht : (s.task k).timed = none) (hs : (s.unit u).saveNext = false)
    (hpre : (s.asids.get (s.launch (s.task k).lid).asid).pre = some (f, us)) (hp : passed s f us) :
    exec (.forcedSave k) s = .next ((s.post (.fault (s.fnOf u)) (faultRecord s u
      { fltOf 0x16 0 (s.unit u).vol.lblpc with cyc := (s.unit u).iss.segcyc } 0)).cancelAll [u] 1) := by
  have hl := State.gangLive_alone hr (by rcases hm with h | h <;> simp [h])
  obtain ⟨hk, hx, -⟩ := hr
  show execForcedSave k s = _
  rcases hm with h | h <;>
    simp [execForcedSave, hk, hx, h, hs, hpre, State.elapsed_of_passed hp, ht, isSeq, Nat.not_le.mpr hu, hl, fForcedSave]

end

/-- Settles O42: each move of a task of no gang is the law above about its row. -/
theorem tasksLeaveUnits : Obligations.TasksLeaveUnits := by
  intro s k u x
  refine ⟨?restore, ?park, fun t hg hst hoff hsc hw => exec_parkedWake_alone hg hst hoff hsc hw, ?core, ?sequencer, ?forced⟩
  case restore =>
    intro hr hm hq hs
    obtain ⟨-, hu, -⟩ := id hr
    have e := exec_phaseRestoreComplete_alone hr hm hq hs
    refine ⟨fun hp => ⟨_, e.trans (by rw [hp, if_pos rfl]), ?_⟩, fun hp => ⟨_, e.trans (by rw [hp]), ?_⟩⟩
    · have hx := s.resume_unit u true
      rw [State.unit_modUnit_self _ u _ (by rw [hx]; exact UMode.noConfusion), hx]
      exact ⟨rfl, rfl, rfl, rfl, rfl, rfl, rfl⟩
    · exact State.rerun_task hu true
  case park =>
    intro slot idx target l hr hm hp
    obtain ⟨-, hu, -⟩ := id hr
    exact ⟨fun hq ht => ⟨_, exec_park_untimed hr hm hp hq ht, State.parkOff_wait hu hm⟩,
      fun r ht => exec_park_timed hr hm hp ht⟩
  case core =>
    intro hr hm hu
    exact (exec_breakResume_core hr hm hu).trans (congrArg _ (State.cancelAll_held hm))
  case sequencer =>
    intro hk hm hu
    exact exec_breakResume_sequencer hk hm hu
  case forced =>
    intro f us hr hu hm ht hs hpre hp
    refine (exec_forcedSave_alone hr hu hm ht hs hpre hp).trans (congrArg _ ?_)
    exact State.cancelAll_inPhase (s := s.post _ _) hm

end Sys2Proof.Machine
end

section
/-! A task starts on a unit (spec 02, R47, R61, R62; 15, R306): the unit and the table entry after it, then O45. -/

namespace Sys2Proof.Machine

/-- The first commit point of a phase-protected task set where it starts (R250). -/
def State.committed (s : State) (u : Nat) (prot : Bool) : State :=
  if prot then s.modUnit u fun x => { x with snap := some x.regs, snapM := s.stagedCopies u Box.allocBytes } else s

/-- A unit and a task stored, then the commit point: of the unit that alone is added. -/
theorem State.stored_unit (s : State) (u k : Nat) {x : Unit} (hm : x.mode ≠ .idle) (f : Task → Task) (prot : Bool) :
    let s1 := (s.setUnit u x).modTask k f
    (s1.committed u prot).unit u = { x with
      snap := if prot then some x.regs else x.snap
      snapM := if prot then s1.stagedCopies u Box.allocBytes else x.snapM } := by
  intro s1
  have hx : s1.unit u = x := s.unit_setUnit_self u x hm
  cases prot
  · exact hx
  · rw [State.committed, if_pos rfl, s1.unit_modUnit_self u _ (by rw [hx]; exact hm), hx]
    rfl

theorem State.stored_task (s : State) (u k : Nat) (x : Unit) (f : Task → Task) (hf : ∀ j, (f j).st ≠ .none) (prot : Bool) :
    (((s.setUnit u x).modTask k f).committed u prot).task k = f (s.task k) := by
  have hk : ((s.setUnit u x).modTask k f).task k = f (s.task k) := State.task_modTask_self _ k f (hf _)
  cases prot <;> exact hk

/-- Settles O45: the unit as it is stored, with the task's first commit point where there is one. -/
theorem taskStart : Obligations.TaskStart := by
  intro s u k j l e y
  -- a start stores the unit and the task, then sets the commit point
  have hy : y = _ := State.stored_unit (s.freeSave k) u k UMode.noConfusion _ e.prot
  have hk : (s.startTask u k).task k = _ := State.stored_task (s.freeSave k) u k _ _ (fun _ => TState.noConfusion) e.prot
  refine ⟨congrArg Unit.mode hy, congrArg Unit.task hy, congrArg Unit.pend hy, congrArg Unit.que hy, ?queue, ?returns,
    congrArg (·.vol.lblpc) hy, congrArg (·.vol.codeL) hy, congrArg Unit.codeN hy, ?commit, ?saved, ?anew,
    congrArg Task.st hk, congrArg Task.unit hk⟩
  case queue =>
    refine (congrArg (·.vol.q) hy).trans ?_
    cases (s.task k).saved <;> rfl
  case returns =>
    refine (congrArg (·.vol.rstack) hy).trans ?_
    cases (s.task k).saved <;> rfl
  case commit =>
    refine (congrArg (·.snap.isSome) hy).trans ?_
    cases e.prot <;> rfl
  case saved =>
    intro v (hv : (s.task k).saved = some v)
    rw [hv] at hy
    exact ⟨congrArg Unit.regs hy, congrArg Unit.pc hy⟩
  case anew =>
    intro (hv : (s.task k).saved = none)
    rw [hv] at hy
    exact ⟨congrArg Unit.regs hy, congrArg (·.vol.chst) hy, congrArg Unit.pc hy⟩

end Sys2Proof.Machine
end

section
/-! One step of a unit (spec 02, R42; 03, R97; 04, R108; 05, R114; 09, R242): a word of untimed code, and the word at the
head of a lane's queue, then O58. -/

namespace Sys2Proof.Machine

/-- The step of a unit that has the turn. -/
theorem step_unit {s : State} {u : Nat} (h : s.turn = some (.unit u)) :
    step s = (State.moveUnit { s with turn := none } exec u).getD (noMove { s with turn := none }) := by
  simp only [step, h, State.act]

/-! ## Untimed code -/

section
variable {s : State} {u : Nat} (ex : Instr → State → Out)

theorem State.moveUnit_code (h : (s.unit u).mode = .code) : s.moveUnit ex u = some (s.moveCode ex u) := by
  simp only [State.moveUnit, h]

/-- The lane of the word at the pc. -/
abbrev State.laneNext (s : State) (u : Nat) : Nat := laneOf (((s.unit u).fetchWords (s.unit u).pc).headD 0#64)

/-- Words that decode to nothing (R97). -/
theorem State.moveCode_error {e : DecodeError} (hd : decode ((s.unit u).fetchWords (s.unit u).pc) = .error e) :
    s.moveCode ex u = .next ((s.takeUp u 1).codeFault u (s.laneNext u) fIllegalWord) := by
  simp only [State.moveCode, hd]

/-- An S word that is in place where it stands runs, with the pc past it (R42, R114). -/
theorem State.moveCode_ok {i : Instr} {n : Nat} (hd : decode ((s.unit u).fetchWords (s.unit u).pc) = .ok (i, n))
    (hw : (s.takeUp u n).wordBad u (s.unit u).pc (s.laneNext u) (s.unit u).regs.acc i = none) (hl : s.laneNext u = 0)
    (ho : outOfOrder (s.unit u) i = false) : s.moveCode ex u = ex i ((s.takeUp u n).skip u n) := by
  simp only [State.moveCode, hd, hw]
  rw [if_neg (not_not_intro hl), ho]
  rfl

end

/-- After REALIGN or WAITGE a SYNC is in order, and with nothing before it any word (R108). -/
theorem outOfOrder_eq_false {x : Unit} {i : Instr} (h : x.order = false ∨ ∃ h, i = .sync h) : outOfOrder x i = false := by
  rcases h with h | ⟨h, rfl⟩
  · simp [outOfOrder, h]
  · simp [outOfOrder]

/-! ## A segment -/

section
variable {s t : State} {u : Nat} {ex : Instr → State → Out}

theorem State.moveUnit_seg {a : At} (hm : (s.unit u).mode = .seg) (hf : s.firstOf u = true) (hn : s.nextOf u = some a) :
    s.moveUnit ex u = some (s.perform ex u a) := by
  simp only [State.moveUnit, hm, State.moveSeg, hf, hn, if_true, Option.map_some]

/-- The word at the head of a lane's queue, with nothing standing at its tokens, runs and ends its issue (R242, R245). -/
theorem State.issueAt_ok {lane c n : Nat} {q : QWord} {r : List QWord} {i : Instr} (hq : (s.unit u).seg.queue lane = q :: r)
    (hw : (s.unit u).when lane q ≤ lastCycle) (hd : decode q.words = .ok (i, n))
    (hst : (s.beginAt u lane c q).tokStanding u (consumedBy (hdrOf q.words)) = none)
    (htok : ∀ k ∈ consumedBy (hdrOf q.words), (s.beginAt u lane c q).tokFault u lane k = none)
    (hx : ex i (s.beginAt u lane c q) = .next t) : s.issueAt ex u lane c = .next (t.endIssue u lane i) := by
  have hnone : ((consumedBy (hdrOf q.words)).findSome? fun k => (s.beginAt u lane c q).tokFault u lane k) = none :=
    List.findSome?_eq_none_iff.mpr htok
  have hnot : ¬ (s.unit u).when lane q > lastCycle := by omega
  simp only [State.issueAt, hq, hnot, decide_false, Bool.false_eq_true, if_false, hd, hst, hnone, hx]

/-- The segment of a unit has come to cycle `c`. -/
abbrev State.cameTo (s : State) (u c : Nat) : State :=
  s.modUnit u fun x => { x with seg := { x.seg with cyc := max x.seg.cyc c } }

/-- An issue before which no lane is known to have missed (R243). -/
theorem State.perform_issue {a : At} {lane : Nat} (ha : a.what = .issue lane)
    (hi : (s.cameTo u a.cyc).issueAt ex u lane a.cyc = .next t) (hl : (s.cameTo u a.cyc).lateLane u a.cyc lane = none) :
    s.perform ex u a = .next t := by
  simp only [State.perform, ha, hi, hl]

end

/-- Settles O58: the unit's move is that of its mode, and the word it takes up is the one its words decode to. -/
theorem stepRunsDecoded : Obligations.StepRunsDecoded := by
  intro s u hu
  refine ⟨?runs, ?illegal, ?segment⟩
  case runs =>
    intro i n hm hd hw hl ho
    rw [step_unit hu, State.moveUnit_code exec (s := { s with turn := none }) hm]
    exact State.moveCode_ok exec hd hw hl (outOfOrder_eq_false ho)
  case illegal =>
    intro e hm hd
    rw [step_unit hu, State.moveUnit_code exec (s := { s with turn := none }) hm]
    exact State.moveCode_error exec hd
  case segment =>
    intro a lane q r i n t hm hf hn ha s1 hq hw hd s2 hst htok hl hx
    rw [step_unit hu, State.moveUnit_seg (s := { s with turn := none }) hm hf hn]
    exact State.perform_issue ha (State.issueAt_ok hq hw hd hst htok hx) hl

end Sys2Proof.Machine
end

section
/-! The state after package reset (spec 02, R61, R63; 20, R379; 23, R416, R423, R424): the tables it is built from, then
O59. -/

namespace Sys2Proof.Machine

variable {α : Type} [Inhabited α]

/-- A table of one value under the keys of a list. -/
theorem Tab.get_map_const (l : List Nat) (v : α) (k : Nat) :
    Tab.get (l.map fun u => (u, v)) k = if k ∈ l then v else default := by
  induction l with
  | nil => rfl
  | cons a r ih =>
    by_cases h : k = a
    · simp [Tab.get, h]
    · simp [Tab.get, h, ih]

theorem Tab.wfFrom_map_range' [DecidableEq α] {v : α} (hv : v ≠ default) (n lo : Nat) :
    Tab.wfFrom ((List.range' lo n).map fun u => (u, v)) lo = true := by
  induction n generalizing lo with
  | zero => rfl
  | succ n ih => simp [List.range'_succ, Tab.wfFrom, hv, ih]

/-- A unit after reset differs from an unlisted one in its VMODE. -/
theorem Unit.reset_ne_default : Unit.reset ≠ default := fun h =>
  absurd (congrArg (·.regs.vmode) h) (by decide)

theorem unitsReset_wf : Tab.wf unitsReset = true := by
  rw [unitsReset, List.range_eq_range']
  exact Tab.wfFrom_map_range' Unit.reset_ne_default 432 0

/-- Every unit is idle after reset, without a task. -/
theorem State.reset_unit_idle (u : Nat) : (State.reset.unit u).mode = .idle ∧ (State.reset.unit u).task = none := by
  have h : State.reset.unit u = if u ∈ List.range 432 then Unit.reset else default := Tab.get_map_const _ _ u
  rw [h]
  split <;> exact ⟨rfl, rfl⟩

/-- What is not written reads as zero with label zero. -/
theorem Lv.default_eq (n : Nat) : (default : Lv n) = ⟨0#n, 0#8⟩ := congrArg (Lv.mk · 0#8) BitVec.zero_eq

/-- The registers of a task's start (R61, R64). -/
theorem Regs.start_get (acc n : Nat) : let r := Regs.start acc
    r.s.get n = ⟨0#64, 0#8⟩ ∧ r.p.get n = ⟨false, 0#8⟩ ∧ (r.d.get n).valid = false ∧ r.m.get n = ⟨0#512, 0#8⟩
      ∧ r.vstat = 0#5 ∧ r.vmode = 0x100#64 ∧ r.acc = acc ∧ (r.tiles.get n).rows.get 0 = ⟨0#4096, 0#8⟩ :=
  ⟨Lv.default_eq 64, rfl, rfl, Lv.default_eq 512, rfl, rfl, rfl, Lv.default_eq 4096⟩

/-- 32 lanes between any two dies (R379). -/
theorem connReset_get {i j : Nat} (hi : i < 8) (hj : j < 8) : connReset.get (8 * i + j) = if i = j then 0 else 32 := by
  have hd : (8 * i + j) / 8 = i := by omega
  have hm : (8 * i + j) % 8 = j := by omega
  have hlt : 8 * i + j < 64 := by omega
  have hmem : 8 * i + j ∈ (List.range 64).filter (fun n => decide (n / 8 ≠ n % 8)) ↔ i ≠ j := by
    rw [List.mem_filter, List.mem_range, hd, hm, decide_eq_true_eq]
    exact and_iff_right hlt
  rw [connReset, Tab.get_map_const]
  simp only [hmem, ne_eq, ite_not]
  rfl

theorem State.reset_peer {p : Nat} (hp : p < 32) : State.reset.peers.get p = Peer.reset :=
  (Tab.get_map_const _ _ p).trans (if_pos (List.mem_range.mpr hp))

/-- No store outside the units holds a byte. -/
theorem State.reset_memsOk : Safety.memsOk State.reset := ⟨rfl, rfl, fun _ => rfl, fun _ => rfl⟩

/-- Settles O59: the units, the connections and the peers as the lemmas above have them, the rest as it is set. -/
theorem resetState : Obligations.ResetState := by
  unfold Obligations.ResetState
  refine ⟨State.reset_unit_idle, rfl, rfl, rfl, rfl, rfl, rfl, rfl, rfl, rfl, rfl, rfl, rfl, rfl, fun i j => connReset_get,
    fun p hp => ?peers, rfl, rfl, rfl, rfl, Regs.start_get, State.reset_memsOk,
    unitsReset_wf, rfl⟩
  case peers =>
    rw [State.reset_peer hp]
    exact ⟨rfl, rfl⟩

end Sys2Proof.Machine
end

section
/-! Words and opcodes (spec 03, R66-R100): what a field of a concatenation is, that each decoder of an operand, of an
extension word and of a format reads back what its encoder wrote, then O56, O57 and O55. -/

namespace Sys2Proof

/-! ## Fields of concatenated bits

The rules speak of a width as the sum of the widths appended, so the proofs below keep such sums as they stand
(`-Nat.reduceAdd`); where a field appended is itself chosen by a match, the model's term has the sum evaluated, and the
proof gives the last width (`k := …`). -/

@[simp] theorem fld_all {n : Nat} (x : BitVec n) : fld x 0 n = x := BitVec.extractLsb'_eq_self

@[simp] theorem fld_append_of_le {m k lo n : Nat} (x : BitVec m) (y : BitVec k) (h : lo + n ≤ k) :
    fld (x ++ y) lo n = fld y lo n := by
  refine BitVec.eq_of_getLsbD_eq fun i hi => ?_
  simp only [fld, BitVec.getLsbD_extractLsb', BitVec.getLsbD_append]
  rw [if_pos (by omega)]

@[simp] theorem fld_append_of_ge {m k lo n : Nat} (x : BitVec m) (y : BitVec k) (h : k ≤ lo) :
    fld (x ++ y) lo n = fld x (lo - k) n := by
  refine BitVec.eq_of_getLsbD_eq fun i hi => ?_
  simp only [fld, BitVec.getLsbD_extractLsb', BitVec.getLsbD_append]
  rw [if_neg (by omega), show lo + i - k = lo - k + i by omega]

@[simp] theorem bit_append_of_lt {m k i : Nat} (x : BitVec m) (y : BitVec k) (h : i < k) : bit (x ++ y) i = bit y i := by
  simp only [bit, BitVec.getLsbD_append, if_pos h]

@[simp] theorem bit_append_of_ge {m k i : Nat} (x : BitVec m) (y : BitVec k) (h : k ≤ i) :
    bit (x ++ y) i = bit x (i - k) := by
  simp only [bit, BitVec.getLsbD_append, if_neg (Nat.not_lt.mpr h)]

@[simp] theorem bit_b1 (b : Bool) : bit (b1 b) 0 = b := by cases b <;> rfl

/-- A field of a literal, in the form that the library's literal arithmetic evaluates. -/
@[simp] theorem fld_ofNat {m v lo n : Nat} : fld (BitVec.ofNat m v) lo n = (BitVec.ofNat m v).extractLsb' lo n := rfl

@[simp] theorem bit_ofNat {m v i : Nat} : bit (BitVec.ofNat m v) i = (BitVec.ofNat m v).getLsbD i := rfl

/-! ## Operands -/

@[simp] theorem decSOp_encSOp (a : SOp) : decSOp (encSOp a) = a := by
  cases a <;> simp [encSOp, decSOp, -Nat.reduceAdd]
@[simp] theorem decPOp_encPOp (g : POp) : decPOp (encPOp g) = g := by simp [encPOp, decPOp, -Nat.reduceAdd]
@[simp] theorem decDst_encDst (d : Dst) : decDst (encDst d) = d := by simp [encDst, decDst, -Nat.reduceAdd]
@[simp] theorem decVOp_encVOp (a : VOp) : decVOp (encVOp a) = a := by
  cases a <;> simp [encVOp, decVOp, -Nat.reduceAdd]
@[simp] theorem decBc_encBc (b : Bc) : decBc (encBc b) = b := by
  cases b <;> simp [encBc, decBc, -Nat.reduceAdd]
@[simp] theorem decVIx_encVIx (x : VIx) : decVIx (encVIx x) = x := by
  cases x <;> simp [encVIx, decVIx, -Nat.reduceAdd]
@[simp] theorem fld_encImmW (x : BitVec 60) {lo n : Nat} (h : lo + n ≤ 60) : fld (encImmW x) lo n = fld x lo n :=
  fld_append_of_le _ x h
@[simp] theorem decSB_encSB (b : SB) : decSB (encSB b) (b.ext.map encImmW) = b := by
  cases b <;> simp [encSB, decSB, SB.ext]
@[simp] theorem decImm_encImm (n : Imm) : decImm (encImm n) (n.ext.map encImmW) = n := by
  cases n <;> simp [encImm, decImm, Imm.ext]
@[simp] theorem decSC_encSC (c : SC) : decSC (encSC c) c.isImm = c := by
  cases c <;> simp [encSC, decSC, SC.isImm]
@[simp] theorem decTIdx_encTIdx (x : TIdx) : decTIdx (encTIdx x) x.ai (x.ext.map encImmW) = x := by
  cases x <;> simp [encTIdx, decTIdx, TIdx.ext, TIdx.ai]
@[simp] theorem decRMode_encRMode (x : RMode) : decRMode (encRMode x) = x := by cases x <;> rfl
@[simp] theorem decICond_encICond (x : ICond) : decICond (encICond x) = x := by cases x <;> rfl
@[simp] theorem decFCond_encFCond (x : FCond) : decFCond (encFCond x) = x := by cases x <;> rfl
@[simp] theorem decExtW_encExtW (x : ExtW) : decExtW (encExtW x) = x := by cases x <;> rfl
@[simp] theorem decCvtT_encCvtT (x : CvtT) : decCvtT (encCvtT x) = x := by cases x <;> rfl
@[simp] theorem decAMode_encAMode (x : AMode) : decAMode (encAMode x) = x := by cases x <;> rfl
@[simp] theorem decMerge_encMerge (x : Merge) : decMerge (encMerge x) = x := by cases x <;> rfl
@[simp] theorem decScope_encScope (x : Scope) : decScope (encScope x) = x := by cases x <;> rfl
@[simp] theorem decETy_encETy (x : ETy) : decETy (encETy x) = x := by cases x <;> rfl
@[simp] theorem decAOp_encAOp (x : AOp) : decAOp (encAOp x) = x := by cases x <;> rfl
@[simp] theorem decVF_encVF (x : VF) : decVF (encVF x) = x := by cases x <;> rfl
@[simp] theorem decVI_encVI (x : VI) : decVI (encVI x) = x := by cases x <;> rfl
@[simp] theorem decVW_encVW (x : VW) : decVW (encVW x) = x := by cases x <;> rfl
@[simp] theorem decDFld_encDFld (x : DFld) : decDFld (encDFld x) = x := by
  cases x with
  | slot | valid => rfl
  | step i | org i | ext i => revert i; decide

/-! ## Extension words (R69-R77) -/

@[simp] theorem decMod_encMod (m : Mod) : decMod (encMod m) = m := by
  obtain ⟨nega, absa, negb, absb, negc, absc, exp, rm, rabs, rneg, clamp, sat⟩ := m
  cases rm <;> cases clamp <;>
    simp [encMod, decMod, fld_append_of_ge (k := 32), bit_append_of_ge (k := 32), -Nat.reduceAdd]
@[simp] theorem decDep_encDep (d : Dep) : decDep (encDep d) = d := by simp [encDep, decDep, -Nat.reduceAdd]
@[simp] theorem fld_encStamp (n : BitVec 32) : fld (encStamp n) 0 32 = n := by simp [encStamp, -Nat.reduceAdd]
@[simp] theorem decCoord_encCoord (c : Coord) : decCoord (encCoord c) = c := by simp [encCoord, decCoord, -Nat.reduceAdd]

@[simp] theorem kind_encMod (m : Mod) : fld (encMod m) 60 4 = 1#4 := by
  simp [encMod, fld_append_of_ge (k := 32), -Nat.reduceAdd]
@[simp] theorem kind_encDep (d : Dep) : fld (encDep d) 60 4 = 2#4 := by simp [encDep, -Nat.reduceAdd]
@[simp] theorem kind_encImmW (n : BitVec 60) : fld (encImmW n) 60 4 = 3#4 := by simp [encImmW, -Nat.reduceAdd]
@[simp] theorem kind_encStamp (n : BitVec 32) : fld (encStamp n) 60 4 = 4#4 := by simp [encStamp, -Nat.reduceAdd]
@[simp] theorem kind_encCoord (c : Coord) : fld (encCoord c) 60 4 = 5#4 := by simp [encCoord, -Nat.reduceAdd]

/-- The extension words of a word, in ascending kind (R67). -/
def extWords (h : Hdr) (md : Option Mod) (imm : Option (BitVec 60)) (co : Option Coord) : List Word :=
  optL encMod md ++ (optL encDep h.dep ++ (optL encImmW imm ++ (optL encStamp h.stamp ++ optL encCoord co)))

/-- The same words by their kinds (R69). -/
def extKinds (h : Hdr) (md : Option Mod) (imm : Option (BitVec 60)) (co : Option Coord) : Ext :=
  ⟨md.map encMod, h.dep.map encDep, imm.map encImmW, h.stamp.map encStamp, co.map encCoord⟩

section
variable (h : Hdr) (md : Option Mod) (imm : Option (BitVec 60)) (co : Option Coord)

@[simp] theorem extKinds_mod : (extKinds h md imm co).mod.map decMod = md := by simp [extKinds, Function.comp_def]
@[simp] theorem extKinds_imm : (extKinds h md imm co).imm = imm.map encImmW := rfl
@[simp] theorem extKinds_coord : (extKinds h md imm co).coord.map decCoord = co := by simp [extKinds, Function.comp_def]

end

theorem word_eq (h : Hdr) (lane : BitVec 2) (op : BitVec 8) (ops : BitVec 42) (md : Option Mod) (imm : Option (BitVec 60))
    (co : Option Coord) : word h lane op ops md imm co =
      primary h.idle lane op (BitVec.ofNat 2 (extWords h md imm co).length) ops :: extWords h md imm co := by
  simp only [word, extWords, List.append_assoc]

theorem gather_mod (o : Option Mod) (l : List Word) :
    Ext.gather (optL encMod o ++ l) = { Ext.gather l with mod := (o.map encMod).or (Ext.gather l).mod } := by
  cases o <;> simp [optL, Ext.gather]
theorem gather_dep (o : Option Dep) (l : List Word) :
    Ext.gather (optL encDep o ++ l) = { Ext.gather l with dep := (o.map encDep).or (Ext.gather l).dep } := by
  cases o <;> simp [optL, Ext.gather]
theorem gather_imm (o : Option (BitVec 60)) (l : List Word) :
    Ext.gather (optL encImmW o ++ l) = { Ext.gather l with imm := (o.map encImmW).or (Ext.gather l).imm } := by
  cases o <;> simp [optL, Ext.gather]
theorem gather_stamp (o : Option (BitVec 32)) (l : List Word) :
    Ext.gather (optL encStamp o ++ l) = { Ext.gather l with stamp := (o.map encStamp).or (Ext.gather l).stamp } := by
  cases o <;> simp [optL, Ext.gather]
theorem gather_coord (o : Option Coord) : Ext.gather (optL encCoord o) = ⟨none, none, none, none, o.map encCoord⟩ := by
  cases o <;> simp [optL, Ext.gather]

theorem gather_extWords (h : Hdr) (md : Option Mod) (imm : Option (BitVec 60)) (co : Option Coord) :
    Ext.gather (extWords h md imm co) = extKinds h md imm co := by
  simp [extWords, extKinds, gather_mod, gather_dep, gather_imm, gather_stamp, gather_coord]

theorem length_optL {α β : Type} (f : α → β) (o : Option α) : (optL f o).length = o.toList.length := by
  cases o <;> rfl

theorem length_extWords (h : Hdr) (md : Option Mod) (imm : Option (BitVec 60)) (co : Option Coord) :
    (extWords h md imm co).length = md.toList.length + (h.dep.toList.length + (imm.toList.length
      + (h.stamp.toList.length + co.toList.length))) := by
  simp only [extWords, List.length_append, length_optL]

/-- A word without MOD and IMM, or without MOD and COORD, or without IMM and COORD, or without MOD and DEP has at most three
extension words. -/
theorem length_extWords_le {h : Hdr} {md : Option Mod} {imm : Option (BitVec 60)} {co : Option Coord}
    (hn : md = none ∧ (imm = none ∨ co = none ∨ h.dep = none) ∨ imm = none ∧ co = none) :
    (extWords h md imm co).length ≤ 3 := by
  have one {α : Type} (o : Option α) : o.toList.length ≤ 1 := by cases o <;> simp
  have h1 := one md
  have h2 := one h.dep
  have h3 := one imm
  have h4 := one h.stamp
  have h5 := one co
  rw [length_extWords]
  rcases hn with ⟨hm, hi | hc | hd⟩ | ⟨hi, hc⟩ <;> simp only [*, Option.toList_none, List.length_nil] <;> omega

/-! ## The primary word (R66) -/

section
variable (idle : BitVec 10) (lane : BitVec 2) (op : BitVec 8) (xw : BitVec 2) (ops : BitVec 42)

@[simp] theorem idle_primary : fld (primary idle lane op xw ops) 54 10 = idle := by simp [primary, -Nat.reduceAdd]
@[simp] theorem lane_primary : fld (primary idle lane op xw ops) 52 2 = lane := by simp [primary, -Nat.reduceAdd]
@[simp] theorem op_primary : fld (primary idle lane op xw ops) 44 8 = op := by simp [primary, -Nat.reduceAdd]
@[simp] theorem slot_primary (base : BitVec 6) (t : BitVec 2) :
    fld (primary idle lane (vop base t) xw ops) 44 2 = t := by
  simp [primary, vop, -Nat.reduceAdd]
@[simp] theorem xw_primary : fld (primary idle lane op xw ops) 42 2 = xw := by simp [primary, -Nat.reduceAdd]
@[simp] theorem fld_primary {lo n : Nat} (h : lo + n ≤ 42) : fld (primary idle lane op xw ops) lo n = fld ops lo n :=
  fld_append_of_le _ ops h
@[simp] theorem bit_primary {i : Nat} (h : i < 42) : bit (primary idle lane op xw ops) i = bit ops i :=
  bit_append_of_lt _ ops h

end

theorem toNat_vop (base : BitVec 6) (t : BitVec 2) : (vop base t).toNat / 4 = base.toNat := by
  have h := t.isLt
  rw [vop, BitVec.toNat_append, ← Nat.shiftLeft_add_eq_or_of_lt h, Nat.shiftLeft_eq]
  omega

/-! ## Formats (R79-R92) -/

section
variable (d : BitVec 6) (a b g : BitVec 7) (fn : BitVec 15)

@[simp] theorem fld_opsSA_d : fld (opsSA d a b g fn) 36 6 = d := by simp [opsSA, -Nat.reduceAdd]
@[simp] theorem fld_opsSA_a : fld (opsSA d a b g fn) 29 7 = a := by simp [opsSA, -Nat.reduceAdd]
@[simp] theorem fld_opsSA_b : fld (opsSA d a b g fn) 22 7 = b := by simp [opsSA, -Nat.reduceAdd]
@[simp] theorem fld_opsSA_g : fld (opsSA d a b g fn) 15 7 = g := by simp [opsSA, -Nat.reduceAdd]
@[simp] theorem fld_opsSA_fn {lo n : Nat} (h : lo + n ≤ 15) : fld (opsSA d a b g fn) lo n = fld fn lo n :=
  fld_append_of_le _ fn h
@[simp] theorem bit_opsSA_fn {i : Nat} (h : i < 15) : bit (opsSA d a b g fn) i = bit fn i := bit_append_of_lt _ fn h

end

section
variable (pd : BitVec 6) (a b g : BitVec 7) (cc : BitVec 4)

@[simp] theorem fld_opsSP_pd : fld (opsSP pd a b g cc) 36 6 = pd := by simp [opsSP, -Nat.reduceAdd]
@[simp] theorem fld_opsSP_a : fld (opsSP pd a b g cc) 29 7 = a := by simp [opsSP, -Nat.reduceAdd]
@[simp] theorem fld_opsSP_b : fld (opsSP pd a b g cc) 22 7 = b := by simp [opsSP, -Nat.reduceAdd]
@[simp] theorem fld_opsSP_g : fld (opsSP pd a b g cc) 15 7 = g := by simp [opsSP, -Nat.reduceAdd]
@[simp] theorem fld_opsSP_cc : fld (opsSP pd a b g cc) 11 4 = cc := by simp [opsSP, -Nat.reduceAdd]
@[simp] theorem bit_opsSP_cc : bit (opsSP pd a b g cc) 11 = bit cc 0 := by simp [opsSP, -Nat.reduceAdd]

end

section
variable (dest : BitVec 8) (a b c : BitVec 10) (mask : BitVec 3) (z : Bool)

@[simp] theorem fld_opsVA_dest {n : Nat} : fld (opsVA dest a b c mask z) 34 n = fld dest 0 n := by
  simp [opsVA, -Nat.reduceAdd]
@[simp] theorem fld_opsVA_a {n : Nat} (h : n ≤ 10) : fld (opsVA dest a b c mask z) 24 n = fld a 0 n := by
  simp [opsVA, h, -Nat.reduceAdd]
@[simp] theorem fld_opsVA_b {n : Nat} (h : n ≤ 10) : fld (opsVA dest a b c mask z) 14 n = fld b 0 n := by
  simp [opsVA, h, -Nat.reduceAdd]
@[simp] theorem fld_opsVA_c {lo n : Nat} (h4 : 4 ≤ lo) (h : lo + n ≤ 14) :
    fld (opsVA dest a b c mask z) lo n = fld c (lo - 4) n := by
  rw [opsVA, fld_append_of_ge _ _ (by omega), fld_append_of_ge _ _ (by omega), fld_append_of_le _ _ (by omega), Nat.sub_sub]
@[simp] theorem bit_opsVA_c {i : Nat} (h4 : 4 ≤ i) (h : i < 14) : bit (opsVA dest a b c mask z) i = bit c (i - 4) := by
  rw [opsVA, bit_append_of_ge _ _ (by omega), bit_append_of_ge _ _ (by omega), bit_append_of_lt _ _ (by omega), Nat.sub_sub]
@[simp] theorem fld_opsVA_mask : fld (opsVA dest a b c mask z) 1 3 = mask := by simp [opsVA, -Nat.reduceAdd]
@[simp] theorem bit_opsVA_z : bit (opsVA dest a b c mask z) 0 = z := by simp [opsVA, -Nat.reduceAdd]

end

section
variable (f : VM) (adv : Bool) (fn : BitVec 14)

@[simp] theorem bit_opsVM_adv : bit (opsVM f adv fn) 14 = adv := by simp [opsVM, -Nat.reduceAdd]
@[simp] theorem fld_opsVM_fn {lo n : Nat} (h : lo + n ≤ 14) : fld (opsVM f adv fn) lo n = fld fn lo n :=
  fld_append_of_le _ fn h
@[simp] theorem bit_opsVM_fn {i : Nat} (h : i < 14) : bit (opsVM f adv fn) i = bit fn i := bit_append_of_lt _ fn h

end

section
variable (dst src : BitVec 4) (cnt : Option (BitVec 4 × BitVec 8)) (kind : BitVec 4) (advd advs na : Bool) (val : BitVec 14)

/-- The CA operands (R92) with the counter's fields named. -/
theorem opsCA_eq : opsCA dst src cnt kind advd advs na val =
    dst ++ src ++ (cnt.elim 0#4 Prod.fst) ++ (cnt.elim 0#8 Prod.snd) ++ kind ++ b1 cnt.isSome ++ b1 advd ++ b1 advs ++ b1 na
      ++ val := by
  cases cnt <;> rfl

@[simp] theorem fld_opsCA_dst : fld (opsCA dst src cnt kind advd advs na val) 38 4 = dst := by
  simp [opsCA_eq, -Nat.reduceAdd]
@[simp] theorem fld_opsCA_src : fld (opsCA dst src cnt kind advd advs na val) 34 4 = src := by
  simp [opsCA_eq, -Nat.reduceAdd]
@[simp] theorem fld_opsCA_slot : fld (opsCA dst src cnt kind advd advs na val) 30 4 = cnt.elim 0#4 Prod.fst := by
  simp [opsCA_eq, -Nat.reduceAdd]
@[simp] theorem fld_opsCA_idx : fld (opsCA dst src cnt kind advd advs na val) 22 8 = cnt.elim 0#8 Prod.snd := by
  simp [opsCA_eq, -Nat.reduceAdd]
@[simp] theorem fld_opsCA_kind {n : Nat} (h : n ≤ 4) : fld (opsCA dst src cnt kind advd advs na val) 18 n = fld kind 0 n := by
  simp [opsCA_eq, h, -Nat.reduceAdd]
@[simp] theorem bit_opsCA_kind : bit (opsCA dst src cnt kind advd advs na val) 18 = bit kind 0 := by
  simp [opsCA_eq, -Nat.reduceAdd]
@[simp] theorem bit_opsCA_ce : bit (opsCA dst src cnt kind advd advs na val) 17 = cnt.isSome := by
  simp [opsCA_eq, -Nat.reduceAdd]
@[simp] theorem bit_opsCA_advd : bit (opsCA dst src cnt kind advd advs na val) 16 = advd := by
  simp [opsCA_eq, -Nat.reduceAdd]
@[simp] theorem bit_opsCA_advs : bit (opsCA dst src cnt kind advd advs na val) 15 = advs := by
  simp [opsCA_eq, -Nat.reduceAdd]
@[simp] theorem bit_opsCA_na : bit (opsCA dst src cnt kind advd advs na val) 14 = na := by
  simp [opsCA_eq, -Nat.reduceAdd]
@[simp] theorem fld_opsCA_val {lo n : Nat} (h : lo + n ≤ 14) :
    fld (opsCA dst src cnt kind advd advs na val) lo n = fld val lo n :=
  fld_append_of_le _ val h
@[simp] theorem bit_opsCA_val {i : Nat} (h : i < 14) : bit (opsCA dst src cnt kind advd advs na val) i = bit val i :=
  bit_append_of_lt _ val h

end

/-! ## The records read from a word -/

section
variable (h : Hdr) (lane : BitVec 2) (op : BitVec 8) (xw : BitVec 2)
variable (md : Option Mod) (imm : Option (BitVec 60)) (co : Option Coord)

@[simp] theorem decHdr_primary (ops : BitVec 42) : decHdr (primary h.idle lane op xw ops) (extKinds h md imm co) = h := by
  simp [decHdr, extKinds, Function.comp_def]

@[simp] theorem decSA_primary (f : SA) (fn : BitVec 15) :
    decSA (primary h.idle lane op xw (opsSA (encDst f.d) (encSOp f.a) (encSB f.b) (encPOp f.g) fn))
      (extKinds h md f.b.ext co) = f := by
  simp [decSA]

@[simp] theorem decSA1_primary (f : SA1) (b : BitVec 7) (fn : BitVec 15) :
    decSA1 (primary h.idle lane op xw (opsSA (encDst f.d) (encSOp f.a) b (encPOp f.g) fn)) = f := by
  simp [decSA1]

@[simp] theorem decSI_primary (f : SI) :
    decSI (primary h.idle lane op xw (opsSI (encDst f.d) (encSOp f.a) (encPOp f.g) (encImm f.imm)))
      (extKinds h md f.imm.ext co) = f := by
  simp [decSI, opsSI, -Nat.reduceAdd]

@[simp] theorem decSP_primary (f : SP) (cc : BitVec 4) :
    decSP (primary h.idle lane op xw (opsSP f.pd (encSOp f.a) (encSB f.b) (encPOp f.g) cc))
      (extKinds h md f.b.ext co) = f := by
  simp [decSP]

@[simp] theorem decPP_primary (f : PP) (cc : BitVec 4) :
    decPP (primary h.idle lane op xw (opsSP f.pd (encPOp f.a) (encPOp f.b) (encPOp f.g) cc)) = f := by
  simp [decPP]

@[simp] theorem decVA1_primary (f : VA1) (b c : BitVec 10) :
    decVA1 (primary h.idle lane op xw (opsVA f.dest (encVOp f.a) b c f.mask f.z)) = f := by
  simp [decVA1]

@[simp] theorem decVA2_primary (f : VA2) (c : BitVec 10) :
    decVA2 (primary h.idle lane op xw (opsVA f.dest (encVOp f.a) (encVOp f.b) c f.mask f.z)) = f := by
  simp [decVA2]

@[simp] theorem decVA3_primary (f : VA3) :
    decVA3 (primary h.idle lane op xw (opsVA f.dest (encVOp f.a) (encVOp f.b) (encVOp f.c) f.mask f.z)) = f := by
  simp [decVA3]

@[simp] theorem decVCm_primary (f : VCm) (c : BitVec 10) :
    decVCm (primary h.idle lane op xw (opsVA (0#5 ++ f.dm) (encVOp f.a) (encVOp f.b) c f.mask f.z)) = f := by
  simp [decVCm, -Nat.reduceAdd]

@[simp] theorem decVM_primary (f : VM) (adv : Bool) (fn : BitVec 14) :
    decVM (primary h.idle lane op xw (opsVM f adv fn)) (extKinds h md imm f.coord) = f := by
  simp [decVM, opsVM, -Nat.reduceAdd]

@[simp] theorem decCnt_primary (dst src : BitVec 4) (cnt : Option (BitVec 4 × BitVec 8)) (kind : BitVec 4) (advd advs na : Bool)
    (val : BitVec 14) : decCnt (primary h.idle lane op xw (opsCA dst src cnt kind advd advs na val)) = cnt := by
  cases cnt <;> simp [decCnt]

@[simp] theorem decCA_primary (f : CA) (kind : BitVec 4) (na : Bool) (val : BitVec 14) :
    decCA (primary h.idle lane op xw (opsCA f.dst f.src f.cnt kind f.advd f.advs na val)) = f := by
  simp [decCA]

end

/-! ## One word -/

/-- What well-formed words decode to, once they build the instruction they encode (R67, R97). -/
theorem decode_of_build {i : Instr} {w : Word} {ext : List Word} (rest : List Word) (hw : i.wf = true)
    (hi : encode i = w :: ext) (hx : (fld w 42 2).toNat = ext.length)
    (hb : (if isSegend w then buildSegend w ext else build w (Ext.gather ext)) = some i) :
    decode (encode i ++ rest) = .ok (i, (encode i).length) := by
  simp only [hi, decode, List.cons_append, hx, List.take_left', lt_irrefl, if_false, hb, hw, beq_self_eq_true, Bool.and_self,
    if_true, List.length_cons]

/-- The same of a word that is no SEGEND, from its fields. -/
theorem decode_word {i : Instr} {h : Hdr} {lane : BitVec 2} {op : BitVec 8} {ops : BitVec 42} {md : Option Mod}
    {imm : Option (BitVec 60)} {co : Option Coord} (rest : List Word) (hw : i.wf = true)
    (hi : encode i = word h lane op ops md imm co) (hn : (extWords h md imm co).length ≤ 3) (hs : ¬ (lane = lS ∧ op = 0xD1#8))
    (hb : ∀ xw, build (primary h.idle lane op xw ops) (extKinds h md imm co) = some i) :
    decode (encode i ++ rest) = .ok (i, (encode i).length) := by
  refine decode_of_build rest hw (hi.trans (word_eq h lane op ops md imm co)) ?_ ?_
  · rw [xw_primary]
    exact Nat.mod_eq_of_lt (Nat.lt_succ_of_le hn)
  · have hs' : isSegend (primary h.idle lane op (BitVec.ofNat 2 (extWords h md imm co).length) ops) = false := by
      simpa [isSegend] using hs
    rw [hs', gather_extWords, hb]
    rfl

/-! ## The words of a lane -/

/-- An opcode builds its instruction from fields that are those of `i`. -/
theorem built {b : Option Instr} {i j : Instr} (hb : b = some j) (hj : j = i) : b = some i := hj ▸ hb

section
variable {i : Instr} {h : Hdr} {op : BitVec 8} {ops : BitVec 42} {imm : Option (BitVec 60)} {co : Option Coord}
variable (rest : List Word) (hw : i.wf = true)
include hw

/-- An S word: it carries no MOD (R69). -/
theorem decode_wordS (hi : encode i = word h lS op ops none imm co) (hn : imm = none ∨ co = none ∨ h.dep = none)
    (hb : ∀ xw, buildS op.toNat (primary h.idle lS op xw ops) (extKinds h none imm co) = some i)
    (ho : op ≠ 0xD1#8 := by decide) : decode (encode i ++ rest) = .ok (i, (encode i).length) :=
  decode_word rest hw hi (length_extWords_le (.inl ⟨rfl, hn⟩)) (ho ·.2)
    fun xw => by simp [build, hb]

/-- An S word of a format without COORD. -/
theorem decode_wordS_noCoord (hi : encode i = word h lS op ops none imm none)
    (hb : ∀ xw, buildS op.toNat (primary h.idle lS op xw ops) (extKinds h none imm none) = some i)
    (ho : op ≠ 0xD1#8 := by decide) : decode (encode i ++ rest) = .ok (i, (encode i).length) :=
  decode_wordS rest hw hi (.inr (.inl rfl)) hb ho

/-- A V word: it carries no IMM (R69). -/
theorem decode_wordV {base : BitVec 6} {t : BitVec 2} {md : Option Mod}
    (hi : encode i = word h lV (vop base t) ops md none co) (hn : md = none ∨ co = none)
    (hb : ∀ xw, buildV base.toNat t (primary h.idle lV (vop base t) xw ops) (extKinds h md none co) = some i) :
    decode (encode i ++ rest) = .ok (i, (encode i).length) :=
  decode_word rest hw hi (length_extWords_le (hn.imp (⟨·, .inl rfl⟩) (⟨rfl, ·⟩))) (fun h => absurd h.1 (by decide))
    fun xw => by simpa [build, toNat_vop, lV, lS] using hb xw

/-- A V word of a format without COORD. -/
theorem decode_wordV_noCoord {base : BitVec 6} {t : BitVec 2} {md : Option Mod}
    (hi : encode i = word h lV (vop base t) ops md none none)
    (hb : ∀ xw, buildV base.toNat t (primary h.idle lV (vop base t) xw ops) (extKinds h md none none) = some i) :
    decode (encode i ++ rest) = .ok (i, (encode i).length) :=
  decode_wordV rest hw hi (.inr rfl) hb

/-- An M word: of the extension words only DEP and STAMP (R69). -/
theorem decode_wordM (hi : encode i = word h lM op ops none none none)
    (hb : ∀ xw, buildM op.toNat (primary h.idle lM op xw ops) (extKinds h none none none) = some i) :
    decode (encode i ++ rest) = .ok (i, (encode i).length) :=
  decode_word rest hw hi (length_extWords_le (.inr ⟨rfl, rfl⟩)) (fun h => absurd h.1 (by decide))
    fun xw => by simpa [build, lM, lV, lS] using hb xw

/-- A C word: IMM is that of XRECV (R69, R75). -/
theorem decode_wordC (hi : encode i = word h lC op ops none imm none)
    (hb : ∀ xw, buildC op.toNat (primary h.idle lC op xw ops) (extKinds h none imm none) = some i) :
    decode (encode i ++ rest) = .ok (i, (encode i).length) :=
  decode_word rest hw hi (length_extWords_le (.inl ⟨rfl, .inr (.inl rfl)⟩)) (fun h => absurd h.1 (by decide))
    fun xw => by simpa [build, lC, lM, lV, lS] using hb xw

end

/-- SEGEND and its two literal words (R100). -/
theorem decode_segend (rest : List Word) {h : Hdr} {sg : BitVec 64} {len : BitVec 32} (hw : (Instr.segend h sg len).wf = true) :
    decode (encode (.segend h sg len) ++ rest) = .ok (.segend h sg len, (encode (.segend h sg len)).length) := by
  obtain ⟨idle, stamp, dep⟩ := h
  have hn : (dep.isNone && stamp.isNone) = true := hw
  obtain ⟨rfl, rfl⟩ : dep = none ∧ stamp = none := by simpa using hn
  refine decode_of_build rest hw rfl ?_ ?_
  · rw [xw_primary]
    rfl
  · simp [isSegend, buildSegend, -Nat.reduceAdd]

theorem Hdr.dep_of_wfS {h : Hdr} (hw : h.wfS = true) : h.dep = none := by
  simp only [Hdr.wfS, Bool.and_eq_true, Option.isNone_iff_eq_none] at hw
  exact hw.1

/-- Format by format, an opcode reads back the fields that its encoder wrote. Where an encoder's choice among forms is not
in a record of its own (the type of a scalar float word, LSET's long count, the optional operands of VCVT, VWIN and VMODE),
the cases of that choice stand apart. -/
theorem decode_encode (rest : List Word) {i : Instr} (hw : i.wf = true) (hi : i.isWord = true) :
    decode (encode i ++ rest) = .ok (i, (encode i).length) := by
  cases i with
  -- SA, SI and SP words
  | add h f | sub h f | mul h f | mulhs h f | mulhu h f | divs h f | divu h f | rems h f | remu h f | and h f | or h f
  | xor h f | andn h f | orn h f | shl h f | shr h f | sar h f | rol h f | ror h f | mins h f | maxs h f | minu h f | maxu h f
  | clz h f | ctz h f | popc h f | brev h f | mov h f | sext h f w | zext h f w | bfx h f l w1 | bfi h f l w1 | sel h f p
  | addImm h f | subImm h f | mulImm h f | andImm h f | orImm h f | xorImm h f | andnImm h f | ornImm h f
  | shlImm h f | shrImm h f | sarImm h f | rolImm h f | rorImm h f | minsImm h f | maxsImm h f | minuImm h f | maxuImm h f
  | cmp h f cc | tst h f ne | pand h f | por h f | pxor h f | pandn h f | pget h d a g | pset h pd a g =>
    exact decode_wordS_noCoord rest hw rfl fun _ => built rfl (by simp [-Nat.reduceAdd])
  | movi h d imm g => exact decode_wordS_noCoord rest hw rfl fun _ => built rfl (by simp [opsSI, -Nat.reduceAdd])
  -- scalar float words, .F32 or .F64 by the opcode
  | fadd h t f rm | fsub h t f rm | fmul h t f rm | ffma h t f c rm | fdiv h t f rm | fsqrt h t f rm | fmin h t f | fmax h t f
  | fcmp h t pd a b g cc | fcvt h t f rm x out =>
    cases t <;> exact decode_wordS_noCoord rest hw rfl fun _ => built rfl (by simp [fop, -Nat.reduceAdd])
  -- SB words, then LSET
  | br h g off | callt h g off | rett h g | loopb h g off =>
    exact decode_wordS_noCoord rest hw rfl fun _ => built rfl (by simp [opsSB, -Nat.reduceAdd])
  | lset h a dc lg g =>
    cases lg <;> exact decode_wordS_noCoord rest hw rfl fun _ => built rfl (by simp [opsSI, -Nat.reduceAdd])
  -- SD words
  | dset h d fl a g | dget h d e w g | boxdim h d e dim g | dadv h d a dim g =>
    exact decode_wordS_noCoord rest hw rfl fun _ => built rfl (by simp [opsSD, -Nat.reduceAdd])
  | boxsub h d e a b co g =>
    exact decode_wordS rest hw rfl (.inl rfl) fun _ => built rfl (by simp [opsSD, -Nat.reduceAdd])
  -- SM words
  | lds h d sl x y co g | crd h d sl x co g =>
    exact decode_wordS rest hw rfl (.inl rfl) fun _ => built rfl (by simp [opsSM, -Nat.reduceAdd])
  | sts h sl x y c co g | cadd h sl x c co g =>
    exact decode_wordS rest hw rfl (.inr (.inr (Hdr.dep_of_wfS hw))) fun _ => built rfl (by simp [opsSM, -Nat.reduceAdd])
  -- SX words
  | nop h g | fmtq h a g | sync h | waitge h sl ix a | pcommit h | pcancel h | realign h f | lblget h f | lblraise h mk g
  | sysrd h d n g | syswr h n a g | trap h code g | bkpt h g | fence h sc g =>
    exact decode_wordS_noCoord rest hw rfl fun _ => built rfl (by simp [-Nat.reduceAdd])
  | segend h sg len => exact decode_segend rest hw
  -- ST words
  | arg h x d mode mg g | spawn h i g | gspawn h i n1 g | tend h g | tfail h a g =>
    exact decode_wordS_noCoord rest hw rfl fun _ => built rfl (by simp [opsST, -Nat.reduceAdd])
  | cont h off g => exact decode_wordS_noCoord rest hw rfl fun _ => built rfl (by simp [-Nat.reduceAdd])
  -- VA words
  | vadd h t f md | vsub h t f md | vmul h t f md | vfma h t f md | vmin h t f md | vmax h t f md | vcmp h t f cc md
  | vrcp h t f md | vrsq h t f md | vsqrt h t f md | vdiv h t f md | vexp2 h t f md | vlog2 h t f md | vtanh h t f md
  | vsigm h t f md | vredsum h t dest a mk md | vredmax h t dest a mk md | vredmin h t dest a mk md
  | vredamax h t dest a mk md | vscan h t f md
  | viadd h t f md | visub h t f md | vimul h t f md | vimulh h t f u md | vimad h t f md | vimin h t f u md
  | vimax h t f u md | vand h t f | vor h t f | vxor h t f | vandn h t f | vnot h t f | vshl h t f | vshr h t f | vsar h t f
  | vicmp h t f cc md | vpopc h t f | vclz h t f
  | vsel h w dest a b mk | vmov h w f | vbcast h w f b | viota h w dest a b mk z | vperm h w f | vrotl h w f b
  | vmand h d a b | vmor h d a b | vmxor h d a b | vmnot h d a | vmpop h dest a =>
    exact decode_wordV_noCoord rest hw rfl fun _ => built rfl (by simp [-Nat.reduceAdd])
  | vzip h w dest a n1 mk z | vunzip h w dest a n1 mk z =>
    exact decode_wordV_noCoord rest hw rfl fun _ => built rfl (by simp [encVOp, -Nat.reduceAdd])
  | vcvt h dt st f sc nosat md =>
    cases sc <;> exact decode_wordV_noCoord rest hw rfl fun _ => built rfl (by simp [-Nat.reduceAdd])
  -- VM words
  | vld h w f adv z | vst h w f adv | vgth h w f ix | vsct h w f ix =>
    exact decode_wordV rest hw rfl (.inl rfl) fun _ => built rfl (by simp [-Nat.reduceAdd])
  -- VX words
  | vwin h p s =>
    cases p <;> cases s <;> exact decode_wordV_noCoord rest hw rfl fun _ => built rfl (by simp [-Nat.reduceAdd])
  | vmode h rm sd =>
    cases rm <;> cases sd <;>
      exact decode_wordV_noCoord rest hw rfl fun _ =>
        built rfl (by simp [fld_append_of_ge (k := 24), bit_append_of_ge (k := 24), -Nat.reduceAdd])
  -- MT words
  | mloadb h sl b x | mma h t sl a x r o c z | mzero h t | mcopy h d t | mchkv h t ka kr rr cr | mtype h t i | accrel h n
  | accwake h t | accgate h t r =>
    exact decode_wordM rest hw rfl fun _ => built rfl (by simp [-Nat.reduceAdd])
  -- CA words
  | cin h f | cout h f | coutNa h f | cfill h src cnt advs | cslice h f n1 | rrot h dst src advd advs prev | csig h sl ix amt
  | ratom h op wd tgt src cnt | cfence h sc | txload h src id | txrun h f id | xsend h src die ch advs
  | xrecv h dst die ch at_ advd =>
    exact decode_wordC rest hw rfl fun _ => built rfl (by simp [-Nat.reduceAdd])
  -- a step that is no word has no encoding
  | _ => exact absurd hi Bool.false_ne_true

/-- Settles O56: the fields each opcode reads are the ones its encoder wrote. -/
theorem decodeEncode : Obligations.DecodeEncode := fun _ rest hw hi => decode_encode rest hw hi

/-- What decodes has passed the decoder's check: well formed, and its encoding the words read. -/
theorem decode_eq_ok {ws : List Word} {i : Instr} {n : Nat} (h : decode ws = .ok (i, n)) :
    ∃ w rest, ws = w :: rest ∧ n = (fld w 42 2).toNat + 1 ∧ (fld w 42 2).toNat ≤ rest.length ∧ i.wf = true
      ∧ encode i = w :: rest.take (fld w 42 2).toNat := by
  cases ws with
  | nil => cases h
  | cons w rest =>
    simp only [decode] at h
    split at h
    · cases h
    · next hlen =>
      split at h
      · cases h
      · split at h
        · next hok =>
          cases h
          simp only [Bool.and_eq_true, beq_iff_eq] at hok
          rw [List.length_take] at hlen
          exact ⟨w, rest, rfl, rfl, by omega, hok⟩
        · cases h

/-- Settles O57: the decoder's own check, and XW below 4. -/
theorem encodeDecode : Obligations.EncodeDecode := by
  intro ws i n h
  obtain ⟨w, rest, rfl, rfl, hlen, hw, he⟩ := decode_eq_ok h
  have hxw : (fld w 42 2).toNat < 4 := (fld w 42 2).isLt
  refine ⟨hw, ?_, he, by omega, by omega, Nat.succ_le_succ hlen⟩
  rw [Instr.isWord, he]
  rfl

/-- A word that is the encoding of a well-formed instruction decodes to it. -/
theorem decode_of_encode_eq {i : Instr} {w : Word} {ext : List Word} (hw : i.wf = true) (he : encode i = w :: ext) :
    decode (w :: ext) = .ok (i, (w :: ext).length) := by
  have h := decode_encode [] hw (by rw [Instr.isWord, he]; rfl)
  rwa [List.append_nil, he] at h

/-- Settles O55: each instruction is well formed and its encoding is the word printed. -/
theorem decodeSamples : Obligations.DecodeSamples := by
  unfold Obligations.DecodeSamples
  and_intros <;> exact decode_of_encode_eq rfl rfl

end Sys2Proof
end

section
/-! The functions of the S lane (spec 01, R36; 05, R115, R118): those of the statements are the model's. -/

namespace Sys2Proof.Machine

open Claims

/-! ## Arithmetic -/

theorem fnAdd_eq : fnAdd = fun a b => a + b := by
  funext a b
  exact BitVec.eq_of_toNat_eq (by simp [fnAdd])

theorem fnSub_eq : fnSub = fun a b => a - b := by
  funext a b
  refine BitVec.eq_of_toNat_eq ?_
  have ha := a.isLt
  have hb := b.isLt
  simp only [fnSub, BitVec.toNat_ofInt, BitVec.toNat_sub]
  omega

theorem fnMul_eq : fnMul = fun a b => a * b := by
  funext a b
  exact BitVec.eq_of_toNat_eq (by simp [fnMul])

theorem divS_eq : divS = opDivs := by
  funext a b
  unfold divS opDivs
  split
  · rfl
  · exact BitVec.eq_of_toInt_eq (by rw [BitVec.toInt_sdiv, BitVec.toInt_ofInt])

theorem divU_eq : divU = opDivu := by
  funext a b
  unfold divU opDivu
  split
  · rfl
  · refine BitVec.eq_of_toNat_eq ?_
    have hle : a.toNat / b.toNat ≤ a.toNat := Nat.div_le_self ..
    have ha := a.isLt
    simp [BitVec.toNat_udiv, Nat.mod_eq_of_lt (Nat.lt_of_le_of_lt hle ha)]

/-- The remainder is what the quotient rounded toward zero leaves; by zero it is the dividend. -/
theorem opRems_eq : opRems = fun a b => a - b * divS a b := by
  funext a b
  unfold opRems divS
  split
  · next h => simp [h]
  · calc a.srem b = BitVec.ofInt 64 (a.toInt.tmod b.toInt) := by rw [← BitVec.toInt_srem, BitVec.ofInt_toInt]
      _ = a - b * BitVec.ofInt 64 (a.toInt.tdiv b.toInt) := by
        rw [Int.tmod_def, Int.sub_eq_add_neg, BitVec.ofInt_add, BitVec.ofInt_neg, BitVec.ofInt_mul, BitVec.ofInt_toInt,
          BitVec.ofInt_toInt, BitVec.sub_eq_add_neg]

theorem opRemu_eq : opRemu = fun a b => BitVec.ofNat 64 (a.toNat % b.toNat) := by
  funext a b
  unfold opRemu
  split
  · next h => simp [h]
  · refine BitVec.eq_of_toNat_eq ?_
    have hle : a.toNat % b.toNat ≤ a.toNat := Nat.mod_le ..
    have ha := a.isLt
    simp [BitVec.toNat_umod, Nat.mod_eq_of_lt (Nat.lt_of_le_of_lt hle ha)]

theorem fnMins_eq : fnMins = opMins := by
  funext a b
  unfold fnMins opMins
  split
  · rw [min_eq_right (by omega), BitVec.ofInt_toInt]
  · rw [min_eq_left (by omega), BitVec.ofInt_toInt]

theorem fnMaxs_eq : fnMaxs = opMaxs := by
  funext a b
  unfold fnMaxs opMaxs
  split
  · rw [max_eq_right (by omega), BitVec.ofInt_toInt]
  · rw [max_eq_left (by omega), BitVec.ofInt_toInt]

theorem fnMinu_eq : fnMinu = opMinu := by
  funext a b
  unfold fnMinu opMinu
  split
  · rw [min_eq_right (by omega), BitVec.ofNat_toNat, BitVec.setWidth_eq]
  · rw [min_eq_left (by omega), BitVec.ofNat_toNat, BitVec.setWidth_eq]

theorem fnMaxu_eq : fnMaxu = opMaxu := by
  funext a b
  unfold fnMaxu opMaxu
  split
  · rw [max_eq_right (by omega), BitVec.ofNat_toNat, BitVec.setWidth_eq]
  · rw [max_eq_left (by omega), BitVec.ofNat_toNat, BitVec.setWidth_eq]

/-! ## Shifts, rotations, extensions and fields -/

theorem fnShl_eq : fnShl = fun (a b : BitVec 64) => a <<< shAmt b := by
  funext a b
  exact BitVec.eq_of_toNat_eq (by simp [fnShl, shAmt, Nat.shiftLeft_eq])

theorem fnShr_eq : fnShr = fun (a b : BitVec 64) => a >>> shAmt b := by
  funext a b
  refine BitVec.eq_of_toNat_eq ?_
  have hle : a.toNat / 2 ^ shAmt b ≤ a.toNat := Nat.div_le_self ..
  have ha := a.isLt
  rw [BitVec.toNat_ushiftRight, Nat.shiftRight_eq_div_pow]
  exact Nat.mod_eq_of_lt (Nat.lt_of_le_of_lt hle ha)

theorem fnSar_eq : fnSar = fun a b => a.sshiftRight (shAmt b) := by
  funext a b
  simp [fnSar, shAmt, BitVec.sshiftRight_eq, Int.shiftRight_eq_div_pow]

theorem fnRol_eq : fnRol = fun a b => a.rotateLeft (shAmt b) := by
  funext a b
  simp [fnRol, rotl, shAmt, BitVec.rotateLeft_def]

/-- A rotation to the right is the rest of the way round to the left. -/
theorem fnRor_eq : fnRor = fun a b => a.rotateRight (shAmt b) := by
  funext a b
  have hb : 64 - (64 - b.toNat % 64) = b.toNat % 64 := by omega
  simp only [fnRor, rotl, shAmt, BitVec.rotateRight_def, hb, Nat.mod_mod]
  exact BitVec.or_comm ..

theorem opSext_eq (w : ExtW) : opSext w = fun a => (a.setWidth (widthOf w)).signExtend 64 := by
  cases w <;> rfl

theorem opZext_eq (w : ExtW) : opZext w = fun a => BitVec.ofNat 64 (a.toNat % 2 ^ widthOf w) := by
  funext a
  refine BitVec.eq_of_toNat_eq ?_
  cases w <;> simp [opZext, widthOf]

theorem opBfx_eq {lsb w1 : Nat} (h : w1 < 64) : opBfx lsb w1 = fun (a : BitVec 64) => (a >>> lsb) &&& ones 0 (w1 + 1) := by
  funext a
  refine BitVec.eq_of_toNat_eq ?_
  have hw : 2 ^ (w1 + 1) ≤ 2 ^ 64 := Nat.pow_le_pow_right (by decide) h
  have hpos : 0 < 2 ^ (w1 + 1) := Nat.two_pow_pos _
  have hm : (ones 0 (w1 + 1)).toNat = 2 ^ (w1 + 1) - 1 := by
    simp only [ones, BitVec.toNat_ofNat, Nat.zero_add, Nat.pow_zero]
    exact Nat.mod_eq_of_lt (by omega)
  have hlt : a.toNat / 2 ^ lsb % 2 ^ (w1 + 1) < 2 ^ (w1 + 1) := Nat.mod_lt _ hpos
  rw [BitVec.toNat_and, hm, Nat.and_two_pow_sub_one_eq_mod, BitVec.toNat_ushiftRight, Nat.shiftRight_eq_div_pow, opBfx,
    BitVec.toNat_ofNat]
  exact Nat.mod_eq_of_lt (by omega)

theorem opBfi_eq (lsb w1 : Nat) : opBfi lsb w1 = fun (a b : BitVec 64) =>
    (a &&& ~~~ones lsb (w1 + 1)) ||| (b <<< lsb &&& ones lsb (w1 + 1)) := by
  have hm : ones lsb (w1 + 1) = BitVec.ofNat 64 ((2 ^ (w1 + 1) - 1) * 2 ^ lsb) := by
    rw [ones, Nat.sub_mul, Nat.one_mul, Nat.pow_add, Nat.mul_comm]
  rw [hm]
  rfl

/-! ## Counts of bits -/

/-- What holds below `k` and not at `k` is taken `k` times. -/
theorem length_takeWhile_range {p : Nat → Bool} {n k : Nat} (hk : k ≤ n) (hp : ∀ i < k, p i = true)
    (hn : k < n → p k = false) : ((List.range n).takeWhile p).length = k := by
  obtain ⟨m, rfl⟩ := Nat.exists_eq_add_of_le hk
  rw [List.range_add, List.takeWhile_append_of_pos fun i hi => hp i (List.mem_range.mp hi)]
  cases m with
  | zero => simp
  | succ m => simp [List.range_succ_eq_map, hn (by omega)]

theorem opCtz_eq :
    opCtz = fun a => BitVec.ofNat 64 ((List.range 64).takeWhile fun i => !a.getLsbD i).length := by
  funext a
  refine congrArg (BitVec.ofNat 64) (Eq.symm ?_)
  cases h : (List.range 64).find? fun i => a.getLsbD i with
  | none => exact length_takeWhile_range (Nat.le_refl _) (List.find?_range_eq_none.mp h) (absurd · (Nat.lt_irrefl _))
  | some i =>
    obtain ⟨hi, hlt, hlow⟩ := List.find?_range_eq_some.mp h
    exact length_takeWhile_range (List.mem_range.mp hlt).le hlow fun _ => by simp [hi]

/-- The highest bit that is set stands at the logarithm. -/
theorem opClz_eq :
    opClz = fun a => BitVec.ofNat 64 ((List.range 64).takeWhile fun i => !a.getLsbD (63 - i)).length := by
  funext a
  unfold opClz
  split
  · next h => rw [length_takeWhile_range (k := 64) (Nat.le_refl _) (by simp [h]) (absurd · (Nat.lt_irrefl _))]
  · next h =>
    have h0 : a.toNat ≠ 0 := fun e => h (BitVec.eq_of_toNat_eq e)
    have hlog : a.toNat.log2 < 64 := (Nat.log2_lt h0).mpr a.isLt
    refine congrArg (BitVec.ofNat 64) (Eq.symm (length_takeWhile_range (by omega) (fun i hi => ?_) fun _ => ?_))
    · have hlt : a.toNat < 2 ^ (63 - i) := (Nat.log2_lt h0).mp (by omega)
      simp [BitVec.getLsbD, Nat.testBit_lt_two_pow hlt]
    · have hk : 63 - (63 - a.toNat.log2) = a.toNat.log2 := by omega
      simp [BitVec.getLsbD, hk, Nat.testBit_log2 h0]

theorem popN_eq (n w : Nat) : popN n w = ((List.range w).filter fun i => n.testBit i).length := by
  induction w with
  | zero => rfl
  | succ w ih =>
    rw [popN, List.range_succ, List.foldl_append, ← popN, ih, List.filter_append, List.length_append]
    cases h : n.testBit w <;> simp [b2n, h]

/-- The lowest `k` bits, each at its place from the top, are those bits reversed. -/
theorem reversed_sum (a : BitVec 64) {k : Nat} (hk : k ≤ 64) :
    (List.range k).foldl (fun n i => n + (if a.getLsbD i then 2 ^ (63 - i) else 0)) 0
      = 2 ^ (64 - k) * (a.setWidth k).reverse.toNat := by
  induction k with
  | zero => simp [BitVec.reverse, Nat.mod_one]
  | succ k ih =>
    have hs : 64 - k = (63 - k) + 1 := by omega
    have hm : (a.setWidth (k + 1)).msb = a.getLsbD k := by simp [BitVec.msb_setWidth]
    have hr : (a.setWidth (k + 1)).reverse = (a.setWidth k).reverse.concat (a.getLsbD k) := by
      rw [BitVec.reverse, hm, BitVec.truncate, BitVec.setWidth_setWidth_of_le _ (Nat.le_succ k)]
    rw [List.range_succ, List.foldl_append, ih (by omega), hr, BitVec.toNat_concat, hs, show 64 - (k + 1) = 63 - k by omega]
    cases h : a.getLsbD k <;> simp [h] <;> ring

theorem opBrev_eq : opBrev = fun a => a.reverse := by
  funext a
  rw [opBrev, reversed_sum a (Nat.le_refl _)]
  simp

/-! ## Conditions -/

theorem toInt_eq_signed (a : BitVec 64) : signed 64 a.toNat = a.toInt := by
  have h : 2 * a.toNat < 2 ^ 64 ↔ a.toNat < 2 ^ (64 - 1) := by omega
  simp only [signed, BitVec.toInt_eq_toNat_cond, h]
  rfl

theorem icond_eq (cc : ICond) (a b : BitVec 64) : icond cc 64 a.toNat b.toNat = holds cc a b := by
  cases cc <;> simp [icond, holds, toInt_eq_signed]

/-! ## Floating point -/

theorem ftVal_eq : ftVal = fval := by
  funext t v
  cases t
  · rfl
  · exact congrArg FP.f64.decode (Nat.mod_eq_of_lt v.isLt)

theorem ftRes_eq : ftRes = fres := by
  funext t rm y
  cases t <;> rfl

end Sys2Proof.Machine
end

section
/-! The S lane's reading rules (spec 02, R39 to R44; 05, R111, R112; 09, R241): the words of the statements are the
operations of the model, whatever the unit. -/

namespace Sys2Proof.Machine

open Claims

/-- A unit that carries out a word is not idle. -/
theorem working_not_idle {s : State} (h : working s) : s.me.mode ≠ .idle := by
  rcases h with ⟨-, h⟩ | ⟨-, h⟩ <;> simp [h]

theorem withLabel_eq (x : Unit) (l : Label) : withLabel x l = x.raiseLbl l := by
  unfold withLabel Unit.raiseLbl
  by_cases hl : l = 0#8
  · simp [hl, addEffs]
  · simp only [hl, if_false]; rfl

theorem scalarDone_eq (x : Unit) (d : Dst) (n : Nat) (v : Lv 64) : scalarDone x d n v = x.deliver d n v := by
  unfold scalarDone Unit.deliver
  cases x.iss.timed <;> cases d.nw <;> rfl

theorem predDone_eq (x : Unit) (pd : BitVec 6) (n : Nat) (v : Pred) : predDone x pd n v = x.deliverP pd n v := by
  unfold predDone Unit.deliverP
  simp only [Unit.setP_eq]
  rfl

theorem recorded_eq (x : Unit) (kind slot : Nat) (l : Label) (det : BoxDet) :
    recorded x kind slot l det = x.stickyNow kind lanS lanS slot 0 l det := rfl

theorem jump_eq (x : Unit) (t : Nat) (l : Label) : jump x t = x.control true t l := by
  unfold jump Unit.control Unit.branch
  cases x.heldFault <;> simp

theorem goOn_eq (x : Unit) (t : Nat) (l : Label) : goOn x l = x.control false t l := by
  unfold goOn Unit.control Unit.branch
  cases x.heldFault <;> cases hx : x.iss.timed <;> simp
  rfl

end Sys2Proof.Machine
end

section
/-! Scalar results, predicate results and guards (spec 05, R111 to R121): what each of these words is made of, then O1,
O2, O3 and O4. -/

namespace Sys2Proof.Machine

open Claims

/-! ## Results of scalar words -/

/-- A word is its guard and the delivery of a scalar result, whose value and label no raise of LBLPC changes (R111: L has
LBLPC as of the word's fetch). -/
def delivers (i : Instr) (r : SRes) : Prop :=
  (∀ s, exec i s = .next (guarded s r.g fun s => s.modMe fun x => x.deliver r.d r.n (r.v x)))
  ∧ ∀ (x : Unit) l, r.v (x.raiseLbl l) = r.v x

@[simp] theorem ab_raiseLbl (f : SA) (op : BitVec 64 → BitVec 64 → BitVec 64) (x : Unit) (l : Label) :
    ab f op (x.raiseLbl l) = ab f op x := by simp [ab]

@[simp] theorem a1_raiseLbl (f : SA1) (op : BitVec 64 → BitVec 64) (x : Unit) (l : Label) :
    a1 f op (x.raiseLbl l) = a1 f op x := by simp [a1]

@[simp] theorem ai_raiseLbl (f : SI) (op : BitVec 64 → BitVec 64 → BitVec 64) (x : Unit) (l : Label) :
    ai f op (x.raiseLbl l) = ai f op x := by simp [ai]

section
variable {i : Instr} {n : Nat}

/-- A word whose value the statements and the model write in two ways. -/
theorem delivers_of_value {r r' : SRes} {w : Unit → Lv 64} (hr : some r = some r') (hv : w = r.v)
    (hl : ∀ (x : Unit) l, r.v (x.raiseLbl l) = r.v x)
    (hi : ∀ s, exec i s = .next (guarded s r.g fun s => s.modMe fun x => x.deliver r.d r.n (w x))) : delivers i r' := by
  cases hr
  subst hv
  exact ⟨hi, hl⟩

theorem delivers_sa {r : SRes} {f : SA} {op op' : BitVec 64 → BitVec 64 → BitVec 64} (hr : sa n f op' = some r)
    (hop : op' = op) (hi : ∀ s, exec i s = .next (aluSA s f n op)) : delivers i r := by
  cases hr
  subst hop
  exact ⟨hi, ab_raiseLbl f _⟩

theorem delivers_sa1 {r : SRes} {f : SA1} {op op' : BitVec 64 → BitVec 64} (hr : some ⟨f.g, f.d, n, a1 f op'⟩ = some r)
    (hop : op' = op) (hi : ∀ s, exec i s = .next (aluSA1 s f n op)) : delivers i r := by
  cases hr
  subst hop
  exact ⟨hi, a1_raiseLbl f _⟩

theorem delivers_si {r : SRes} {f : SI} {op op' : BitVec 64 → BitVec 64 → BitVec 64} (hr : si n f op' = some r)
    (hop : op' = op) (hi : ∀ s, exec i s = .next (aluSI s f n op)) : delivers i r := by
  cases hr
  subst hop
  exact ⟨hi, ai_raiseLbl f _⟩

end

theorem Unit.readImm_lab (x : Unit) (m : Imm) : (x.readImm m).l = x.vol.codeL := by cases m <;> rfl

/-- The words of R115 to R117 deliver what their rows say. -/
theorem delivers_scalarInt {i : Instr} {r : SRes} (h : scalarInt i = some r) : delivers i r := by
  cases i with
  | add => exact delivers_sa h fnAdd_eq fun _ => rfl
  | sub => exact delivers_sa h fnSub_eq fun _ => rfl
  | mul => exact delivers_sa h fnMul_eq fun _ => rfl
  | mulhs | mulhu => exact delivers_sa h rfl fun _ => rfl
  | divs => exact delivers_sa h divS_eq fun _ => rfl
  | divu => exact delivers_sa h divU_eq fun _ => rfl
  | rems => exact delivers_sa h opRems_eq.symm fun _ => rfl
  | remu => exact delivers_sa h opRemu_eq.symm fun _ => rfl
  | and | or | xor | andn | orn => exact delivers_sa h rfl fun _ => rfl
  | shl => exact delivers_sa h fnShl_eq fun _ => rfl
  | shr => exact delivers_sa h fnShr_eq fun _ => rfl
  | sar => exact delivers_sa h fnSar_eq fun _ => rfl
  | rol => exact delivers_sa h fnRol_eq fun _ => rfl
  | ror => exact delivers_sa h fnRor_eq fun _ => rfl
  | clz => exact delivers_sa1 h opClz_eq.symm fun _ => rfl
  | ctz => exact delivers_sa1 h opCtz_eq.symm fun _ => rfl
  | popc => exact delivers_sa1 h (funext fun a => congrArg _ (popN_eq a.toNat 64).symm) fun _ => rfl
  | brev => exact delivers_sa1 h opBrev_eq.symm fun _ => rfl
  | mins => exact delivers_sa h fnMins_eq fun _ => rfl
  | maxs => exact delivers_sa h fnMaxs_eq fun _ => rfl
  | minu => exact delivers_sa h fnMinu_eq fun _ => rfl
  | maxu => exact delivers_sa h fnMaxu_eq fun _ => rfl
  | sext _ _ w => exact delivers_sa1 h (opSext_eq w).symm fun _ => rfl
  | zext _ _ w => exact delivers_sa1 h (opZext_eq w).symm fun _ => rfl
  | bfx _ f lsb w1 =>
    refine delivers_of_value h (funext fun x => ?_) (by simp [withImm]) fun _ => rfl
    rw [opBfx_eq w1.isLt]
    simp only [withImm, a1, Unit.baseL, Lv.mk.injEq, true_and]
    ac_rfl
  | bfi _ f lsb w1 =>
    refine delivers_of_value h (funext fun x => ?_) (by simp [withImm]) fun _ => rfl
    rw [opBfi_eq]
    simp only [withImm, ab, Unit.baseL, Lv.mk.injEq, true_and]
    ac_rfl
  | sel | pget | lblget | dget => exact delivers_of_value h rfl (by simp) fun _ => rfl
  | mov => exact delivers_sa1 h rfl fun _ => rfl
  | addImm => exact delivers_si h fnAdd_eq fun _ => rfl
  | subImm => exact delivers_si h fnSub_eq fun _ => rfl
  | mulImm => exact delivers_si h fnMul_eq fun _ => rfl
  | andImm | orImm | xorImm | andnImm | ornImm => exact delivers_si h rfl fun _ => rfl
  | shlImm => exact delivers_si h fnShl_eq fun _ => rfl
  | shrImm => exact delivers_si h fnShr_eq fun _ => rfl
  | sarImm => exact delivers_si h fnSar_eq fun _ => rfl
  | rolImm => exact delivers_si h fnRol_eq fun _ => rfl
  | rorImm => exact delivers_si h fnRor_eq fun _ => rfl
  | minsImm => exact delivers_si h fnMins_eq fun _ => rfl
  | maxsImm => exact delivers_si h fnMaxs_eq fun _ => rfl
  | minuImm => exact delivers_si h fnMinu_eq fun _ => rfl
  | maxuImm => exact delivers_si h fnMaxu_eq fun _ => rfl
  | movi _ _ m => exact delivers_of_value h (funext fun x => by simp only [Unit.readImm_lab]; rfl) (by simp) fun _ => rfl
  | _ => exact nomatch h

/-- The words of R120 and R121 deliver what their rows say. -/
theorem delivers_scalarFp {i : Instr} {r : SRes} (h : scalarFp i = some r) : delivers i r := by
  -- the statements' values and rounding are the model's
  simp only [scalarFp, ← ftVal_eq, ← ftRes_eq] at h
  cases i with
  | fadd | fsub | fmul | fdiv | fmin | fmax => exact delivers_sa h rfl fun _ => rfl
  | fsqrt | fcvt => exact delivers_sa1 h rfl fun _ => rfl
  | ffma => exact delivers_of_value h rfl (by simp) fun _ => rfl
  | _ => exact nomatch h

/-- Under a true guard such a word is its result, on the unit with the guard's label. -/
theorem exec_of_delivers {s : State} {i : Instr} {r : SRes} (hw : working s) (hi : delivers i r)
    (hg : (s.me.readP r.g).v = true) :
    exec i s = .next (s.modMe fun x => scalarDone (withLabel x (x.readP r.g).l) r.d r.n (r.v x)) := by
  obtain ⟨hexec, hl⟩ := hi
  rw [hexec s, guarded_modMe _ _ _ hg (working_not_idle hw)]
  simp only [scalarDone_eq, withLabel_eq, hl]

/-- Settles O1: every such word delivers its result, its function being the model's. -/
theorem scalarIntegerResult : Obligations.ScalarIntegerResult :=
  fun _ _ _ hw hi hg => exec_of_delivers hw (delivers_scalarInt hi) hg

/-- Settles O2: every such word delivers its result, its values and its rounding being the model's. -/
theorem scalarFloatResult : Obligations.ScalarFloatResult :=
  fun _ _ _ hw hi hg => exec_of_delivers hw (delivers_scalarFp hi) hg

/-! ## Predicate words -/

/-- A word is its guard and the delivery of a predicate result, whose value and label no raise of LBLPC changes. -/
def deliversP (i : Instr) (r : PRes) : Prop :=
  (∀ s, exec i s = .next (guarded s r.g fun s => s.modMe fun x => x.deliverP r.pd r.n (r.v x)))
  ∧ ∀ (x : Unit) l, r.v (x.raiseLbl l) = r.v x

section
variable {i : Instr} {r : PRes}

theorem deliversP_of_value {r' : PRes} {w : Unit → Pred} (hr : some r = some r') (hv : w = r.v)
    (hl : ∀ (x : Unit) l, r.v (x.raiseLbl l) = r.v x)
    (hi : ∀ s, exec i s = .next (guarded s r.g fun s => s.modMe fun x => x.deliverP r.pd r.n (w x))) : deliversP i r' := by
  cases hr
  subst hv
  exact ⟨hi, hl⟩

theorem deliversP_sp {f : SP} {op op' : BitVec 64 → BitVec 64 → Bool} (hr : pab f op' = some r) (hop : op' = op)
    (hi : ∀ s, exec i s = .next (cmpSP s f op)) : deliversP i r := by
  cases hr
  subst hop
  exact ⟨hi, by simp⟩

theorem deliversP_pp {f : PP} {op op' : Bool → Bool → Bool} (hr : ppp f op' = some r) (hop : op' = op)
    (hi : ∀ s, exec i s = .next (cmpPP s f op)) : deliversP i r := by
  cases hr
  subst hop
  exact ⟨hi, by simp⟩

end

/-- The words of R118 and FCMP deliver what their rows say. -/
theorem deliversP_scalarPred {i : Instr} {r : PRes} (h : scalarPred i = some r) : deliversP i r := by
  cases i with
  | cmp _ f cc => exact deliversP_sp h (funext₂ fun a b => (icond_eq cc a b).symm) fun _ => rfl
  | tst _ f ne =>
    rw [scalarPred] at h
    exact deliversP_sp h (funext₂ fun a b => by cases ne <;> simp) fun _ => rfl
  | pand | por => exact deliversP_pp h rfl fun _ => rfl
  | pandn =>
    rw [scalarPred] at h
    exact deliversP_pp h rfl fun _ => rfl
  | pxor => exact deliversP_pp h (funext₂ fun a b => by simp) fun _ => rfl
  | pset _ pd a =>
    have hz (v : BitVec 64) : v ≠ 0#64 ↔ v.toNat ≠ 0 := by simp [BitVec.toNat_eq]
    exact deliversP_of_value h (funext fun x => by simp only [hz]; rfl) (by simp) fun _ => rfl
  | fcmp =>
    simp only [scalarPred, ← ftVal_eq] at h
    exact deliversP_of_value h rfl (by simp) fun _ => rfl
  | _ => exact nomatch h

/-- Settles O3: every such word delivers its predicate. -/
theorem predicateResult : Obligations.PredicateResult := by
  intro s i r hw hi hg
  obtain ⟨hexec, hl⟩ := deliversP_scalarPred hi
  rw [hexec s, guarded_modMe _ _ _ hg (working_not_idle hw)]
  simp only [predDone_eq, withLabel_eq, hl]

/-! ## False guards -/

/-- Every word that has a guard stands under it. -/
theorem exec_guarded {i : Instr} {g : POp} (h : guardOf i = some g) (s : State) : ∃ k, exec i s = .next (guarded s g k) := by
  unfold guardOf at h
  split at h
  -- the words of the three tables of results; the others show their guard
  case h_24 =>
    split at h <;> cases h
    case h_1 e => exact ⟨_, (delivers_scalarInt e).1 s⟩
    case h_2 e _ => exact ⟨_, (delivers_scalarFp e).1 s⟩
    case h_3 e _ _ => exact ⟨_, (deliversP_scalarPred e).1 s⟩
  all_goals cases h; exact ⟨_, rfl⟩

/-- Settles O4: under a false guard only the guard's label is left. -/
theorem falseGuardNoEffect : Obligations.FalseGuardNoEffect := by
  intro s i g _ hi hg
  obtain ⟨k, hk⟩ := exec_guarded hi s
  rw [hk, guarded_false _ _ _ hg]
  simp only [withLabel_eq]
  exact congrArg _ (s.modMe_congr _ _ rfl)

end Sys2Proof.Machine
end

section
/-! Control words (spec 05, R122 to R126; 09, R241): whether one is taken, where it may lead, then O5, O6 and O7. -/

namespace Sys2Proof.Machine

open Claims

/-! ## Taken or not -/

theorem Unit.toSync_of_mayLead {x : Unit} {t : Nat} (h : mayLead x t) : x.toSync t = false := by
  unfold Unit.toSync
  cases ht : x.iss.timed with
  | false => rfl
  | true =>
    rw [Bool.true_and]
    split
    · next e => exact absurd e (h ht _)
    · rfl

theorem Unit.toSync_of_sync {x : Unit} {t : Nat} {h : Hdr} (ht : x.iss.timed = true) (hi : x.instrAt t = some (.sync h)) :
    x.toSync t = true := by
  simp [Unit.toSync, ht, hi]

@[simp] theorem Unit.raiseLbl_targetOf (x : Unit) (l : Label) (off : BitVec 24) :
    targetOf (x.raiseLbl l) off = targetOf x off := by simp [targetOf]

section
variable {s : State} {g : POp} {k : Unit → Option (Unit × Nat)} {bad : Unit → Bool}

/-- A control word goes on where its guard is false or it finds nothing to do. -/
theorem ctlWord_goes_on (hw : working s)
    (h : (s.me.readP g).v = false ∨ bad s.me = false ∧ k (s.me.raiseLbl (s.me.readP g).l) = none) :
    ctlWord s g k bad = s.modMe fun x => goOn (withLabel x (x.readP g).l) (x.readP g).l := by
  have hm := working_not_idle hw
  simp only [goOn_eq _ 0, withLabel_eq]
  cases hg : (s.me.readP g).v with
  | false => exact ctlWord_false s g k bad hm hg
  | true =>
    obtain ⟨hb, hk⟩ := h.resolve_left (by simp [hg])
    rw [ctlWord_true s g k bad hm hg hb]
    exact s.modMe_congr _ _ (by simp only [hk])

/-- A control word that is taken jumps. -/
theorem ctlWord_jumps {y : Unit} {t : Nat} {f : Unit → Unit} (hw : working s) (hg : (s.me.readP g).v = true)
    (hb : bad s.me = false) (hk : k (s.me.raiseLbl (s.me.readP g).l) = some (y, t)) (hf : f s.me = jump y t) :
    ctlWord s g k bad = s.modMe f := by
  rw [ctlWord_true s g k bad (working_not_idle hw) hg hb]
  exact s.modMe_congr _ f (by simp only [hk, hf, jump_eq y t (s.me.readP g).l])

/-- One that may not be taken is ILLEGAL_OPERAND. -/
theorem ctlWord_stops (hg : (s.me.readP g).v = true) (hb : bad s.me = true) :
    ctlWord s g k bad = (s.modMe fun x => withLabel x (x.readP g).l).fail lanS fIllegalOperand 0
      ((s.me.readP g).l ||| s.me.iss.lab) := by
  rw [ctlWord_bad s g k bad hg hb]
  simp only [withLabel_eq]
  exact congrArg (State.fail · ..) (s.modMe_congr _ _ rfl)

end

/-! ## The words -/

theorem looped_eq (x : Unit) (l : BitVec 32) (d : BitVec 16) (b : Bool) (gl : Label) :
    looped x l d b gl =
      let rb := x.regs.rbase - 1#4
      let pb := x.regs.pbase - 1#4
      let v : Pred := ⟨b, x.vol.lblpc ||| gl⟩
      if x.iss.timed then
        ((x.due (x.iss.cyc + 1) phWrite lnS (if b then .lcnt l else .dcnt d)).due (x.iss.cyc + 1) phWrite lnS (.base rb pb)).due
          (x.iss.cyc + 1) phWrite lnS (.pred (48 + pb.toNat) v)
      else ((x.setCnt l d).setBase rb pb).setP (48 + pb.toNat) v := by
  have h : 48 + (x.regs.pbase - 1#4).toNat ≠ 0 := by omega
  simp only [looped, Unit.setP_eq, h, if_false]
  rfl

/-! LOOPB's counts (R124): LCNT first, then DCNT. -/

theorem loopStep_lcnt {l : BitVec 32} (hl : l ≠ 0#32) (d : BitVec 16) : loopStep l d = some (l - 1#32, d, true) := by
  simp [loopStep, hl]

theorem loopStep_dcnt {l : BitVec 32} {d : BitVec 16} (hl : l = 0#32) (hd : d ≠ 0#16) :
    loopStep l d = some (l, d - 1#16, false) := by simp [loopStep, hl, hd]

theorem loopStep_none {l : BitVec 32} {d : BitVec 16} (hl : l = 0#32) (hd : d = 0#16) : loopStep l d = none := by
  simp [loopStep, hl, hd]

/-- LOOPB by its counts: what the next ones are, and where it leads. -/
theorem exec_loopb (s : State) (h : Hdr) (g : POp) (off : BitVec 24) : exec (.loopb h g off) s = .next (ctlWord s g
    (fun x => (loopStep x.regs.lcnt x.regs.dcnt).map fun c => (looped x c.1 c.2.1 c.2.2 (x.readP g).l, targetOf x off))
    (fun x => (loopStep x.regs.lcnt x.regs.dcnt).isSome && x.toSync (targetOf x off))) := by
  show execLoopb h g off s = _
  unfold execLoopb
  refine congrArg (fun k => Host.Outcome.next (ctlWord s g k _)) (funext fun x => ?_)
  simp only [looped_eq]
  cases loopStep x.regs.lcnt x.regs.dcnt <;> rfl

theorem exec_control {i : Instr} {g : POp} (h : ctlGuard i = some g) (s : State) :
    ∃ k bad, exec i s = .next (ctlWord s g k bad) := by
  unfold ctlGuard at h
  split at h <;> cases h <;> exact ⟨_, _, rfl⟩

/-- Settles O5: a false guard, or no count left, makes the word go on. -/
theorem branchNotTaken : Obligations.BranchNotTaken := by
  intro s i g hw hi h
  rcases h with hg | ⟨hd, off, rfl, hl, hdc⟩
  · obtain ⟨k, bad, hk⟩ := exec_control hi s
    rw [hk, ctlWord_goes_on hw (.inl hg)]
  · cases hi
    rw [exec_loopb, ctlWord_goes_on hw (.inr ⟨?_, ?_⟩)] <;> simp [loopStep_none hl hdc]

/-- Settles O6: each word by its rule above, its target being one it may lead to, or not. -/
theorem branchTaken : Obligations.BranchTaken := by
  refine ⟨fun s h g off hw hg => ?taken, fun s h h' g off hw hg => ?stopped⟩
  case taken =>
    refine ⟨fun ht => ?br, fun ht hr => ?callt, fun a r hr ht => ?rett⟩
    case br =>
      exact congrArg Host.Outcome.next (ctlWord_jumps hw hg (Unit.toSync_of_mayLead ht) rfl
        (by simp [withLabel_eq, targetOf, Unit.target]))
    case callt =>
      have hb : (decide (s.me.vol.rstack.length ≥ 8) || s.me.toSync (s.me.target off)) = false := by
        rw [Bool.or_eq_false_iff]
        exact ⟨decide_eq_false (Nat.not_le.mpr hr), Unit.toSync_of_mayLead ht⟩
      exact congrArg Host.Outcome.next (ctlWord_jumps hw hg hb rfl (by simp [withLabel_eq, targetOf, Unit.target]))
    case rett =>
      have hb : (s.me.vol.rstack.isEmpty || s.me.toSync (s.me.vol.rstack.headD 0)) = false := by
        rw [hr]
        exact Unit.toSync_of_mayLead ht
      exact congrArg Host.Outcome.next (ctlWord_jumps hw hg hb rfl (by simp [withLabel_eq, hr]))
  case stopped =>
    refine ⟨fun hr => ?full, fun hr => ?empty, fun ht hs => ⟨?br, ?callt⟩⟩
    case full => exact congrArg Host.Outcome.next (ctlWord_stops hg (by simp [hr]))
    case empty => exact congrArg Host.Outcome.next (ctlWord_stops hg (by simp [hr]))
    case br => exact congrArg Host.Outcome.next (ctlWord_stops hg (Unit.toSync_of_sync ht hs))
    case callt =>
      refine congrArg Host.Outcome.next (ctlWord_stops hg ?_)
      rw [Bool.or_eq_true]
      exact .inr (Unit.toSync_of_sync ht hs)

/-- Settles O7: LOOPB by the count it changes. -/
theorem loopTaken : Obligations.LoopTaken := by
  intro s h g off hw hg ht
  have hb : ((loopStep s.me.regs.lcnt s.me.regs.dcnt).isSome && s.me.toSync (targetOf s.me off)) = false := by
    rw [Unit.toSync_of_mayLead ht, Bool.and_false]
  refine ⟨fun hl => ?lcnt, fun hl hd => ?dcnt, fun hl hd => ?done⟩
  all_goals rw [exec_loopb]
  case lcnt =>
    exact congrArg _ (ctlWord_jumps hw hg hb (by rw [Unit.raiseLbl_regs, loopStep_lcnt hl]; rfl) (by simp [withLabel_eq]))
  case dcnt =>
    exact congrArg _ (ctlWord_jumps hw hg hb (by rw [Unit.raiseLbl_regs, loopStep_dcnt hl hd]; rfl) (by simp [withLabel_eq]))
  case done =>
    rw [ctlWord_goes_on hw (.inr ⟨hb, by rw [Unit.raiseLbl_regs, loopStep_none hl hd]; rfl⟩)]
    exact congrArg _ (s.modMe_congr _ _ rfl)

end Sys2Proof.Machine
end

section
/-! Descriptor words (spec 05, R128 to R132): their checks and what they write, then O8. -/

namespace Sys2Proof.Machine

open Claims

theorem descDone_eq (x : Unit) (e : Eff) (i : Nat) (d : Desc) : descDone x e i d = x.deliverD e fun y => y.setD i d := rfl

theorem org30_iff (z : Int) : org30 z = true ↔ fits30 z := by simp [org30, fits30]

theorem Quad.get_ofFn {α : Type} (f : Nat → α) {i : Nat} (h : i < 4) : (Quad.ofFn f).get i = f i := by
  match i, h with
  | 0, _ | 1, _ | 2, _ | 3, _ => rfl

theorem unsigned_eq (w : Nat) (z : Int) : unsigned w z = (BitVec.ofInt w z).toNat := by
  rw [BitVec.toNat_ofInt, unsigned]
  norm_cast

theorem Desc.setFld_org (d : Desc) (i : BitVec 2) (o : BitVec 30) (l : Label) :
    d.setFld (.org i) o.toNat l = { d with org := d.org.set i.toNat o, lab := d.lab ||| l } := by
  simp only [Desc.setFld, BitVec.ofNat_toNat, BitVec.setWidth_eq]

/-- The checks of DSET are the ranges of its fields. -/
theorem dsetOk_iff (s : State) (d : Desc) (f : DFld) (v : BitVec 64) : dsetOk s s.active d f v = true ↔ fits s d f v := by
  cases f with
  | slot | step | ext => simp [dsetOk, fits]
  | org => simp [dsetOk, fits, and_assoc]
  | valid =>
    cases h : (s.box s.active d.slot.toNat).present <;> simp [dsetOk, fits, h] <;> omega

theorem dsetOk_raised {s : State} (hm : s.me.mode ≠ .idle) (l : Label) (d : Desc) (f : DFld) (v : BitVec 64) :
    dsetOk (s.raised l) s.active d f v = dsetOk s s.active d f v := by
  simp only [dsetOk, State.raised_box hm]

/-- Only what is done to the unit itself counts. -/
theorem Unit.deliverD_congr {x : Unit} {e : Eff} {f g : Unit → Unit} (h : f x = g x) : x.deliverD e f = x.deliverD e g := by
  simp only [Unit.deliverD, h]

/-- A field write, whose label joins the handle's. -/
theorem Unit.deliverD_setFld (x : Unit) (l : Label) (e : Eff) (i : Nat) (f : DFld) (n : Nat) (m : Label) :
    (x.raiseLbl l).deliverD e (fun y => y.setD i ((y.regs.d.get i).setFld f n m)) =
      (x.raiseLbl l).deliverD e fun y => y.setD i ((x.regs.d.get i).setFld f n m) :=
  Unit.deliverD_congr (by simp only [Unit.raiseLbl_regs])

/-- Settles O8: each word passes its checks, and writes its handle or delivers an extent. -/
theorem descriptorWords : Obligations.DescriptorWords := by
  intro s h g d e a b f co dim r hw hg x gl base hd he rankOf off lsub org sub la adv box
  have hm := working_not_idle hw
  refine ⟨fun hfit => ?dset, fun hv hfit => ?boxsub, fun hv hdim hfit => ?dadv, fun hp => ?boxdim⟩
  case dset =>
    show execDset h d f a g s = _
    simp only [execDset, guarded_true _ _ _ hg, State.raised_me hm, State.raised_modMe hm, State.raised_box hm,
      State.modMe_active, dsetOk_raised hm, Unit.raiseLbl_regs, Unit.raiseLbl_readS, Unit.raiseLbl_baseL,
      Unit.deliverD_setFld, descDone_eq, withLabel_eq]
    rw [if_pos ((dsetOk_iff s hd f _).mpr hfit)]
    cases f with
    | slot => rfl
    | valid | step | org | ext => exact congrArg _ (s.modMe_congr _ _ rfl)
  case boxsub =>
    have hok : (he.valid && (List.range 4).all fun i =>
        (decide (i < rankOf he) || decide (off.get i = 0)) && org30 ((Quad.ofFn org).get i)) = true := by
      rw [hv, Bool.true_and, List.all_eq_true]
      intro i hi
      obtain ⟨hr, hf⟩ := hfit i (List.mem_range.mp hi)
      rw [Quad.get_ofFn org (List.mem_range.mp hi), (org30_iff _).mpr hf]
      simpa using hr
    show execBoxsub h d e a b co g s = _
    cases co <;>
    · simp only [execBoxsub, guarded_true _ _ _ hg, State.raised_me hm, State.raised_modMe hm, State.raised_box hm,
        State.modMe_active, Unit.raiseLbl_regs, Unit.raiseLbl_readS, Unit.raiseLbl_baseL, Unit.raiseLbl_codeL, descDone_eq,
        withLabel_eq]
      exact congrArg _ (if_pos hok)
  case dadv =>
    have hok : (hd.valid && decide (dim.toNat < rankOf hd) && org30 adv) = true := by
      simp [hv, hdim, (org30_iff _).mpr hfit]
    show execDadv h d a dim g s = _
    simp only [execDadv, guarded_true _ _ _ hg, State.raised_me hm, State.raised_modMe hm, State.raised_box hm,
      State.modMe_active, Unit.raiseLbl_regs, Unit.raiseLbl_readS, Unit.raiseLbl_baseL, Unit.deliverD_setFld, unsigned_eq,
      descDone_eq, withLabel_eq]
    simp only [Desc.setFld_org]
    exact congrArg _ (if_pos hok)
  case boxdim =>
    show execBoxdim h r e dim g s = _
    simp only [execBoxdim, guarded_true _ _ _ hg, State.raised_me hm, State.raised_modMe hm, State.raised_box hm,
      State.modMe_active, Unit.raiseLbl_baseL, scalarDone_eq, withLabel_eq]
    rw [if_pos hp]
    rfl

end Sys2Proof.Machine
end

section
/-! LSET, NOP, LBLRAISE, TRAP and BKPT (spec 05, R125, R127; 08, R235, R237; 22, R404): what each leaves, then O13. -/

namespace Sys2Proof.Machine

open Claims

/-- An effect added to those to come, then the others. -/
theorem addEffs_cons (x : Unit) (n p k : Nat) (e : Eff) (es : List (Nat × Nat × Nat × Eff)) :
    addEffs x ((n, p, k, e) :: es) = addEffs (x.due (x.iss.cyc + n) p k e) es := rfl

/-- Predicates to come from the next cycle, one after another. -/
theorem addEffs_preds (x : Unit) (ps : List (Nat × Pred)) :
    addEffs x (ps.map fun p => (1, phWrite, lnS, .pred p.1 p.2)) =
      ps.foldl (fun y p => y.due (x.iss.cyc + 1) phWrite lnS (.pred p.1 p.2)) x := by
  induction ps generalizing x with
  | nil => rfl
  | cons p r ih => exact (addEffs_cons ..).trans (ih (x.due (x.iss.cyc + 1) phWrite lnS (.pred p.1 p.2)))

/-- Predicates other than `p0` written at once. -/
theorem foldl_setP (x : Unit) (ps : List (Nat × Pred)) (h : ∀ p ∈ ps, p.1 ≠ 0) :
    ps.foldl (fun y p => y.setP p.1 p.2) x =
      { x with regs := { x.regs with p := ps.foldl (fun t p => t.put p.1 p.2) x.regs.p } } := by
  induction ps generalizing x with
  | nil => rfl
  | cons p r ih =>
    rw [List.foldl_cons, ih _ fun q hq => h q (List.mem_cons_of_mem _ hq), Unit.setP_eq, if_neg (h p List.mem_cons_self)]
    rfl

theorem physP_rotated_ne_zero (x : Unit) (i : Nat) : physP x (48 + i) ≠ 0 := by
  unfold physP
  split <;> omega

/-- LSET's predicates: `p48` true, `p49` to `p63` false. -/
def lsetPreds (x : Unit) (l : Label) : List (Nat × Pred) :=
  (List.range 16).map fun i => (physP x (48 + i), ⟨decide (i = 0), l⟩)

theorem lsetPreds_ne_zero (x : Unit) (l : Label) : ∀ p ∈ lsetPreds x l, p.1 ≠ 0 := by
  intro p hp
  obtain ⟨i, -, rfl⟩ := List.mem_map.mp hp
  exact physP_rotated_ne_zero x i

/-- LSET's effects in the model's words. -/
theorem lsetDone_eq (x : Unit) (v : Lv 64) (dcnt : BitVec 16) (l : Label) : lsetDone x v dcnt l =
    if x.iss.timed then
      (lsetPreds x (v.l ||| x.vol.codeL ||| l)).foldl (fun y p => y.due (x.iss.cyc + 1) phWrite lnS (.pred p.1 p.2))
        ((x.due (x.iss.cyc + 1) phWrite lnS (.lcnt (v.v.setWidth 32))).due (x.iss.cyc + 1) phWrite lnS (.dcnt dcnt))
    else (lsetPreds x (v.l ||| x.vol.codeL ||| l)).foldl (fun y p => y.setP p.1 p.2) (x.setCnt (v.v.setWidth 32) dcnt) := by
  rw [foldl_setP _ _ (lsetPreds_ne_zero x _)]
  refine if_congr Iff.rfl ?_ rfl
  rw [addEffs_cons, addEffs_cons]
  exact addEffs_preds _ (lsetPreds x _)

/-- Settles O13: each word under a true guard. -/
theorem smallScalarWords : Obligations.SmallScalarWords := by
  refine ⟨fun s h g a dcnt long mask hw hg => ?counts, fun s h g code hw hg => ?stops⟩
  case counts =>
    have hm := working_not_idle hw
    refine ⟨fun hv => ?lset, fun hv => ?large, ?nop, ?raise⟩
    case lset =>
      show execLset h a dcnt long g s = _
      simp only [execLset, guarded_true _ _ _ hg, State.raised_me hm, State.raised_modMe hm, Unit.raiseLbl_readS,
        Unit.raiseLbl_baseL, Unit.raiseLbl_codeL]
      refine congrArg _ ((if_neg (Nat.not_le.mpr hv)).trans (s.modMe_congr _ _ ?_))
      simp only [lsetDone_eq, lsetPreds, withLabel_eq, Unit.raiseLbl_physP, Unit.raiseLbl_codeL, Unit.baseL]
    case large =>
      show execLset h a dcnt long g s = _
      simp only [execLset, guarded_true _ _ _ hg, State.raised_me hm, Unit.raiseLbl_readS, Unit.raiseLbl_baseL,
        Unit.raiseLbl_codeL, withLabel_eq]
      exact congrArg _ (if_pos hv)
    case nop =>
      show execNop h g s = _
      simp only [execNop, guarded_true _ _ _ hg, withLabel_eq]
    case raise =>
      show execLblraise h mask g s = _
      simp only [execLblraise, guarded_modMe _ _ _ hg hm, withLabel_eq]
      exact congrArg _ (s.modMe_congr _ _ rfl)
  case stops =>
    have hm := working_not_idle hw
    refine ⟨?trap, ?bkpt⟩
    case trap =>
      show execTrap h code g s = _
      simp only [execTrap, guarded_true _ _ _ hg, State.raised_me hm, Unit.raiseLbl_baseL, Unit.raiseLbl_codeL, withLabel_eq]
      rfl
    case bkpt =>
      show execBkpt h g s = _
      simp only [execBkpt, guarded_true _ _ _ hg, State.raised_me hm, Unit.raiseLbl_baseL, State.debugOn, State.modMe_active,
        State.modMe_asids, State.raised_asidOf hm, withLabel_eq]
      rfl

end Sys2Proof.Machine
end

section
/-! Scalar memory (spec 05, R133 to R139; 10, R273, R275): what a scalar read and a scalar store come to once their box is
allowed, then O9 and O10. -/

namespace Sys2Proof.Machine

open Claims

/-! ## Coordinates, boxes, elements -/

theorem Unit.coords_eq (x : Unit) (a b : SC) (co : Option Coord) : x.coords a b co =
    (⟨(x.readC a).v.toInt, (x.readC b).v.toInt, co2 co, co3 co⟩, (x.readC a).l ||| (x.readC b).l ||| coLab x co) := by
  cases co <;> rfl

theorem Unit.coords1_eq (x : Unit) (a : SC) (co : Option Coord) : x.coords1 a co =
    (⟨(x.readC a).v.toInt, 0, co2 co, co3 co⟩, (x.readC a).l ||| coLab x co) := by
  cases co <;> rfl

@[simp] theorem coLab_raiseLbl (x : Unit) (l : Label) (co : Option Coord) : coLab (x.raiseLbl l) co = coLab x co := by
  simp [coLab]

/-- The checks of LDS and STS pass over a box they may name (R134). -/
theorem scalarBox_passes {b : Box} (h : scalarBox b) : (!b.present || b.mode = .stream || !scalarLay b.layout) = false := by
  obtain ⟨hp, hm, hz, hl⟩ := h
  simp [hp, hm, scalarLay, hz, hl]

/-- Those of CADD and CRD over a counter box (R133, R137). -/
theorem counterBox_passes {u : Nat} {b : Box} (h : counterBox u b) :
    (!b.present || b.layout ≠ 0x30 || (!isSeq u && b.mode = .stream)) = false := by
  obtain ⟨hp, hl, hs⟩ := h
  by_cases hm : b.mode = .stream
  · simp [hp, hl, isSeq, hs hm]
  · simp [hp, hl, hm]

theorem laySigned_eq (l : Nat) : laySigned l = signedLay l := by
  rw [Bool.eq_iff_iff]
  simp only [laySigned, signedLay, Bool.and_eq_true, Bool.or_eq_true, decide_eq_true_eq]
  omega

theorem extended_eq (sx : Bool) (w v : Nat) : extended sx w v = extendElem sx w v := by
  unfold extended extendElem signed
  cases sx with
  | false => rfl
  | true =>
    by_cases h : v < 2 ^ (w - 1)
    · simp [h]
    · simp [h, Nat.not_lt.mp h]

/-! ## The guard's label -/

theorem withLabel_iss (x : Unit) (l : Label) : (withLabel x l).iss = x.iss := by rw [withLabel_eq, Unit.raiseLbl_iss]

/-- A change of the unit after its guard's label, in the statements' words. -/
theorem State.raised_modMe_withLabel {s : State} (hm : s.me.mode ≠ .idle) (l : Label) (f : Unit → Unit) :
    (s.raised l).modMe f = s.modMe fun x => f (withLabel x l) := by
  simp only [State.raised_modMe hm, withLabel_eq]

/-! ## Reads -/

section
variable {s : State} {d : Dst} {b : Box} {c : Quad Int} {slot : Nat} {sx : Bool} {l : Label}

/-- In a segment the element is sampled at issue + 2. -/
theorem State.sread_timed (hb : b.has c = true) (ht : s.me.iss.timed = true) : s.sread d b c slot sx l =
    s.modMe fun x => x.due (x.iss.cyc + 2) phSample lnS
      (.sload (if d.nw then some (physS x d.nidx.toNat) else none) (b.loc c) sx l) := by
  simp only [State.sread, hb, ht, if_true]

/-- In untimed code it is read at once. -/
theorem State.sread_untimed {t : State} {q : RdOk} (hb : b.has c = true) (ht : s.me.iss.timed = false)
    (hr : s.readBox (s.ctxOf s.active) s.active b (b.loc c).addr (b.loc c).bytes = (t, .ok q))
    (hl : Label.sub q.lab b.lab = true) : s.sread d b c slot sx l =
      t.modMe fun x => x.deliver d 6 ⟨extendElem sx (b.loc c).width ((b.loc c).of q.data), l⟩ := by
  simp only [State.sread, hb, ht, hr, hl, if_true, Bool.false_eq_true, if_false]

/-- Outside the box the result is 0, with a record. -/
theorem State.sread_outside (hb : b.has c = false) : s.sread d b c slot sx l =
    s.modMe fun x => (x.stickyNow kRead lanS lanS slot 0 l (b.detail c)).deliver d 6 ⟨0#64, l⟩ := by
  simp only [State.sread, hb, Bool.false_eq_true, if_false]

end

/-- LDS and CRD are scalar reads, on the unit with the guard's label. -/
theorem exec_scalarRead {s : State} {i : Instr} {r : SRead} (hm : s.me.mode ≠ .idle) (hi : scalarRead i = some r)
    (hg : (s.me.readP r.g).v = true) (hok : r.ok s.active (s.box s.active r.slot)) :
    let b := s.box s.active r.slot
    exec i s = .next ((s.raised (s.me.readP r.g).l).sread r.d b (r.c s.me) r.slot (r.sx b)
      (b.lab ||| r.cl s.me ||| ((s.me.readP r.g).l ||| s.me.iss.lab))) := by
  cases i with
  | lds h d slot x y co g =>
    cases hi
    show execLds h d slot x y co g s = _
    simp only [execLds, guarded_true _ _ _ hg, State.raised_me hm, State.raised_box hm, State.modMe_active, Unit.coords_eq,
      Unit.raiseLbl_readC, coLab_raiseLbl, Unit.raiseLbl_baseL, laySigned_eq]
    exact congrArg _ (if_neg (Bool.eq_false_iff.mp (scalarBox_passes hok)))
  | crd h d slot x co g =>
    cases hi
    show execCrd h d slot x co g s = _
    simp only [execCrd, guarded_true _ _ _ hg, State.raised_me hm, State.raised_box hm, State.modMe_active, Unit.coords1_eq,
      Unit.raiseLbl_readC, coLab_raiseLbl, Unit.raiseLbl_baseL]
    exact congrArg _ (if_neg (Bool.eq_false_iff.mp (counterBox_passes hok)))
  | _ => exact nomatch hi

/-- Settles O9: the read inside its box in a segment and in untimed code, and the one outside. -/
theorem scalarLoad : Obligations.ScalarLoad := by
  intro s i r hw hi hg b x gl l c s1 named hok
  have hm := working_not_idle hw
  have hs1 : s1 = s.raised gl := by simp only [s1, withLabel_eq]
  have ht1 : (s.raised gl).me.iss = s.me.iss := by rw [State.raised_me hm, Unit.raiseLbl_iss]
  rw [exec_scalarRead hm hi hg hok]
  refine ⟨fun hb ht => ?timed, fun t q hb ht hr hl => ?untimed, fun hb => ?outside⟩
  case timed =>
    rw [State.sread_timed hb (by rw [ht1]; exact ht), State.raised_modMe_withLabel hm]
    simp only [withLabel_eq, Unit.raiseLbl_physS]
    rfl
  case untimed =>
    rw [hs1] at hr
    rw [State.sread_untimed hb (by rw [ht1]; exact ht) hr hl]
    simp only [scalarDone_eq, extended_eq]
    rfl
  case outside =>
    rw [State.sread_outside hb, State.raised_modMe_withLabel hm]
    simp only [scalarDone_eq, recorded_eq]
    rfl

/-! ## Stores -/

/-- What STS does in untimed code, inside its box: a sequencer's after its egress decision (R114, R359). -/
def State.storeNow (s : State) (u : Nat) (b : Box) (l : Label) (slot : Nat) (e : Loc) (v : Nat) (det : BoxDet) : State :=
  match (if isSeq u then s.seqEgress u b l e.addr e.bytes else (s, none)) with
  | (s, some err) => s.seqErr err 1 l slot det
  | (s, none) =>
    match s.writeBox (s.ctxOf u) u b l e.addr (e.bytesOf v) e.maskOf with
    | (s, none) => s
    | (s, some err) => s.seqErr err 1 l slot det

theorem State.storeNow_ok {s t t' : State} {u : Nat} {b : Box} {l : Label} {e : Loc} {v : Nat} (slot : Nat) (det : BoxDet)
    (hs : (if isSeq u then s.seqEgress u b l e.addr e.bytes else (s, none)) = (t, none))
    (hw : t.writeBox (t.ctxOf u) u b l e.addr (e.bytesOf v) e.maskOf = (t', none)) :
    s.storeNow u b l slot e v det = t' := by
  simp only [State.storeNow, hs, hw]

/-- A core's own scratchpad takes the bytes, where the mask lets it (R134, R266). -/
theorem State.storeNow_scratch {s : State} {u : Nat} {b : Box} (hu : u < 384) (hb : b.scope = .scratch) (l : Label)
    (slot : Nat) (e : Loc) (v : Nat) (det : BoxDet) : s.storeNow u b l slot e v det = s.modUnit u fun y =>
      let new := e.bytesOf v
      { y with spad := Mem.write y.spad e.addr (overlay (Mem.bytes y.spad e.addr new.length) new e.maskOf) } := by
  have hseq : isSeq u = false := by simp [isSeq, hu]
  exact State.storeNow_ok slot det (if_neg (by simp [hseq])) (by simp only [State.writeBox, hb])

/-- A sequencer's CADD, inside its box (R114, R333). -/
def State.addNow (s : State) (u : Nat) (b : Box) (l : Label) (slot a v : Nat) (det : BoxDet) : State :=
  match s.seqEgress u b l a 8 with
  | (s, some err) => s.seqErr err 1 l slot det
  | (s, none) =>
    match s.counterAdd (s.ctxOf u) u b l a v with
    | (s, none) => s
    | (s, some err) => s.seqErr err 1 l slot det

theorem State.addNow_ok {s t t' : State} {u : Nat} {b : Box} {l : Label} {a v : Nat} (slot : Nat) (det : BoxDet)
    (hs : s.seqEgress u b l a 8 = (t, none)) (hc : t.counterAdd (t.ctxOf u) u b l a v = (t', none)) :
    s.addNow u b l slot a v det = t' := by
  simp only [State.addNow, hs, hc]

/-- A counter in the unit's scratchpad saturates (R137). -/
theorem State.counterAdd_scratch {s : State} {b : Box} (hb : b.scope = .scratch) (ctx : Ctx) (u : Nat) (l : Label) (a v : Nat) :
    (s.counterAdd ctx u b l a v).1 = s.modUnit u fun y =>
      { y with spad := Mem.write y.spad a (leBytes 8 (min (Mem.nat y.spad a 8 + v) (2 ^ 64 - 1))) } := by
  simp only [State.counterAdd, hb, satAdd]

section
variable {s : State} {g : POp} (hm : s.me.mode ≠ .idle) (hg : (s.me.readP g).v = true) (h : Hdr) (slot : BitVec 4)
  (p q : SC) (v : SB) (co : Option Coord)
include hm hg

/-- STS over a box it may write: a store, or a record outside. -/
theorem exec_sts :
    let u := s.active
    let b := s.box u slot.toNat
    let x := s.me
    let c : Quad Int := ⟨(x.readC p).v.toInt, (x.readC q).v.toInt, co2 co, co3 co⟩
    let l := (x.readB v).l ||| ((x.readC p).l ||| (x.readC q).l ||| coLab x co) ||| ((x.readP g).l ||| x.iss.lab)
    let s1 := s.raised (x.readP g).l
    scalarBox b → b.mode ≠ .in_ → Label.sub l b.lab = true → (384 ≤ u → s1.inGroupArg u slot.toNat c = false) →
      exec (.sts h slot p q v co g) s = .next (
        if b.has c then
          if x.iss.timed then s1.modMe fun y => y.due (y.iss.cyc + 4) phWrite lnS (.sbits [(b.loc c, (x.readB v).v.toNat)])
          else s1.storeNow u b l slot.toNat (b.loc c) (x.readB v).v.toNat (b.detail c)
        else s1.modMe fun y => y.stickyNow kWrite lanS lanS slot.toNat 0 l (b.detail c)) := by
  intro u b x c l s1 hbox hmode hlab harg
  have hin : (isSeq u && s1.inGroupArg u slot.toNat c) = false := by
    by_cases hu : 384 ≤ u
    · rw [harg hu, Bool.and_false]
    · simp [isSeq, hu]
  have hl : (!Label.sub l b.lab) = false := by rw [hlab]; rfl
  show execSts h slot p q v co g s = _
  simp only [execSts, guarded_true _ _ _ hg, State.raised_me hm, State.raised_box hm, State.modMe_active, Unit.coords_eq,
    Unit.raiseLbl_readC, Unit.raiseLbl_readB, coLab_raiseLbl, Unit.raiseLbl_baseL, Unit.raiseLbl_iss]
  refine congrArg _ ((if_neg (Bool.eq_false_iff.mp (scalarBox_passes hbox))).trans ?_)
  refine (if_neg (Bool.eq_false_iff.mp hin)).trans ((if_neg hmode).trans ?_)
  exact (if_neg (Bool.eq_false_iff.mp hl)).trans rfl

/-- CADD over a counter it may add to: an addition, deferred under phase protection, or a record outside. -/
theorem exec_cadd :
    let u := s.active
    let b := s.box u slot.toNat
    let x := s.me
    let k : Quad Int := ⟨(x.readC p).v.toInt, 0, co2 co, co3 co⟩
    let l := (x.readB v).l ||| ((x.readC p).l ||| coLab x co) ||| ((x.readP g).l ||| x.iss.lab)
    let n := (x.readB v).v.toNat
    let s1 := s.raised (x.readP g).l
    counterBox u b → b.mode ≠ .in_ → Label.sub l b.lab = true →
      exec (.cadd h slot p v co g) s = .next (
        if b.has k then
          if isSeq u then s1.addNow u b l slot.toNat (b.addr k) n (b.detail k)
          else if s.prot u then s1.modMe fun y =>
            if y.iss.timed then y.due y.iss.cyc phNow lnS (.defer (b.addr k) n)
            else { y with defer := y.defer ++ [(b.addr k, n)] }
          else if x.iss.timed then s1.modMe fun y => y.due (y.iss.cyc + 4) phWrite lnS (.cadd (b.addr k) n)
          else (s1.counterAdd (s1.ctxOf u) u b l (b.addr k) n).1
        else s1.modMe fun y => y.stickyNow kWrite lanS lanS slot.toNat 0 l (b.detail k)) := by
  intro u b x k l n s1 hbox hmode hlab
  have hl : (!Label.sub l b.lab) = false := by rw [hlab]; rfl
  show execCadd h slot p v co g s = _
  simp only [execCadd, guarded_true _ _ _ hg, State.raised_me hm, State.raised_box hm, State.raised_prot hm,
    State.modMe_active, Unit.coords1_eq, Unit.raiseLbl_readC, Unit.raiseLbl_readB, coLab_raiseLbl, Unit.raiseLbl_baseL,
    Unit.raiseLbl_iss]
  refine congrArg _ ((if_neg (Bool.eq_false_iff.mp (counterBox_passes hbox))).trans ((if_neg hmode).trans ?_))
  exact (if_neg (Bool.eq_false_iff.mp hl)).trans rfl

/-- FMTQ: a push, or an overflow found at once in untimed code. -/
theorem exec_fmtq :
    let x := s.me
    let w : Fmt := ⟨(x.readB v).v, (x.readB v).l ||| ((x.readP g).l ||| x.iss.lab)⟩
    let s1 := s.raised (x.readP g).l
    exec (.fmtq h v g) s = .next (
      if !x.iss.timed && decide (x.que.fmtq.length ≥ 16) then s1.fail lanS fFormatOverflow 0 w.l
      else s1.modMe fun y =>
        if y.iss.timed then y.due (y.iss.cyc + 2) phPush lnS (.fpush w)
        else { y with que := { y.que with fmtq := y.que.fmtq ++ [w] } }) := by
  intro x w s1
  show execFmtq h v g s = _
  simp only [execFmtq, guarded_true _ _ _ hg, State.raised_me hm, Unit.raiseLbl_readB, Unit.raiseLbl_baseL,
    Unit.raiseLbl_iss, Unit.raiseLbl_que]
  rfl

end

/-- Settles O10: each word by its rule above, in the case its hypotheses name. -/
theorem scalarStore : Obligations.ScalarStore := by
  intro s h g slot p q v co hw hg u b x gl base c l k lk s1
  have hm := working_not_idle hw
  have hs1 : s1 = s.raised gl := by simp only [s1, withLabel_eq]
  refine ⟨fun hbox hmode hlab harg => ?sts, fun hbox hmode hlab hu hb t t' he hc => ?seq, fun hbox hmode hlab hu => ?cadd,
    fun hq => ?push, fun ht hq => ?full⟩
  case sts =>
    rw [exec_sts hm hg h slot p q v co hbox hmode hlab (hs1 ▸ harg)]
    refine ⟨fun hb ht => ?timed, fun hb ht hsc hu => ?scratch, fun t t' hb ht he hst => ?anywhere, fun hb => ?outside⟩
    case timed =>
      exact congrArg _ ((if_pos hb).trans ((if_pos ht).trans (State.raised_modMe_withLabel hm gl _)))
    case scratch =>
      refine congrArg _ ((if_pos hb).trans ((if_neg (Bool.eq_false_iff.mp ht)).trans ?_))
      rw [State.storeNow_scratch hu hsc, hs1]
      rfl
    case anywhere =>
      refine congrArg _ ((if_pos hb).trans ((if_neg (Bool.eq_false_iff.mp ht)).trans ?_))
      refine State.storeNow_ok slot.toNat (b.detail c) (t := t) ?_ hst
      rw [hs1] at he
      exact (if_congr (decide_eq_true_iff ..) rfl rfl).trans he
    case outside =>
      exact congrArg _ ((if_neg (Bool.eq_false_iff.mp hb)).trans (State.raised_modMe_withLabel hm gl _))
  case seq =>
    rw [exec_cadd hm hg h slot p v co hbox hmode hlab]
    refine congrArg _ ((if_pos hb).trans ((if_pos (decide_eq_true hu)).trans ?_))
    exact State.addNow_ok slot.toNat (b.detail k) (hs1 ▸ he) hc
  case cadd =>
    rw [exec_cadd hm hg h slot p v co hbox hmode hlab]
    have core : ¬ isSeq u = true := by simp [isSeq, hu]
    refine ⟨fun hb hp => ?deferred, fun hb hp ht hsc => ?scratch, fun hb hp ht => ?timed, fun hb => ?outside⟩
    case deferred =>
      refine congrArg _ ((if_pos hb).trans ((if_neg core).trans ((if_pos hp).trans ?_)))
      refine (State.raised_modMe_withLabel hm gl _).trans ?_
      exact s.modMe_congr _ _ (if_congr (by rw [withLabel_iss]) rfl rfl)
    case scratch =>
      refine congrArg _ ((if_pos hb).trans ((if_neg core).trans ((if_neg (Bool.eq_false_iff.mp hp)).trans ?_)))
      refine (if_neg (Bool.eq_false_iff.mp ht)).trans ?_
      rw [State.counterAdd_scratch hsc, hs1]
      rfl
    case timed =>
      refine congrArg _ ((if_pos hb).trans ((if_neg core).trans ((if_neg (Bool.eq_false_iff.mp hp)).trans ?_)))
      exact (if_pos ht).trans (State.raised_modMe_withLabel hm gl _)
    case outside =>
      exact congrArg _ ((if_neg (Bool.eq_false_iff.mp hb)).trans (State.raised_modMe_withLabel hm gl _))
  case push =>
    have hroom : (!s.me.iss.timed && decide (s.me.que.fmtq.length ≥ 16)) = false := by
      cases ht : s.me.iss.timed with
      | true => rfl
      | false => simpa using hq ht
    rw [exec_fmtq hm hg]
    refine congrArg _ ((if_neg (Bool.eq_false_iff.mp hroom)).trans ?_)
    refine (State.raised_modMe_withLabel hm gl _).trans ?_
    exact s.modMe_congr _ _ (if_congr (by rw [withLabel_iss]) rfl rfl)
  case full =>
    have hover : (!s.me.iss.timed && decide (s.me.que.fmtq.length ≥ 16)) = true := by
      simp only [Bool.and_eq_true, Bool.not_eq_true', decide_eq_true_eq]
      exact ⟨ht, hq⟩
    rw [exec_fmtq hm hg, hs1]
    exact congrArg _ (if_pos hover)

end Sys2Proof.Machine
end

section
/-! The V lane's reading rules (spec 02, R50 to R53; 06, R141 to R144): the words of the statements are the model's. A list
that a word reads, draws or writes is the one of its elements `0` to `n - 1`, so that each rule is about one element. -/

namespace Sys2Proof.Machine

open Claims

/-! ## Lists of elements -/

/-- Two lists over the same places, taken together. -/
theorem zipWith_range {α β γ : Type} (f : α → β → γ) (g : Nat → α) (h : Nat → β) (n : Nat) :
    List.zipWith f ((List.range n).map g) ((List.range n).map h) = (List.range n).map fun j => f (g j) (h j) := by
  rw [List.zipWith_map, List.zipWith_self]

theorem replicate_eq_map_range {α : Type} (n : Nat) (a : α) : List.replicate n a = (List.range n).map fun _ => a := by
  simp

theorem zipIdx_eq_map_range {α : Type} (l : List α) (d : α) :
    l.zipIdx = (List.range l.length).map fun k => (l.getD k d, k) := by
  apply List.ext_getElem <;> simp +contextual

theorem getD_map_range {α : Type} (f : Nat → α) (d : α) {n j : Nat} (h : j < n) : ((List.range n).map f).getD j d = f j := by
  simp [h]

/-- The columns of rows of `n` elements. -/
theorem columns_map_range {α : Type} (n : Nat) (g : Nat → Nat → α) (ks : List Nat) :
    columns n (ks.map fun k => (List.range n).map (g k)) = (List.range n).map fun j => ks.map fun k => g k j := by
  induction ks with
  | nil => exact replicate_eq_map_range n []
  | cons k ks ih => exact (congrArg _ ih).trans (zipWith_range ..)

/-- Labels joined from the left are those joined from the right. -/
theorem foldl_or_eq_orLabs (ls : List Label) (l : Label) : ls.foldl (· ||| ·) l = l ||| orLabs ls := by
  induction ls generalizing l with
  | nil => exact (BitVec.or_zero ..).symm
  | cons a ls ih => exact (ih _).trans (BitVec.or_assoc ..)

/-- Those of a word's sources, each beside what it reads. -/
theorem foldl_labels {α : Type} (srcs : List VOp) (v : Nat → α) (lab : VOp → Label) (l : Label) :
    ((List.range srcs.length).map fun k => (v k, lab (srcs.getD k .vlat))).foldl (fun l e => l ||| e.2) l =
      l ||| orLabs (srcs.map lab) := by
  have hs : ((List.range srcs.length).map fun k => lab (srcs.getD k .vlat)) = srcs.map lab :=
    List.ext_getElem (by simp) fun i _ h => by simp [List.length_map lab ▸ h]
  rw [← hs, ← foldl_or_eq_orLabs, List.foldl_map, List.foldl_map]

/-! ## Masks and labels -/

theorem Unit.mreg_testBit (x : Unit) (m : BitVec 3) (j : Nat) : (x.mreg m).v.toNat.testBit j = maskBit x m j := by
  rw [BitVec.testBit_toNat, Unit.mreg, maskBit]
  split
  · exact BitVec.getLsbD_allOnes
  · rfl

theorem Unit.mreg_l (x : Unit) (m : BitVec 3) : (x.mreg m).l = maskLab x m := by
  unfold Unit.mreg maskLab
  exact apply_ite Lv.l ..

theorem Unit.enabled_eq (x : Unit) (m : BitVec 3) (n : Nat) : x.enabled m n = (List.range n).map (maskBit x m) :=
  List.map_congr_left fun j _ => x.mreg_testBit m j

theorem Unit.vlabel_eq (x : Unit) (m : BitVec 3) (md : Option Mod) (rsr : Bool) : x.vlabel m md rsr = frame x m md rsr := by
  rw [Unit.vlabel, Unit.mreg_l, frame]

/-! ## Operands -/

/-- What an operand reads is its elements and its label (R141, R52, R53). -/
theorem Unit.vread_eq (x : Unit) (w n : Nat) (o : VOp) :
    x.vread w n o = ((List.range n).map (elemAt x w o), elemLab x w o) := by
  have scalar (v : Lv 64) : (List.replicate n (v.v.toNat % 2 ^ w), v.l) =
      ((List.range n).map fun _ => v.v.toNat % 2 ^ w, v.l) := by rw [replicate_eq_map_range]
  have row (o : VOp) (ho : x.vscalar o = none) :
      x.vread w n o = ((List.range n).map fun j =>
        if w = 64 then (rowRead x o 0).v.toNat / 2 ^ (32 * j) % 2 ^ 32 +
          2 ^ 32 * ((rowRead x o 1).v.toNat / 2 ^ (32 * j) % 2 ^ 32)
        else (rowRead x o 0).v.toNat / 2 ^ (w * j) % 2 ^ w,
        (rowRead x o 0).l ||| (if w = 64 then (rowRead x o 1).l else 0#8)) := by
    have h0 : x.vrow1 o false = rowRead x o 0 := by cases o <;> rfl
    have h1 : x.vrow1 o true = rowRead x o 1 := by cases o <;> rfl
    by_cases hw : w = 64
    · simp only [Unit.vread, ho, h0, h1, hw, if_true, unpack, zipWith_range]
    · simp only [Unit.vread, ho, h0, hw, if_false, unpack, BitVec.or_zero]
  cases o with
  | s i => exact scalar _
  | k i => exact scalar _
  | vlat | vq | row => exact row _ rfl

/-- A row stands in a usable tile. -/
theorem Unit.tileOk_iff (x : Unit) (t : Nat) : x.tileOk t = true ↔
    t < x.regs.acc ∧ (x.regs.tiles.get t).pow = .on ∧ (x.regs.tiles.get t).wake ≤ x.iss.cyc := by
  unfold Unit.tileOk
  cases (x.regs.tiles.get t).pow <;> simp

theorem Unit.usable_iff (x : Unit) (rows : List (BitVec 8)) :
    (rows.any fun i => !x.tileOk (x.vplace i).1) = false ↔ usable x rows := by
  simp [usable, ← Unit.tileOk_iff]

section
variable {s : State} {rows : List (BitVec 8)} {bad : Bool} {l : Label} {k : Unit → Unit}

theorem vWord_of_usable (hu : usable s.me rows) (hb : bad = false) : vWord s rows bad l k = s.modMe k :=
  if_neg (by rw [(Unit.usable_iff ..).mpr hu, hb]; exact Bool.false_ne_true)

theorem vWord_of_bad (h : ¬ (usable s.me rows ∧ bad = false)) : vWord s rows bad l k = s.fail lanV fIllegalOperand 0 l :=
  if_pos (by rw [← Unit.usable_iff, ← Bool.or_eq_false_iff] at h; exact Bool.of_not_eq_false h)

end

/-! ## Results -/

theorem fieldMask_range (w n : Nat) (b : Nat → Bool) :
    fieldMask w ((List.range n).map b) = fields w n fun j => if b j then 2 ^ w - 1 else 0 := by
  rw [fieldMask, List.map_map]
  rfl

/-- The elements of a list written to a row (R142). -/
theorem Unit.putElems_eq (x : Unit) (dest : BitVec 8) (w lat n : Nat) (el : Nat → Nat) (mask : BitVec 3) (z : Bool)
    (l : Label) (fl : Flags) : x.putElems dest w lat ((List.range n).map el) mask z l fl =
      rowDone x dest w lat n el mask z l fl := by
  simp only [Unit.putElems, List.length_map, List.length_range, Unit.enabled_eq, zipWith_range, List.map_map,
    Function.comp_def, fieldMask_range]
  by_cases hw : w = 64
  · simp only [rowDone, hw, if_true]
    rfl
  · simp only [rowDone, hw, if_false]
    rfl

/-- A row result is about the elements that there are. -/
theorem rowDone_congr {x : Unit} {dest : BitVec 8} {w lat n : Nat} {el el' : Nat → Nat} {mask : BitVec 3} {z : Bool}
    {l : Label} {fl : Flags} (h : ∀ j < n, el j = el' j) :
    rowDone x dest w lat n el mask z l fl = rowDone x dest w lat n el' mask z l fl := by
  rw [← Unit.putElems_eq, ← Unit.putElems_eq, List.map_congr_left fun j hj => h j (List.mem_range.mp hj)]

/-- The bits of a list written to a mask (R148). -/
theorem Unit.putCmp_eq (x : Unit) (d : BitVec 3) (n : Nat) (b : Nat → Bool) (mask : BitVec 3) (z : Bool) (l : Label) :
    x.putCmp d ((List.range n).map b) mask z l = maskDone x d n b mask z l := by
  simp only [Unit.putCmp, List.length_map, List.length_range, Unit.enabled_eq, zipWith_range, List.map_map,
    Function.comp_def, fieldMask_range]
  rfl

/-- A word with a row result is its checks and the write of its elements. -/
theorem gives_of_vWord {s : State} {i : Instr} {r : VRes} {bad : Bool} {l : Label} {k : Unit → Unit}
    (he : exec i s = .next (vWord s (r.dest :: r.rows) bad l k)) (hl : l = r.lab s.me) (hb : bad = false ↔ r.ok s.me)
    (hk : k s.me = rowDone (r.gens s.me) r.dest r.w r.lat r.n (r.el s.me) r.mask r.z l (r.fl s.me)) : gives s i r := by
  subst hl
  constructor
  · intro hu ho
    rw [he, vWord_of_usable hu (hb.mpr ho)]
    exact congrArg _ (s.modMe_congr _ _ hk)
  · intro h
    rw [he, vWord_of_bad fun hu => h ⟨hu.1, hb.mp hu.2⟩]

end Sys2Proof.Machine
end

section
/-! Floating-point V words (spec 06, R147, R150, R155, R156; 01, R23, R25): sources, draws and flags element by element, then
O15 and O16. -/

namespace Sys2Proof.Machine

open Claims

/-! ## Sources, draws, flags -/

theorem lanes_vfFp (t : VF) : lanes (vfFp t).width = 4096 / (vfFp t).width := by cases t <;> rfl

theorem srcMod_eq_srcVal (f : FP) (md : Option Mod) (k v : Nat) :
    srcMod (modSrc (modOf md) k).1 (modSrc (modOf md) k).2 (f.decode v) = srcVal f md k v := by
  match k with
  | 0 | 1 | _ + 2 => rfl

/-- The sources of a word (R141, R72): for each element its value from each operand. -/
theorem Unit.vsources_eq (x : Unit) (t : VF) (md : Option Mod) (srcs : List VOp) :
    x.vsources (vfFp t) (modOf md) srcs =
      ((List.range (4096 / (vfFp t).width)).map fun j => (List.range srcs.length).map fun k =>
          srcVal (vfFp t) md k (elemAt x (vfFp t).width (srcs.getD k .vlat) j),
        orLabs (srcs.map fun o => elemLab x (vfFp t).width o)) := by
  simp only [Unit.vsources, lanes_vfFp, Unit.vread_eq, zipIdx_eq_map_range srcs .vlat, List.map_map, Function.comp_def,
    srcMod_eq_srcVal, columns_map_range, foldl_labels, BitVec.zero_or]

theorem drawAll_length (w n : Nat) (gens : List (BitVec 32)) : (drawAll w n gens).1.length = n := by
  have step (l : List Nat) (a : List Nat × List (BitVec 32)) :
      (l.foldl (fun a j => ((genStep (a.2.getD (j * w / 32) 0#32)).2 :: a.1,
        a.2.set (j * w / 32) (genStep (a.2.getD (j * w / 32) 0#32)).1)) a).1.length = a.1.length + l.length := by
    induction l generalizing a with
    | nil => rfl
    | cons j l ih => rw [List.foldl_cons, ih]; simp; omega
  refine (List.length_reverse).trans ((step (List.range n) ([], gens)).trans ?_)
  simp

/-- A word takes a draw for each of its elements in RSR, and none else (R23). -/
theorem Unit.draws_eq (x : Unit) (rm : RMode) (w n : Nat) :
    x.draws rm w n = ((List.range n).map (drawn x rm w n), advanced x rm w n) := by
  by_cases h : rm = .rsr
  · have hd : (drawAll w n x.regs.gens).1 = (List.range n).map (drawn x rm w n) := by
      refine List.ext_getElem (by simp [drawAll_length]) fun j hj _ => ?_
      simp [drawn, h, hj]
    rw [← hd]
    simp only [Unit.draws, advanced, h, if_true]
  · have hd : List.replicate n 0 = (List.range n).map (drawn x rm w n) := by
      rw [replicate_eq_map_range]
      exact List.map_congr_left fun j _ => (if_neg h).symm
    rw [← hd]
    simp only [Unit.draws, advanced, h, if_false]

@[simp] theorem maskBit_advanced (x : Unit) (rm : RMode) (w n : Nat) (m : BitVec 3) :
    maskBit (advanced x rm w n) m = maskBit x m := by
  unfold advanced
  split <;> rfl

/-- The flags of the enabled elements (R25), joined in ascending order. -/
theorem orFlags_range (n : Nat) (b : Nat → Bool) (r : Nat → Rnd) : orFlags ((List.range n).map b) ((List.range n).map r) =
    (List.range n).foldl (fun a j => if b j then a ||| (r j).fl else a) 0#5 := by
  rw [orFlags, zipWith_range, List.foldl_map]
  congr 1
  funext a j
  cases b j <;> simp

/-! ## Words of each element -/

section
variable {s : State} {i : Instr} {r : VRes} {t : VF} {dest : BitVec 8} {mask : BitVec 3} {z sp : Bool} {md : Option Mod}

/-- A floating-point word gives its row where the model's operation on the list of an element's sources is the statement's
on the sources by number. -/
theorem gives_vFloat {srcs : List VOp} {op' : RMode → (Nat → XVal) → XReal × Flags}
    (hr : vfl t dest srcs mask z md sp op' = some r) {op : RMode → List XVal → XReal × Flags}
    (he : exec i s = .next (vFloat s t dest srcs mask z md sp op))
    (hop : ∀ rm a, op rm ((List.range srcs.length).map a) = op' rm a) : gives s i r := by
  cases hr
  simp only [vFloat, Unit.vsources_eq, Unit.vlabel_eq, Unit.draws_eq, lanes_vfFp, zipWith_range, hop, Unit.enabled_eq,
    orFlags_range, List.map_map, Unit.putElems_eq, maskBit_advanced] at he
  exact gives_of_vWord he rfl Iff.rfl rfl

/-- The floating-point words of R147 and R150 are what their rows say. -/
theorem gives_vectorFloat (h : vectorFloat i = some r) : gives s i r := by
  cases i with
  | vadd | vsub | vmul | vfma | vmin | vmax | vdiv | vrcp | vrsq | vsqrt | vexp2 | vlog2 | vtanh | vsigm =>
    simp only [vectorFloat] at h
    exact gives_vFloat h rfl fun _ _ => rfl
  | _ => exact nomatch h

end

/-- Settles O15: every such word gives its row, its operation on the sources being the model's. -/
theorem vectorFloatResult : Obligations.VectorFloatResult := fun _ _ _ _ h => gives_vectorFloat h

/-! ## Reductions -/

/-- What is taken of some places only is taken of those chosen. -/
theorem filterMap_if {α : Type} (b : Nat → Bool) (v : Nat → α) (l : List Nat) :
    (l.filterMap fun j => if b j then some (v j) else none) = (l.filter b).map v := by
  induction l with
  | nil => rfl
  | cons j l ih => cases h : b j <;> simp [h, ih]

/-- An element in front of zeros. -/
theorem cons_zeros_eq {n : Nat} (h : 0 < n) (v : Nat) :
    v :: List.replicate (n - 1) 0 = (List.range n).map fun j => if j = 0 then v else 0 := by
  obtain ⟨m, rfl⟩ := Nat.exists_eq_succ_of_ne_zero h.ne'
  rw [Nat.succ_sub_one, List.range_succ_eq_map, List.map_cons, List.map_map, replicate_eq_map_range]
  rfl

theorem vfFp_lanes_pos (t : VF) : 0 < 4096 / (vfFp t).width := by cases t <;> decide

/-- A zip of two lists over the same places. -/
theorem zip_range {α β : Type} (g : Nat → α) (h : Nat → β) (n : Nat) :
    ((List.range n).map g).zip ((List.range n).map h) = (List.range n).map fun j => (g j, h j) :=
  zipWith_range Prod.mk g h n

theorem orLabs_singleton (l : Label) : orLabs [l] = l := BitVec.or_zero

section
variable {s : State} {i : Instr} {r : VRes} {t : VF} {dest : BitVec 8} {a : VOp} {mask : BitVec 3} {md : Option Mod}
  {lat : Nat}

/-- A reduction gives its row where the model's operation on the included elements is the statement's. -/
theorem gives_vReduce {op' : RMode → List XVal → XVal} (hr : vred t dest a mask md lat op' = some r)
    {op : RMode → List XVal → XVal} (he : exec i s = .next (vReduce s t dest a mask md lat op))
    (hop : ∀ rm l, op rm l = op' rm l) : gives s i r := by
  cases hr
  have hdraw : ((List.range 1).map (drawn s.me (s.me.rmode md) (vfFp t).width 1)).getD 0 0 =
      drawn s.me (roundOf s.me md) (vfFp t).width 1 0 := rfl
  have hinc : ((List.range (4096 / (vfFp t).width)).filterMap fun j => if maskBit s.me mask j then
      some (((List.range [a].length).map fun k => srcVal (vfFp t) md k
        (elemAt s.me (vfFp t).width ([a].getD k .vlat) j)).getD 0 .nan) else none) = included s.me (vfFp t) md mask a :=
    filterMap_if ..
  simp only [vReduce, Unit.vsources_eq, Unit.vlabel_eq, Unit.draws_eq, lanes_vfFp, Unit.enabled_eq, zip_range, hdraw, hop,
    cons_zeros_eq (vfFp_lanes_pos t), Unit.putElems_eq, List.filterMap_map, Function.comp_def, hinc, List.isEmpty_iff,
    List.map_cons, List.map_nil, orLabs_singleton] at he
  exact gives_of_vWord he rfl Iff.rfl rfl

/-- The reductions of R155 are what their rows say. -/
theorem gives_vectorReduce (h : vectorReduce i = some r) : gives s i r := by
  cases i with
  | vredsum =>
    simp only [vectorReduce] at h
    exact gives_vReduce h rfl fun _ _ => if_congr List.isEmpty_iff rfl rfl
  | vredmax | vredmin | vredamax =>
    simp only [vectorReduce] at h
    exact gives_vReduce h rfl fun _ _ => rfl
  | _ => exact nomatch h

end

/-- Settles O16: every such word gives the reduction of its included elements. -/
theorem vectorReduction : Obligations.VectorReduction := fun _ _ _ _ h => gives_vectorReduce h

end Sys2Proof.Machine
end

section
/-! VSCAN and VCVT (spec 06, R152 to R154, R156): the included elements so far, the scales, then O18. -/

namespace Sys2Proof.Machine

open Claims

/-! ## VSCAN -/

/-- The included elements up to one of the places (R156). -/
theorem scanPrefix_range (b : Nat → Bool) (v : Nat → XVal) {n j : Nat} (h : j < n) :
    scanPrefix ((List.range n).map fun i => (b i, v i)) j = ((List.range (j + 1)).filter b).map v := by
  have ht : (List.range n).take (j + 1) = List.range (j + 1) := by rw [List.take_range, Nat.min_eq_left h]
  rw [scanPrefix, ← List.map_take, ht, List.filter_map, List.map_map]
  rfl

/-- Elements that are computed from their place and a draw: their patterns written to a row, the flags of those enabled. -/
theorem Unit.putElems_drawn {x : Unit} {dest : BitVec 8} {w lat n : Nat} {F : Nat → Nat → Rnd} {d : Nat → Nat}
    {mask : BitVec 3} {z : Bool} {l : Label} {b : Nat → Bool} {e : Nat → Rnd} (h : ∀ j < n, F j (d j) = e j) :
    x.putElems dest w lat ((List.zipWith F (List.range n) ((List.range n).map d)).map (·.pat)) mask z l
        (orFlags ((List.range n).map b) (List.zipWith F (List.range n) ((List.range n).map d))) =
      rowDone x dest w lat n (fun j => (e j).pat) mask z l
        ((List.range n).foldl (fun a j => if b j then a ||| (e j).fl else a) 0#5) := by
  have hF : List.zipWith F (List.range n) ((List.range n).map d) = (List.range n).map e := by
    rw [List.zipWith_map_right, List.zipWith_self]
    exact List.map_congr_left fun j hj => h j (List.mem_range.mp hj)
  rw [hF, orFlags_range, List.map_map]
  exact Unit.putElems_eq ..

section
variable {s : State} {r : VRes} {md : Option Mod}

/-- VSCAN gives the running sums. -/
theorem gives_vscan {h : Hdr} {t : VF} {f : VA1} (hr : vectorConvert (.vscan h t f md) = some r) :
    gives s (.vscan h t f md) r := by
  cases hr
  have he : exec (.vscan h t f md) s = execVscan h t f md s := rfl
  have hsrc (j : Nat) : ((List.range [f.a].length).map fun k =>
      srcVal (vfFp t) md k (elemAt s.me (vfFp t).width ([f.a].getD k .vlat) j)).getD 0 .nan =
        srcVal (vfFp t) md 0 (elemAt s.me (vfFp t).width f.a j) := rfl
  simp only [execVscan, Unit.vsources_eq, Unit.vlabel_eq, Unit.draws_eq, lanes_vfFp, Unit.enabled_eq, List.map_map,
    Function.comp_def, hsrc, zip_range, List.map_cons, List.map_nil, orLabs_singleton, maskBit_advanced] at he
  refine gives_of_vWord he rfl Iff.rfl (Unit.putElems_drawn fun j hj => ?_)
  rw [scanPrefix_range _ _ hj]
  split
  · next hp => exact (if_pos hp).symm
  · next v l hp =>
    rw [← hp]
    exact (if_neg fun hn => List.cons_ne_nil v l (hp.symm.trans hn)).symm

end

/-! ## VCVT -/

theorem cvtLanes_le (d t : ETy) : cvtLanes d t ≤ 512 := Nat.min_le_left ..

/-- The scale of an element (R154): 1, or one FP32 element of the operand for each 32. -/
def scaleOf (x : Unit) (m : Mod) (sc : Option VOp) (j : Nat) : XVal :=
  match sc with
  | none => .fin false 1 0
  | some o => srcMod m.negb m.absb (FP.f32.decode (elemAt x 32 o (j / 32)))

theorem Unit.scales_eq (x : Unit) {n : Nat} (hn : n ≤ 512) (m : Mod) (sc : Option VOp) :
    x.scales n m sc = ((List.range n).map (scaleOf x m sc), orLabs (sc.toList.map fun o => elemLab x 32 o)) := by
  cases sc with
  | none =>
    rw [Unit.scales, replicate_eq_map_range]
    rfl
  | some o =>
    simp only [Unit.scales, Unit.vread_eq, ← List.map_take, List.take_range, List.map_map, Option.toList, List.map_cons,
      List.map_nil, orLabs_singleton, Prod.mk.injEq, and_true]
    refine List.map_congr_left fun j hj => getD_map_range _ _ ?_
    have := List.mem_range.mp hj
    omega

theorem genNan_pair (y a k : XVal) :
    genNan y [a, k] = if y.isNan && !a.isNan && !k.isNan then flInvalid else 0#5 := by
  simp only [genNan, List.any_cons, List.any_nil, Bool.or_false, Bool.not_or, Bool.and_assoc]

section
variable {s : State} {r : VRes} {md : Option Mod}

/-- VCVT converts each element once. -/
theorem gives_vcvt {h : Hdr} {d t : ETy} {f : VA1} {sc : Option VOp} {nosat : Bool}
    (hr : vectorConvert (.vcvt h d t f sc nosat md) = some r) : gives s (.vcvt h d t f sc nosat md) r := by
  cases hr
  have he : exec (.vcvt h d t f sc nosat md) s = execVcvt h d t f sc nosat md s := rfl
  simp only [execVcvt, Unit.vread_eq, Unit.scales_eq _ (cvtLanes_le d t), Unit.vlabel_eq, Unit.draws_eq, Unit.enabled_eq,
    zip_range, zipWith_range, orFlags_range, genNan_pair, List.map_map, Unit.putElems_eq, maskBit_advanced] at he
  exact gives_of_vWord he rfl Bool.or_eq_false_iff rfl

end

/-- Settles O18: a word of each kind by its rule above. -/
theorem vectorConvertAndScan : Obligations.VectorConvertAndScan := by
  intro s i r _ h
  cases i with
  | vcvt => exact gives_vcvt h
  | vscan => exact gives_vscan h
  | _ => exact nomatch h

end Sys2Proof.Machine
end

section
/-! Integer V words (spec 06, R157; 01, R36): elements as integers and as bits, then O17. -/

namespace Sys2Proof.Machine

open Claims

/-! ## Elements -/

theorem elemAt_lt (x : Unit) (w : Nat) (o : VOp) (j : Nat) : elemAt x w o j < 2 ^ w := by
  have mod (n : Nat) : n % 2 ^ w < 2 ^ w := Nat.mod_lt _ (Nat.two_pow_pos w)
  have row (a b : Nat) : (if w = 64 then a / 2 ^ (32 * j) % 2 ^ 32 + 2 ^ 32 * (b / 2 ^ (32 * j) % 2 ^ 32)
      else a / 2 ^ (w * j) % 2 ^ w) < 2 ^ w := by
    by_cases hw : w = 64
    · subst hw
      have ha := Nat.mod_lt (a / 2 ^ (32 * j)) (Nat.two_pow_pos 32)
      have hb := Nat.mod_lt (b / 2 ^ (32 * j)) (Nat.two_pow_pos 32)
      rw [if_pos rfl]
      omega
    · rw [if_neg hw]
      exact mod _
  cases o with
  | s | k => exact mod _
  | vlat | vq | row => exact row _ _

theorem intSrc_eq_srcInt (u : Bool) (w : Nat) (md : Option Mod) (k v : Nat) :
    intSrc u w (modSrc (modOf md) k).1 (modSrc (modOf md) k).2 v = srcInt u w md k v := by
  have hs : (if u then (v : Int) else signed w v) =
      if u || decide (v < 2 ^ (w - 1)) then (v : Int) else (v : Int) - 2 ^ w := by
    cases u <;> simp [signed]
  match k with
  | 0 | 1 | _ + 2 => simp only [intSrc, hs]; rfl

theorem intElement_eq_outInt (x : Unit) (u : Bool) (w : Nat) (md : Option Mod) (y : Int) :
    intElement w u (modOf md) (x.clampI (modOf md)) y = outInt x u w md y := by
  simp only [intElement, outInt, unsigned]
  cases x.clampI (modOf md) <;> rfl

/-- The columns of rows as the integer words write them. -/
theorem foldr_eq_columns {α : Type} (n : Nat) (rows : List (List α)) :
    rows.foldr (fun a acc => List.zipWith (fun v c => v :: c) a acc) (List.replicate n []) = columns n rows := rfl

/-! ## Words -/

section
variable {s : State} {i : Instr} {r : VRes} {t : VI} {dest : BitVec 8} {mask : BitVec 3} {z u : Bool} {md : Option Mod}

/-- An arithmetic word gives its row where the model's operation on the list of sources is the statement's on the sources by
number. -/
theorem gives_vIntWord {srcs : List VOp} {op' : (Nat → Int) → Int} (hr : vin t dest srcs mask z u md op' = some r)
    {op : List Int → Int} (he : exec i s = .next (vIntWord s t dest srcs mask z u md op))
    (hop : ∀ a, op ((List.range srcs.length).map a) = op' a) : gives s i r := by
  cases hr
  simp only [vIntWord, Unit.vread_eq, zipIdx_eq_map_range srcs .vlat, List.map_map, Function.comp_def, intSrc_eq_srcInt,
    foldr_eq_columns, columns_map_range, foldl_labels, Unit.vlabel_eq, hop, intElement_eq_outInt, Unit.putElems_eq] at he
  exact gives_of_vWord he rfl Iff.rfl rfl

/-- The second source of a word on bits, where it has one. -/
theorem Unit.vread_second (x : Unit) (w n : Nat) (srcs : List VOp) :
    (if srcs.length > 1 then x.vread w n (srcs.getD 1 .vlat) else (List.replicate n 0, 0#8)) =
      ((List.range n).map fun j => if srcs.length > 1 then elemAt x w (srcs.getD 1 .vlat) j else 0,
        if srcs.length > 1 then elemLab x w (srcs.getD 1 .vlat) else 0#8) := by
  by_cases h : srcs.length > 1
  · simp only [if_pos h, Unit.vread_eq]
  · simp only [if_neg h, replicate_eq_map_range]

theorem orLabs_pair (a b : Label) : orLabs [a, b] = a ||| b := congrArg (a ||| ·) (orLabs_singleton b)

/-- So does one on the bits of its elements, of two sources or of one. -/
theorem gives_vBitWord {srcs : List VOp} {op' : Nat → (Nat → Nat) → Nat} (hr : vbi t dest srcs mask z op' = some r)
    {op : Nat → Nat → Nat → Nat} (he : exec i s = .next (vBitWord s t dest srcs mask z op))
    (hs : srcs.length = 1 ∨ srcs.length = 2)
    (hop : ∀ v : Nat → Nat, v 0 < 2 ^ viW t → v 1 < 2 ^ viW t →
      op (viW t) (v 0) (if srcs.length > 1 then v 1 else 0) = op' (viW t) v) : gives s i r := by
  cases hr
  simp only [vBitWord, Unit.vread_second] at he
  simp only [Unit.vread_eq, zipWith_range, Unit.vlabel_eq, Unit.putElems_eq] at he
  refine gives_of_vWord he (congrArg (· ||| _) ?label) (iff_of_true rfl trivial) (rowDone_congr fun j _ => ?elements)
  case label =>
    obtain h | h := hs
    · obtain ⟨a, rfl⟩ := List.length_eq_one_iff.mp h
      exact BitVec.or_zero.trans (orLabs_singleton _).symm
    · obtain ⟨a, b, rfl⟩ := List.length_eq_two.mp h
      exact (orLabs_pair ..).symm
  case elements =>
    exact hop (fun k => elemAt s.me (viW t) (srcs.getD k .vlat) j) (elemAt_lt ..) (elemAt_lt ..)

/-! ## The functions of R157 -/

/-- `a` without the bits of `b`. -/
theorem xor_and_eq {w a b : Nat} (ha : a < 2 ^ w) (hb : b < 2 ^ w) : a ^^^ (a &&& b) = a &&& (2 ^ w - 1 - b) := by
  refine Nat.eq_of_testBit_eq fun k => ?_
  rw [Nat.sub_sub, Nat.add_comm 1 b, Nat.testBit_xor, Nat.testBit_and, Nat.testBit_and, Nat.testBit_two_pow_sub_succ hb]
  by_cases hk : k < w
  · cases a.testBit k <;> simp [hk]
  · have : a.testBit k = false := Nat.testBit_lt_two_pow (ha.trans_le (Nat.pow_le_pow_right (by omega) (by omega)))
    simp [this]

/-- The zero bits above the highest that is set. -/
theorem leadingZeros_eq {w a : Nat} (ha : a < 2 ^ w) : (if a = 0 then w else w - 1 - a.log2) =
    ((List.range w).takeWhile fun i => !a.testBit (w - 1 - i)).length := by
  split
  · next h => rw [length_takeWhile_range (k := w) (Nat.le_refl _) (by simp [h]) (absurd · (Nat.lt_irrefl _))]
  · next h =>
    have hlog : a.log2 < w := (Nat.log2_lt h).mpr ha
    refine (length_takeWhile_range (by omega) (fun i hi => ?_) fun _ => ?_).symm
    · have hlt : a < 2 ^ (w - 1 - i) := (Nat.log2_lt h).mp (by omega)
      simp [Nat.testBit_lt_two_pow hlt]
    · have hk : w - 1 - (w - 1 - a.log2) = a.log2 := by omega
      simp [hk, Nat.testBit_log2 h]

/-- The words of R157 are what their rows say. -/
theorem gives_vectorInt (h : vectorInt i = some r) : gives s i r := by
  cases i with
  | viadd | visub | vimul | vimulh | vimad | vimin | vimax =>
    simp only [vectorInt] at h
    exact gives_vIntWord h rfl fun _ => rfl
  | vand | vor | vxor | vshl | vshr | vsar =>
    simp only [vectorInt] at h
    exact gives_vBitWord h rfl (.inr rfl) fun _ _ _ => rfl
  | vandn =>
    simp only [vectorInt] at h
    exact gives_vBitWord h rfl (.inr rfl) fun _ ha hb => xor_and_eq ha hb
  | vnot | vpopc =>
    simp only [vectorInt] at h
    exact gives_vBitWord h rfl (.inl rfl) fun _ _ _ => rfl
  | vclz =>
    simp only [vectorInt] at h
    exact gives_vBitWord h rfl (.inl rfl) fun _ ha _ => leadingZeros_eq ha
  | _ => exact nomatch h

end

/-- Settles O17: every such word gives its row, its function being the model's. -/
theorem vectorIntegerResult : Obligations.VectorIntegerResult := fun _ _ _ _ h => gives_vectorInt h

end Sys2Proof.Machine
end

section
/-! Rearrangement, windows and mode (spec 06, R149, R160, R161, R171, R172): places modulo the number of lanes and spans of
rows, then O19, O21 and O22. -/

namespace Sys2Proof.Machine

open Claims

/-! ## Moves -/

theorem Unit.readBc_eq (x : Unit) (b : Bc) : x.readBc b = bcVal x b := rfl

theorem lanes_eq_lanesOf (w : Nat) : lanes w = lanesOf w := rfl

theorem lanesOf_pos (w : VW) : 0 < lanesOf (vwW w) := by cases w <;> decide

/-- The elements at computed places, each taken modulo the number of lanes (R160). -/
theorem gather_range (w : VW) (v : Nat → Nat) (ix : List Int) :
    gather ((List.range (lanesOf (vwW w))).map v) ix = ix.map fun k => v (wrapped (vwW w) k) := by
  refine List.map_congr_left fun k _ => ?_
  have hpos : (0 : Int) < lanesOf (vwW w) := Int.natCast_pos.mpr (lanesOf_pos w)
  have hlt : (k % (lanesOf (vwW w) : Int)).toNat < lanesOf (vwW w) := by
    have := Int.emod_lt_of_pos k hpos
    omega
  simp [wrapped, hlt]

section
variable {s : State} {i : Instr} {r : VRes}

/-- A rearranging word gives its row. -/
theorem gives_vMoveWord {w : VW} {dest : BitVec 8} {rows : List (BitVec 8)} {mask : BitVec 3} {z : Bool} {lat : Nat}
    {l : Label} {el : Unit → Nat → Nat} {lab : Unit → Label}
    (he : exec i s = .next (vMoveWord s w dest rows mask z lat l ((List.range (lanesOf (vwW w))).map (el s.me))))
    (hl : l ||| frame s.me mask none false = lab s.me) :
    gives s i { dest := dest, rows := rows, mask := mask, z := z, w := vwW w, lat := lat, n := lanesOf (vwW w),
                el := el, lab := lab } := by
  simp only [vMoveWord, Unit.vlabel_eq, Unit.putElems_eq] at he
  exact gives_of_vWord he hl (iff_of_true rfl trivial) rfl

theorem gives_vsel {h : Hdr} {w : VW} {dest : BitVec 8} {a b : VOp} {mask : BitVec 3}
    (hr : vectorMove (.vsel h w dest a b mask) = some r) : gives s (.vsel h w dest a b mask) r := by
  cases hr
  have he : exec (.vsel h w dest a b mask) s = execVsel h w dest a b mask s := rfl
  simp only [execVsel, Unit.vread_eq, Unit.enabled_eq, Unit.vlabel_eq, zip_range, zipWith_range, Unit.putElems_eq] at he
  exact gives_of_vWord he rfl (iff_of_true rfl trivial) rfl

theorem gives_vmpop {h : Hdr} {dest : BitVec 8} {a : BitVec 3} (hr : vectorMove (.vmpop h dest a) = some r) :
    gives s (.vmpop h dest a) r := by
  cases hr
  have he : exec (.vmpop h dest a) s = execVmpop h dest a s := rfl
  have hz (v : Nat) : v :: List.replicate 127 0 = (List.range 128).map fun j => if j = 0 then v else 0 :=
    cons_zeros_eq (n := 128) (by decide) v
  simp only [execVmpop, execVmpop.popBits512, Unit.mreg_testBit, Unit.mreg_l, hz, Unit.putElems_eq] at he
  exact gives_of_vWord he rfl (iff_of_true rfl trivial) rfl

/-- The words of R149 and R160, and VMPOP, are what their rows say. -/
theorem gives_vectorMove (h : vectorMove i = some r) : gives s i r := by
  cases i with
  | vmov h w f =>
    cases h
    have he : exec (.vmov h w f) s = execVmov h w f s := rfl
    simp only [execVmov, Unit.vread_eq] at he
    exact gives_vMoveWord he rfl
  | vbcast h w f b =>
    cases h
    have he : exec (.vbcast h w f b) s = execVbcast h w f b s := rfl
    simp only [execVbcast, Unit.vread_eq, Unit.readBc_eq, lanes_eq_lanesOf, replicate_eq_map_range, gather_range,
      List.map_map] at he
    exact gives_vMoveWord he rfl
  | viota h w dest a b mask z =>
    cases h
    have he : exec (.viota h w dest a b mask z) s = execViota h w dest a b mask z s := rfl
    simp only [execViota, Unit.readBc_eq, lanes_eq_lanesOf] at he
    exact gives_vMoveWord he rfl
  | vperm h w f =>
    cases h
    have he : exec (.vperm h w f) s = execVperm h w f s := rfl
    simp only [execVperm, Unit.vread_eq, lanes_eq_lanesOf, gather_range, List.map_map] at he
    exact gives_vMoveWord he rfl
  | vrotl h w f b =>
    cases h
    have he : exec (.vrotl h w f b) s = execVrotl h w f b s := rfl
    simp only [execVrotl, Unit.vread_eq, Unit.readBc_eq, lanes_eq_lanesOf, gather_range, List.map_map] at he
    exact gives_vMoveWord he rfl
  | vsel => exact gives_vsel h
  | vmpop => exact gives_vmpop h
  | _ => exact nomatch h

end

/-- Settles O19: every such word gives its row. -/
theorem vectorMoveResult : Obligations.VectorMoveResult := fun _ _ _ _ h => gives_vectorMove h

/-! ## Zips -/

/-- Row `i` of a span, or of the even rows of a span of pairs (R161). -/
def spanRow (k : Nat) (r : BitVec 8) (i : Nat) : BitVec 8 := r + BitVec.ofNat 8 (if k = 64 then 2 * i else i)

theorem spanRows_eq (w : VW) (r : BitVec 8) (n : Nat) : spanRows w r n = (List.range n).map (spanRow (vwW w) r) := by
  refine List.map_congr_left fun i _ => ?_
  cases w <;> simp [spanRow, vwW, Nat.mul_comm]

theorem zipIdx_range_map {α : Type} (n : Nat) (f : Nat → α) :
    ((List.range n).map f).zipIdx = (List.range n).map fun i => (f i, i) := by
  apply List.ext_getElem <;> simp

/-- The rows a zip writes one after another, each element from its place among the sources. -/
def zipDone (x : Unit) (k n : Nat) (dest a : BitVec 8) (mask : BitVec 3) (z : Bool) (l : Label)
    (place : Nat → Nat → Nat × Nat) : Unit :=
  (List.range n).foldl (fun y i => rowDone y (spanRow k dest i) k (3 + i) (lanesOf k)
    (fun j => elemAt x k (.row (spanRow k a (place i j).1)) (place i j).2) mask z l 0#5) x

/-- L of a zip (R143). -/
def zipLab (x : Unit) (k n : Nat) (a : BitVec 8) (mask : BitVec 3) : Label :=
  orLabs ((List.range n).map fun i => elemLab x k (.row (spanRow k a i))) ||| frame x mask none false

theorem foldl_rowLabels (x : Unit) (k m : Nat) (row : Nat → BitVec 8) (n : Nat) (l : Label) :
    (((List.range n).map row).map fun r => x.vread k m (.row r)).foldl (fun l e => l ||| e.2) l =
      l ||| orLabs ((List.range n).map fun i => elemLab x k (.row (row i))) := by
  simp only [Unit.vread_eq, List.map_map]
  rw [← foldl_or_eq_orLabs, List.foldl_map, List.foldl_map]
  rfl

/-- A zip whose places are all among its sources: its rows, one after another. -/
theorem vZipWord_eq {s : State} {w : VW} {n : Nat} {dest a : BitVec 8} {mask : BitVec 3} {z : Bool}
    {place : Nat → Nat → Nat → Nat × Nat}
    (hp : ∀ i < n, ∀ j < lanesOf (vwW w), (place (lanesOf (vwW w)) i j).1 < n ∧
      (place (lanesOf (vwW w)) i j).2 < lanesOf (vwW w))
    (hu : usable s.me ((List.range n).map (spanRow (vwW w) dest) ++ (List.range n).map (spanRow (vwW w) a))) :
    vZipWord s w dest a n mask z place =
      s.modMe fun x => zipDone x (vwW w) n dest a mask z (zipLab s.me (vwW w) n a mask) (place (lanesOf (vwW w))) := by
  simp only [vZipWord, spanRows_eq, lanes_eq_lanesOf, foldl_rowLabels, Unit.vlabel_eq]
  rw [vWord_of_usable hu rfl]
  refine s.modMe_congr _ _ ?_
  rw [zipIdx_range_map, List.foldl_map, BitVec.or_comm]
  refine List.foldl_ext _ _ _ fun y i hi => ?_
  rw [Unit.putElems_eq]
  refine rowDone_congr fun j hj => ?_
  obtain ⟨h1, h2⟩ := hp i (List.mem_range.mp hi) j hj
  simp [Unit.vread_eq, h1, h2]

/-- Settles O21: the stream's places are those of the sources. -/
theorem vectorZip : Obligations.VectorZip := by
  intro s h w dest a n1 mask z _ n k m span lab rows put hu
  have hn : 0 < n := Nat.succ_pos _
  have hm : 0 < m := lanesOf_pos w
  -- a place among `n` sources of `m` elements
  have hlt {p q b c : Nat} (hp : p < b) (hq : q < c) : c * p + q < c * b :=
    calc c * p + q < c * p + c := Nat.add_lt_add_left hq _
      _ = c * (p + 1) := (Nat.mul_succ ..).symm
      _ ≤ c * b := Nat.mul_le_mul_left c hp
  constructor
  · refine congrArg _ ((vZipWord_eq (n := n) (fun i hi j hj => ⟨Nat.mod_lt _ hn, Nat.div_lt_of_lt_mul ?_⟩) hu).trans rfl)
    rw [Nat.mul_comm i, Nat.mul_comm n]
    exact hlt hi hj
  · refine congrArg _ ((vZipWord_eq (n := n) (fun i hi j hj => ⟨Nat.div_lt_of_lt_mul ?_, Nat.mod_lt _ hm⟩) hu).trans rfl)
    rw [Nat.mul_comm (lanesOf _)]
    exact hlt hj hi

/-! ## Windows and mode -/

/-- Settles O22: each word has its one effect, at issue + 1. -/
theorem windowAndMode : Obligations.WindowAndMode := fun _ _ _ _ _ _ _ => ⟨rfl, rfl⟩

end Sys2Proof.Machine
end

section
/-! Masks (spec 06, R148, R158, R162): a mask as the bits of a number, what a word with a mask result does, then O20. -/

namespace Sys2Proof.Machine

open Claims

/-! ## The bits of a mask -/

theorem fields_congr {w n : Nat} {f g : Nat → Nat} (h : ∀ j < n, f j = g j) : fields w n f = fields w n g :=
  congrArg (pack w) (List.map_congr_left fun j hj => h j (List.mem_range.mp hj))

/-- A number is the fields of one bit that its bits are. -/
theorem fields_testBit (v n : Nat) : fields 1 n (fun j => if v.testBit j then 1 else 0) = v % 2 ^ n := by
  induction n generalizing v with
  | zero => simp [fields, pack, Nat.mod_one]
  | succ n ih =>
    have hrest : fields 1 n (fun j => if v.testBit (j + 1) then 1 else 0) = v / 2 % 2 ^ n := by
      simpa only [Nat.testBit_succ] using ih (v / 2)
    have hfirst : fields 1 (n + 1) (fun j => if v.testBit j then 1 else 0) =
        (if v.testBit 0 then 1 else 0) % 2 ^ 1 + fields 1 n (fun j => if v.testBit (j + 1) then 1 else 0) * 2 ^ 1 := by
      rw [fields, List.range_succ_eq_map, List.map_cons, List.map_map]
      rfl
    have hlow : (if v.testBit 0 then 1 else 0) % 2 ^ 1 = v % 2 := by
      rw [Nat.testBit_zero]
      rcases Nat.mod_two_eq_zero_or_one v with h | h <;> simp [h]
    rw [hfirst, hrest, hlow, Nat.pow_one, Nat.pow_succ', Nat.mod_mul, Nat.mul_comm]

theorem ofNat_mod_two_pow (n v : Nat) : BitVec.ofNat n (v % 2 ^ n) = BitVec.ofNat n v := by
  simp [BitVec.toNat_eq]

theorem maskBit_m0 (x : Unit) {j : Nat} (h : j < 512) : maskBit x 0#3 j = true := decide_eq_true h

/-- The whole mask written (R162): its bits are those of the number. -/
theorem Unit.putMask_whole (x : Unit) (d : BitVec 3) {v : Nat} {b : Nat → Bool} (hb : ∀ j < 512, b j = v.testBit j)
    (l : Label) : x.putMask d v 0 true l = maskDone x d 512 b 0#3 false l := by
  have hv : fields 1 512 (fun j => if maskBit x 0#3 j && b j then 1 else 0) = v % 2 ^ 512 := by
    rw [← fields_testBit]
    exact fields_congr fun j hj => by rw [maskBit_m0 x hj, hb j hj, Bool.true_and]
  have hk : fields 1 512 (fun j => if !maskBit x 0#3 j && !false then 1 else 0) = 0 := by
    refine (fields_congr fun j hj => ?_).trans ((fields_testBit 0 512).trans (Nat.zero_mod _))
    rw [maskBit_m0 x hj, Nat.zero_testBit]
    rfl
  rw [maskDone, hv, hk, ofNat_mod_two_pow]
  rfl

/-! ## Words with a mask result -/

/-- What a word with a mask result does: its mask, or ILLEGAL_OPERAND where a row is unusable. -/
def givesMask (s : State) (i : Instr) (r : MaskRes) : Prop :=
  (usable s.me r.rows → exec i s = .next (s.modMe fun x => maskDone x r.d r.n (r.bit x) r.mask r.z (r.lab x)))
  ∧ (¬ usable s.me r.rows → exec i s = .next (s.fail lanV fIllegalOperand 0 (r.lab s.me)))

section
variable {s : State} {i : Instr} {r : MaskRes}

theorem givesMask_of_vWord {l : Label} {k : Unit → Unit} (he : exec i s = .next (vWord s r.rows false l k))
    (hl : l = r.lab s.me) (hk : k s.me = maskDone s.me r.d r.n (r.bit s.me) r.mask r.z l) : givesMask s i r := by
  subst hl
  constructor
  · intro hu
    rw [he, vWord_of_usable hu rfl]
    exact congrArg _ (s.modMe_congr _ _ hk)
  · intro h
    rw [he, vWord_of_bad fun hu => h hu.1]

/-- A mask word whose bits are those of a number. -/
theorem givesMask_of_vMaskWord {d : BitVec 3} {srcs : List (BitVec 3)} {v : Nat} {b : Unit → Nat → Bool}
    {lab : Unit → Label} (he : exec i s = .next (vMaskWord s d srcs v)) (hb : ∀ j < 512, b s.me j = v.testBit j)
    (hl : srcs.foldl (fun l m => l ||| maskLab s.me m) s.me.iss.lab = lab s.me) :
    givesMask s i ⟨d, [], 0#3, false, 512, b, lab⟩ := by
  refine givesMask_of_vWord (he.trans rfl) ?_ (Unit.putMask_whole s.me d hb _)
  simp only [Unit.mreg_l]
  exact hl

theorem givesMask_maskOp2 {d a b : BitVec 3} {op : Bool → Bool → Bool} (hr : maskOp2 d a b op = some r) {v : Nat}
    (he : exec i s = .next (vMaskWord s d [a, b] v))
    (hop : ∀ j, op ((s.me.mreg a).v.toNat.testBit j) ((s.me.mreg b).v.toNat.testBit j) = v.testBit j) :
    givesMask s i r := by
  cases hr
  refine givesMask_of_vMaskWord he (fun j _ => ?_) rfl
  rw [← hop, Unit.mreg_testBit, Unit.mreg_testBit]

theorem givesMask_vmnot {h : Hdr} {d a : BitVec 3} (hr : maskResult (.vmnot h d a) = some r) :
    givesMask s (.vmnot h d a) r := by
  cases hr
  refine givesMask_of_vMaskWord (he := rfl) (fun j hj => ?_) rfl
  rw [Nat.sub_sub, Nat.add_comm 1, Nat.testBit_two_pow_sub_succ (s.me.mreg a).v.isLt, Unit.mreg_testBit, decide_eq_true hj,
    Bool.true_and]

theorem givesMask_vcmp {h : Hdr} {t : VF} {f : VCm} {cc : FCond} {md : Option Mod}
    (hr : maskResult (.vcmp h t f cc md) = some r) : givesMask s (.vcmp h t f cc md) r := by
  cases hr
  have he : exec (.vcmp h t f cc md) s = execVcmp h t f cc md s := rfl
  simp only [execVcmp, Unit.vsources_eq, Unit.vlabel_eq, List.map_map, Unit.putCmp_eq, List.map_cons, List.map_nil,
    orLabs_pair] at he
  exact givesMask_of_vWord he rfl rfl

/-- A source of a comparison (R158). -/
theorem intSrcCmp_eq_cmpInt (u : Bool) {w v : Nat} (ng ab : Bool) (hv : v < 2 ^ w) :
    intSrcCmp u w ng ab v = cmpInt u w ng ab v := by
  cases u with
  | false => simp only [intSrcCmp, intSrc, cmpInt, signed]; rfl
  | true =>
    cases ng with
    | false => rfl
    | true =>
      simp only [intSrcCmp, cmpInt, if_true, Int.natCast_emod, Nat.cast_sub hv.le, Nat.cast_pow, Nat.cast_ofNat]

theorem icondZ_eq_ordered (cc : ICond) (a b : Int) : icondZ cc a b = ordered cc a b := by
  cases cc <;> simp [icondZ, ordered]

theorem givesMask_vicmp {h : Hdr} {t : VI} {f : VCm} {cc : ICond} {md : Option Mod}
    (hr : maskResult (.vicmp h t f cc md) = some r) : givesMask s (.vicmp h t f cc md) r := by
  cases hr
  have he : exec (.vicmp h t f cc md) s = execVicmp h t f cc md s := rfl
  simp only [execVicmp, Unit.vread_eq, Unit.vlabel_eq, zipWith_range, Unit.putCmp_eq, icondZ_eq_ordered,
    intSrcCmp_eq_cmpInt _ _ _ (elemAt_lt ..)] at he
  exact givesMask_of_vWord he rfl rfl

/-- The comparisons and the mask words are what their rows say. -/
theorem givesMask_maskResult (h : maskResult i = some r) : givesMask s i r := by
  cases i with
  | vcmp => exact givesMask_vcmp h
  | vicmp => exact givesMask_vicmp h
  | vmand => exact givesMask_maskOp2 h rfl fun _ => (Nat.testBit_and ..).symm
  | vmor => exact givesMask_maskOp2 h rfl fun _ => (Nat.testBit_or ..).symm
  | vmxor => exact givesMask_maskOp2 h rfl fun _ => (Nat.testBit_xor ..).symm
  | vmnot => exact givesMask_vmnot h
  | _ => exact nomatch h

end

/-- Settles O20: every such word gives its mask. -/
theorem maskResult : Obligations.MaskResult := fun _ _ _ _ h => givesMask_maskResult h

end Sys2Proof.Machine
end

section
/-! V memory (spec 06, R163 to R170; 10, R273, R275): the elements of an access, where they lie and which of them is
recorded, then O23. -/

namespace Sys2Proof.Machine

open Claims

/-! ## What an access reads at its issue -/

theorem State.vaccLabel_eq (s : State) (f : VM) (a : VAcc) : s.vaccLabel f a = accLab s.me f a := by
  rw [State.vaccLabel, Unit.vlabel_eq, accLab]

/-- The index elements of VGTH and VSCT, signed (R167). -/
theorem Unit.indices_eq (x : Unit) (w : Nat) (ix : VIx) : x.indices w ix =
    ((List.range (lanesOf w)).map fun j => signed w (elemAt x w (ixOp ix) j), elemLab x w (ixOp ix)) := by
  cases ix <;> simp only [Unit.indices, Unit.vread_eq, List.map_map] <;> rfl

theorem ixRows_eq (ix : VIx) : ixRows ix = ixRow ix := by cases ix <;> rfl

/-- The elements of VLD and VST (R166). -/
theorem rowIx_eq (x : Unit) (mask : BitVec 3) (m : Nat) :
    (((List.range m).filter fun j => maskBit x mask j).map fun j => (j, Int.ofNat j)) = rowIx x mask m := rfl

/-- Those of VGTH and VSCT (R167). -/
theorem namedIx_eq (x : Unit) (mask : BitVec 3) (w : Nat) (ix : VIx) :
    ((((List.range (lanesOf w)).map fun j => signed w (elemAt x w (ixOp ix) j)).zipIdx.filter
      fun e => maskBit x mask e.2).map fun e => (e.2, e.1)) = namedIx x mask w ix := by
  rw [zipIdx_range_map, List.filter_map, List.map_map]
  rfl

theorem mem_rowIx_lt {x : Unit} {mask : BitVec 3} {m : Nat} {e : Nat × Int} (h : e ∈ rowIx x mask m) : e.1 < m := by
  obtain ⟨j, hj, rfl⟩ := List.mem_map.mp h
  exact List.mem_range.mp (List.mem_filter.mp hj).1

theorem mem_namedIx_lt {x : Unit} {mask : BitVec 3} {w : Nat} {ix : VIx} {e : Nat × Int} (h : e ∈ namedIx x mask w ix) :
    e.1 < lanesOf w := by
  obtain ⟨j, hj, rfl⟩ := List.mem_map.mp h
  exact List.mem_range.mp (List.mem_filter.mp hj).1

/-! ## Elements inside and outside the box -/

theorem flatMap_if {α β : Type} (p : α → Bool) (f : α → List β) (l : List α) :
    (l.flatMap fun e => if p e then f e else []) = (l.filter p).flatMap f := by
  induction l with
  | nil => rfl
  | cons e l ih => cases h : p e <;> simp [h, ih]

theorem VAcc.items_eq (a : VAcc) (ix : List (Nat × Int)) : a.items ix = placed a ix := by
  rw [placed, ← flatMap_if]
  exact List.flatMap_congr fun _ _ => rfl

/-- The bytes stored are those of the elements inside the box (R166, R167). -/
theorem VAcc.bytes_eq (x : Unit) (a : VAcc) (reg : BitVec 8) {n : Nat} {ix : List (Nat × Int)} (h : ∀ e ∈ ix, e.1 < n) :
    a.bytes ((List.range n).map (elemAt x a.w (.row reg))) ix = stored x a reg ix := by
  refine (flatMap_if (fun e => a.box.has (coordAt a e.2)) (fun e => (leBytes (a.box.loc (coordAt a e.2)).bytes
    (((List.range n).map (elemAt x a.w (.row reg))).toArray.getD e.1 0)).zipIdx.map
      fun b => ((a.box.loc (coordAt a e.2)).addr + b.2, b.1)) ix).trans ?_
  refine List.flatMap_congr fun e he => ?_
  simp [h e (List.mem_filter.mp he).1]

/-- A record of an element outside the box (R275), at the issue. -/
theorem VAcc.record_some {x : Unit} (ht : x.iss.timed = true) (a : VAcc) (kind e : Nat) (c : Quad Int) (l : Label) :
    VAcc.record x a kind (some (e, c)) l =
      addEffs x [(0, phNow, recLn lanV, .boxrec kind lanV a.h.slot.toNat x.iss.cyc e l (a.box.detail c))] := if_pos ht

theorem VAcc.record_firstBad {x : Unit} (ht : x.iss.timed = true) (a : VAcc) (kind : Nat) (ix : List (Nat × Int))
    (l : Label) : VAcc.record x a kind (a.firstBad ix) l = outside x a kind ix l := by
  rw [VAcc.firstBad, outside]
  show VAcc.record x a kind ((ix.find? fun e => !a.box.has (coordAt a e.2)).map _) l = _
  cases ix.find? fun e => !a.box.has (coordAt a e.2) with
  | none => rfl
  | some e => exact VAcc.record_some ht a kind e.1 _ l

theorem VAcc.load_eq (x : Unit) (a : VAcc) (reg : BitVec 8) (items : List (Nat × Loc)) (n : Nat) (off : Nat → Bool)
    (z whole : Bool) (l : Label) : VAcc.load x a reg items ((List.range n).map off) (if a.w = 64 then 32 else a.w) z whole l =
      loaded x a reg items n off z whole l := by
  simp only [VAcc.load, fieldMask_range]
  rfl

/-- The handle advanced (R163). -/
theorem VAcc.advance_eq (x : Unit) (d : BitVec 4) (a : VAcc) (n : Nat) (adv : Bool) :
    VAcc.advance x d a n adv = stepped x d a n adv := by
  cases adv with
  | false => rfl
  | true => by_cases h : 2 ≤ a.box.rank <;> simp only [VAcc.advance, stepped, h, if_true, if_false] <;> rfl

/-! ## Loads -/

section
variable {s : State} (h : Hdr) (w : VW) (f : VM)

theorem exec_vld_flat {a : VAcc} (ha : s.vacc w f = a) {l : Label} (hl : accLab s.me f a = l) (adv z : Bool) (hi : issuing s)
    (hu : usable s.me [f.reg]) (hb : accessible a false) (hf : flatBox a.box) :
    exec (.vld h w f adv z) s = .next (s.modMe fun x =>
      let n := lanesOf a.w
      let m := min n (a.h.extN 0)
      let es := rowIx x f.mask m
      stepped (loaded (outside x a kRead es l) a f.reg (placed a es) n
        (fun j => !(decide (j < m) && maskBit x f.mask j)) z (z || (decide (f.mask = 0#3) && decide (m = n))) l)
        f.d a m adv) := by
  obtain ⟨hz, h6, h4⟩ := hf
  have hoff (m j : Nat) (b : Bool) : (decide (j ≥ m) || !b) = !(decide (j < m) && b) := by
    rw [Bool.not_and, ← decide_not]
    simp only [Nat.not_lt]
  show execVld h w f adv z s = _
  simp only [execVld, ha, State.vaccLabel_eq, hl, Unit.mreg_testBit, hz, h6, h4, Bool.or_self, Bool.false_eq_true, if_false,
    lanes_eq_lanesOf, rowIx_eq, VAcc.items_eq, VAcc.load_eq, VAcc.advance_eq, hoff]
  rw [vWord_of_usable hu hb]
  refine congrArg _ (s.modMe_congr _ _ ?_)
  rw [VAcc.record_firstBad hi.1]

theorem exec_vgth {a : VAcc} (ha : s.vacc w f = a) (ix : VIx) (hi : issuing s) {l : Label}
    (hl : accLab s.me f a ||| elemLab s.me a.w (ixOp ix) = l)
    (hu : usable s.me (f.reg :: ixRow ix)) (hb : accessible a true) :
    exec (.vgth h w f ix) s = .next (s.modMe fun x =>
      let es := namedIx x f.mask a.w ix
      loaded (outside x a kRead es l) a f.reg (placed a es) (lanesOf a.w) (fun j => !maskBit x f.mask j) false
        (decide (f.mask = 0#3)) l) := by
  show execVgth h w f ix s = _
  simp only [execVgth, ha, State.vaccLabel_eq, Unit.indices_eq, hl, Unit.mreg_testBit, ixRows_eq, lanes_eq_lanesOf,
    namedIx_eq, VAcc.items_eq, VAcc.load_eq]
  rw [vWord_of_usable hu hb]
  refine congrArg _ (s.modMe_congr _ _ ?_)
  rw [VAcc.record_firstBad hi.1]

end

/-- Settles O23: each load under its checks, and without them. -/
theorem vectorLoad : Obligations.VectorLoad := by
  intro s h w f ix adv z hi a n m l lg
  refine ⟨fun hu hb hf => exec_vld_flat h w f rfl rfl adv z hi hu hb hf, fun hu hb => exec_vgth h w f rfl ix hi rfl hu hb,
    fun hn => ?vld, fun hn => ?vgth⟩
  case vld =>
    show execVld h w f adv z s = _
    simp only [execVld, State.vaccLabel_eq]
    exact congrArg _ (vWord_of_bad hn)
  case vgth =>
    show execVgth h w f ix s = _
    simp only [execVgth, State.vaccLabel_eq, Unit.indices_eq, ixRows_eq]
    exact congrArg _ (vWord_of_bad hn)

end Sys2Proof.Machine
end

section
/-! V stores (spec 06, R164, R166, R167): what a store is held to and the elements it stores, then O24. -/

namespace Sys2Proof.Machine

open Claims

/-! ## The checks of a store -/

section
variable {s : State} {a : VAcc} {rows : List (BitVec 8)} {plain : Bool} {l : Label} {k : Unit → Unit}

theorem vStore_of_bad (h : ¬ (usable s.me rows ∧ accessible a plain)) :
    vStore s a rows plain l k = s.fail lanV fIllegalOperand 0 l := by
  refine if_pos ?_
  rw [← Unit.usable_iff, accessible, and_comm, ← Bool.or_eq_false_iff] at h
  exact Bool.of_not_eq_false h

variable (hu : usable s.me rows) (hb : accessible a plain)
include hu hb

/-- With its rows usable and its access sound, a store is held to the box's mode and label (R164, R166). -/
theorem vStore_of_accessible : vStore s a rows plain l k =
    if a.box.mode = .in_ then s.failBox lanV fPermission 0 l a.h.slot.toNat (a.box.detail (coordAt a 0))
    else if !Label.sub l a.box.lab then s.failBox lanV fLabelFlow 1 l a.h.slot.toNat (a.box.detail (coordAt a 0))
    else s.modMe k :=
  if_neg (by rw [(Unit.usable_iff ..).mpr hu, show a.bad plain = false from hb]; exact Bool.false_ne_true)

theorem vStore_of_in (hm : a.box.mode = .in_) :
    vStore s a rows plain l k = s.failBox lanV fPermission 0 l a.h.slot.toNat (a.box.detail (coordAt a 0)) :=
  (vStore_of_accessible hu hb).trans (if_pos hm)

variable (hm : a.box.mode ≠ .in_)
include hm

theorem vStore_of_label (hl : Label.sub l a.box.lab = false) :
    vStore s a rows plain l k = s.failBox lanV fLabelFlow 1 l a.h.slot.toNat (a.box.detail (coordAt a 0)) :=
  (vStore_of_accessible hu hb).trans ((if_neg hm).trans (if_pos (by rw [hl]; rfl)))

theorem vStore_of_ok (hl : Label.sub l a.box.lab = true) : vStore s a rows plain l k = s.modMe k :=
  (vStore_of_accessible hu hb).trans ((if_neg hm).trans (if_neg (by rw [hl]; exact Bool.false_ne_true)))

end

/-! ## Stores of elements -/

section
variable {s : State} (h : Hdr) (w : VW) (f : VM) {a : VAcc} (ha : s.vacc w f = a)
include ha

/-- VST is a store, whatever its box's layout. -/
theorem exec_vst (adv : Bool) : ∃ k, exec (.vst h w f adv) s =
    .next (vStore s a [f.reg] false (accLab s.me f a ||| elemLab s.me a.w (.row f.reg)) k) := by
  have hr : (s.me.vread a.w (lanes a.w) (.row f.reg)).2 = elemLab s.me a.w (.row f.reg) := by rw [Unit.vread_eq]
  rw [← State.vaccLabel_eq, ← hr]
  subst ha
  exact ⟨_, rfl⟩

/-- So is VSCT. -/
theorem exec_vsct (ix : VIx) : ∃ k, exec (.vsct h w f ix) s = .next (vStore s a (f.reg :: ixRow ix) true
    (accLab s.me f a ||| elemLab s.me a.w (ixOp ix) ||| elemLab s.me a.w (.row f.reg)) k) := by
  have hr : (s.me.vread a.w (lanes a.w) (.row f.reg)).2 = elemLab s.me a.w (.row f.reg) := by rw [Unit.vread_eq]
  have hi : (s.me.indices a.w ix).2 = elemLab s.me a.w (ixOp ix) := by rw [Unit.indices_eq]
  rw [← State.vaccLabel_eq, ← hr, ← hi, ← ixRows_eq]
  subst ha
  exact ⟨_, rfl⟩

variable (hi : issuing s) {l : Label} (hm : a.box.mode ≠ .in_) (hs : Label.sub l a.box.lab = true)
include hi hm hs

/-- VST to a box that is neither packed nor ZMASK (R166). -/
theorem exec_vst_flat (hl : accLab s.me f a ||| elemLab s.me a.w (.row f.reg) = l) (hu : usable s.me [f.reg])
    (hb : accessible a false) (hf : flatBox a.box) (adv : Bool) :
    exec (.vst h w f adv) s = .next (s.modMe fun x =>
      let m := min (lanesOf a.w) (a.h.extN 0)
      let es := rowIx x f.mask m
      stepped (addEffs (outside x a kWrite es l) [(5, phWrite, lnV, .store (stored x a f.reg es))]) f.d a m adv) := by
  obtain ⟨hz, h6, h4⟩ := hf
  show execVst h w f adv s = _
  simp only [execVst, ha, State.vaccLabel_eq, Unit.vread_eq, hl, Unit.mreg_testBit, hz, h6, h4, Bool.or_self,
    Bool.false_eq_true, if_false, lanes_eq_lanesOf, rowIx_eq, VAcc.advance_eq]
  rw [vStore_of_ok hu hb hm hs]
  refine congrArg _ (s.modMe_congr _ _ ?_)
  rw [VAcc.record_firstBad hi.1, VAcc.bytes_eq _ _ _ fun e he => (mem_rowIx_lt he).trans_le (Nat.min_le_left ..)]
  rfl

/-- VSCT (R167). -/
theorem exec_vsct_elements (ix : VIx)
    (hl : accLab s.me f a ||| elemLab s.me a.w (ixOp ix) ||| elemLab s.me a.w (.row f.reg) = l)
    (hu : usable s.me (f.reg :: ixRow ix)) (hb : accessible a true) :
    exec (.vsct h w f ix) s = .next (s.modMe fun x =>
      let es := namedIx x f.mask a.w ix
      addEffs (outside x a kWrite es l) [(5, phWrite, lnV, .store (stored x a f.reg es))]) := by
  show execVsct h w f ix s = _
  simp only [execVsct, ha, State.vaccLabel_eq, Unit.indices_eq, Unit.vread_eq, hl, Unit.mreg_testBit, ixRows_eq,
    lanes_eq_lanesOf, namedIx_eq]
  rw [vStore_of_ok hu hb hm hs]
  refine congrArg _ (s.modMe_congr _ _ ?_)
  rw [VAcc.record_firstBad hi.1, VAcc.bytes_eq _ _ _ fun e he => mem_namedIx_lt he]
  rfl

end

/-- Settles O24: each store under its checks, and without one of them. -/
theorem vectorStore : Obligations.VectorStore := by
  constructor
  · intro s h w f ix adv hi a m l ls
    exact ⟨fun hu hb hf hm hs => exec_vst_flat h w f rfl hi hm hs rfl hu hb hf adv,
      fun hu hb hm hs => exec_vsct_elements h w f rfl hi hm hs ix rfl hu hb⟩
  · intro s h w f ix adv hi a l ls say
    obtain ⟨k, hk⟩ := exec_vst h w f (s := s) rfl adv
    obtain ⟨k', hk'⟩ := exec_vsct h w f (s := s) rfl ix
    rw [hk, hk']
    exact ⟨fun hn => congrArg _ (vStore_of_bad hn), fun hu hb hm => congrArg _ (vStore_of_in hu hb hm),
      fun hu hb hm hl => congrArg _ (vStore_of_label hu hb hm hl), fun hn => congrArg _ (vStore_of_bad hn),
      fun hu hb hm => congrArg _ (vStore_of_in hu hb hm), fun hu hb hm hl => congrArg _ (vStore_of_label hu hb hm hl)⟩

end Sys2Proof.Machine
end

section
/-! V loads and stores of packed and of ZMASK boxes (spec 06, R165, R169, R170): bytes of groups, and one group of
elements, then O25. -/

namespace Sys2Proof.Machine

open Claims

/-! ## Widths and groups -/

/-- The elements of a box that a word may access are of the word's width, those of a packed box bytes (R164, R165). -/
theorem width_of_accessible {a : VAcc} {plain : Bool} (h : accessible a plain) :
    a.w = if layFp6 a.box.layout || layFp4 a.box.layout then 8 else layWidth a.box.layout := by
  simp only [accessible, VAcc.bad, layFits, Bool.or_eq_false_iff, Bool.not_eq_false', Bool.and_eq_true,
    decide_eq_true_eq] at h
  exact h.1.2.2

/-- A ZMASK group is one row of elements (R169). -/
theorem zmask_width {a : VAcc} (h : accessible a false) (hz : layZmask a.box.layout = true) :
    a.w ≠ 64 ∧ lanesOf a.w = layGroup a.box.layout := by
  have hw := width_of_accessible h
  rw [layZmask, Bool.or_eq_true, decide_eq_true_eq, decide_eq_true_eq] at hz
  obtain hl | hl := hz <;> rw [hl] at hw ⊢ <;> rw [hw] <;> decide

theorem packed_width {a : VAcc} (h : accessible a false) (hp : (layFp6 a.box.layout || layFp4 a.box.layout) = true) :
    a.w = 8 := (width_of_accessible h).trans (if_pos hp)

/-- The whole of a ZMASK group lies in the box (log 85). -/
def groupInside (a : VAcc) : Bool :=
  a.box.has (coordAt a 0) && a.box.has (coordAt a ((layGroup a.box.layout : Int) - 1))

theorem groupInside_eq (a : VAcc) :
    (a.box.has (a.at 0) && a.box.has (a.at ((layGroup a.box.layout - 1 : Nat) : Int))) = groupInside a := by
  have hg : 1 ≤ layGroup a.box.layout := by unfold layGroup; split <;> decide
  rw [Nat.cast_sub hg]
  rfl

/-- The record of an access, if it has one (R275). -/
def noted (x : Unit) (a : VAcc) (kind : Nat) (l : Label) (b : Option (Nat × Quad Int)) : Unit :=
  match b with
  | some (e, c) => addEffs x [(0, phNow, recLn lanV, .boxrec kind lanV a.h.slot.toNat x.iss.cyc e l (a.box.detail c))]
  | none => x

theorem noted_iss (x : Unit) (a : VAcc) (kind : Nat) (l : Label) (b : Option (Nat × Quad Int)) :
    (noted x a kind l b).iss = x.iss := by cases b <;> rfl

theorem noted_vplace (x : Unit) (a : VAcc) (kind : Nat) (l : Label) (b : Option (Nat × Quad Int)) (r : BitVec 8) :
    (noted x a kind l b).vplace r = x.vplace r := by cases b <;> rfl

theorem VAcc.record_eq_noted {x : Unit} (ht : x.iss.timed = true) (a : VAcc) (kind : Nat) (b : Option (Nat × Quad Int))
    (l : Label) : VAcc.record x a kind b l = noted x a kind l b := by
  cases b with
  | none => rfl
  | some e => exact VAcc.record_some ht a kind e.1 e.2 l

/-- Bits that a load leaves to the mask. -/
theorem fieldMask_off (w n : Nat) (b : Nat → Bool) :
    fieldMask w ((List.range n).map fun j => !b j) = fields w n fun j => if b j then 0 else 2 ^ w - 1 := by
  rw [fieldMask_range]
  exact fields_congr fun j _ => by cases b j <;> rfl

/-- The enabled elements of a group, the others zero (R169). -/
theorem zip_enabled (n : Nat) (el : Nat → Nat) (b : Nat → Bool) :
    (((List.range n).zip ((List.range n).map el)).map fun e => if b e.1 then e.2 else 0) =
      (List.range n).map fun j => if b j then el j else 0 := by
  have hz := zip_range id el n
  rw [List.map_id] at hz
  rw [hz, List.map_map]
  rfl

/-! ## The words -/

section
variable {s : State} (h : Hdr) (w : VW) (f : VM) {a : VAcc} (ha : s.vacc w f = a) (hi : issuing s) (hu : usable s.me [f.reg])
  (hb : accessible a false) {l : Label} (adv z : Bool)
include ha hi hu hb

/-- VLD of a packed box (R165): the bytes of the groups inside. -/
theorem exec_vld_packed (hl : accLab s.me f a = l) (hz : layZmask a.box.layout = false)
    (hp : (layFp6 a.box.layout || layFp4 a.box.layout) = true) :
    exec (.vld h w f adv z) s = .next (s.modMe fun x =>
      let bits := (x.mreg f.mask).v.toNat
      let off := fieldMask 8 (a.packOff bits)
      let y := noted x a kRead l (a.packBad bits)
      stepped (addEffs y [(2, phSample, lnV, .vload x.iss.cyc (x.vplace f.reg).1 (x.vplace f.reg).2 false
        (a.runs bits true) off (if z then 0 else off) (z || (decide (f.mask = 0#3) && (a.packOff bits).all fun k => !k)) l)])
        f.d a a.packN adv) := by
  show execVld h w f adv z s = _
  simp only [execVld, ha, State.vaccLabel_eq, hl, hz, hp, if_true, Bool.false_eq_true, if_false, VAcc.advance_eq]
  rw [vWord_of_usable hu hb]
  refine congrArg _ (s.modMe_congr _ _ ?_)
  rw [VAcc.record_eq_noted hi.1, VAcc.load, decide_eq_false (packed_width hb hp ▸ by decide)]
  simp only [addEffs_cons, noted_iss, noted_vplace]
  rfl

/-- VLD of a ZMASK box (R170): one group, or zeros and a record. -/
theorem exec_vld_zmask (hl : accLab s.me f a = l) (hz : layZmask a.box.layout = true) :
    exec (.vld h w f adv z) s = .next (s.modMe fun x =>
      let g := layGroup a.box.layout
      let c := coordAt a 0
      let drop := fields a.w g fun j => if maskBit x f.mask j then 0 else 2 ^ a.w - 1
      let whole := decide (f.mask = 0#3) || z
      stepped (if groupInside a then addEffs x [(2, phSample, lnV, .vzload x.iss.cyc (x.vplace f.reg).1 (x.vplace f.reg).2
          (a.box.addr c) a.box.cap g a.w drop (if z then 0 else drop) whole l a.h.slot.toNat (a.box.detail c))]
        else noted (addEffs x [(2, phSample, lnV, .vload x.iss.cyc (x.vplace f.reg).1 (x.vplace f.reg).2 false []
          drop (if z then 0 else drop) whole l)]) a kRead l (some (0, c))) f.d a g adv) := by
  show execVld h w f adv z s = _
  simp only [execVld, ha, State.vaccLabel_eq, hl, hz, if_true, Unit.mreg_testBit, groupInside_eq, fieldMask_off, VAcc.load,
    VAcc.advance_eq, (decide_eq_false (zmask_width hb hz).1)]
  rw [vWord_of_usable hu hb]
  refine congrArg _ (s.modMe_congr _ _ ?_)
  refine congrArg (stepped · f.d a _ adv) (if_congr Iff.rfl rfl (VAcc.record_eq_noted ?_ ..))
  exact hi.1

variable (hl : accLab s.me f a ||| elemLab s.me a.w (.row f.reg) = l) (hm : a.box.mode ≠ .in_)
  (hs : Label.sub l a.box.lab = true)
include hl hm hs

/-- VST to a packed box (R165): the enabled bytes. -/
theorem exec_vst_packed (hz : layZmask a.box.layout = false) (hp : (layFp6 a.box.layout || layFp4 a.box.layout) = true) :
    exec (.vst h w f adv) s = .next (s.modMe fun x =>
      let bits := (x.mreg f.mask).v.toNat
      let row := (rowRead x (.row f.reg) 0).v.toNat
      stepped (addEffs (noted x a kWrite l (a.packBad bits)) [(5, phWrite, lnV,
        .sbits ((a.runs bits false).map fun e => (e.2, row / 2 ^ e.1 % 2 ^ e.2.width)))]) f.d a a.packN adv) := by
  show execVst h w f adv s = _
  simp only [execVst, ha, State.vaccLabel_eq, Unit.vread_eq, hl, hz, hp, if_true, Bool.false_eq_true, if_false,
    VAcc.advance_eq]
  rw [vStore_of_ok hu hb hm hs]
  refine congrArg _ (s.modMe_congr _ _ ?_)
  rw [VAcc.record_eq_noted hi.1]
  rfl

/-- VST to a ZMASK box (R169): one group, or a record. -/
theorem exec_vst_zmask (hz : layZmask a.box.layout = true) :
    exec (.vst h w f adv) s = .next (s.modMe fun x =>
      let g := layGroup a.box.layout
      let c := coordAt a 0
      let vs := (List.range g).map fun j => if maskBit x f.mask j then elemAt x a.w (.row f.reg) j else 0
      stepped (if groupInside a then addEffs x [(7, phWrite, lnV,
          .vzstore (a.box.addr c) a.box.cap g a.w vs a.h.slot.toNat l (a.box.detail c))]
        else noted x a kWrite l (some (0, c))) f.d a g adv) := by
  show execVst h w f adv s = _
  simp only [execVst, ha, State.vaccLabel_eq, Unit.vread_eq, hl, hz, if_true, Unit.mreg_testBit, groupInside_eq,
    lanes_eq_lanesOf, (zmask_width hb hz).2, zip_enabled, VAcc.advance_eq]
  rw [vStore_of_ok hu hb hm hs]
  refine congrArg _ (s.modMe_congr _ _ ?_)
  refine congrArg (stepped · f.d a _ adv) (if_congr Iff.rfl rfl (VAcc.record_eq_noted ?_ ..))
  exact hi.1

end

/-- Settles O25: each word by its rule above, a ZMASK group being inside the box or not. -/
theorem packedAndZmaskAccess : Obligations.PackedAndZmaskAccess := by
  intro s h w f adv z hi a lay l ls bits g c whole note drop inside canStore hu hb
  refine ⟨fun hz hp => ⟨?packedLoad, fun ⟨hm, hs⟩ => ?packedStore⟩, fun hz hg => ⟨?groupLoad, fun ⟨hm, hs⟩ => ?groupStore⟩,
    fun hz hg => ⟨?outsideLoad, fun ⟨hm, hs⟩ => ?outsideStore⟩⟩
  case packedLoad => exact (exec_vld_packed h w f rfl hi hu hb adv z rfl hz hp).trans rfl
  case packedStore => exact (exec_vst_packed h w f rfl hi hu hb adv rfl hm hs hz hp).trans rfl
  case groupLoad | outsideLoad =>
    rw [exec_vld_zmask h w f rfl hi hu hb adv z rfl hz, show groupInside a = _ from hg]
    rfl
  case groupStore | outsideStore =>
    rw [exec_vst_zmask h w f rfl hi hu hb adv rfl hm hs hz, show groupInside a = _ from hg]
    rfl

end Sys2Proof.Machine
end

section
/-! The words of the M lane (spec 07, R174 to R185, R190, R193 to R195; 02, R58 to R60): the effects a word sets going, the
format word it pops, the tiles it may use, then O26, O27 and O28. -/

namespace Sys2Proof.Machine

open Claims

/-! ## Effects to come -/

theorem addEffs_append (x : Unit) (es fs : List (Nat × Nat × Nat × Eff)) :
    addEffs x (es ++ fs) = addEffs (addEffs x es) fs := by
  simp [addEffs, List.foldl_append]

section
variable {x : Unit} {i : Iss} (hx : x.iss = i)
include hx

/-- An effect at a cycle counted from the issue. -/
theorem Unit.due_issue {c n p k : Nat} {e : Eff} (hc : c = i.cyc + n) :
    x.due c p k e = addEffs x [(n, p, k, e)] := by
  subst hx hc
  rfl

/-- A loop whose rounds only add effects. -/
theorem foldl_addEffs {α : Type} {f : Unit → α → Unit} {es : α → List (Nat × Nat × Nat × Eff)}
    (hf : ∀ y a, y.iss = i → f y a = addEffs y (es a)) (l : List α) : l.foldl f x = addEffs x (l.flatMap es) := by
  induction l generalizing x with
  | nil => rfl
  | cons a l ih =>
    rw [List.foldl_cons, List.flatMap_cons, addEffs_append, hf x a hx]
    exact ih hx

/-- One effect, one for each round of a loop, and one at the end. -/
theorem due_loop_due {f : Unit → Nat → Unit} {e : Nat → Nat × Nat × Nat × Eff} {n p n' p' m : Nat} {d d' : Eff}
    (hf : ∀ y k, y.iss = i → f y k = addEffs y [e k]) :
    ((List.range m).foldl f (x.due (i.cyc + n) p lnM d)).due (i.cyc + n') p' lnM d' =
      addEffs x ([(n, p, lnM, d)] ++ (List.range m).map e ++ [(n', p', lnM, d')]) := by
  rw [Unit.due_issue hx rfl, foldl_addEffs (x := addEffs x _) hx hf, ← List.map_eq_flatMap, addEffs_append, addEffs_append]
  exact Unit.due_issue (x := addEffs (addEffs x _) _) hx rfl

end

/-! ## What an M word reads at its issue -/

/-- The record of the first operand element outside (R274), of a word that issues in a segment. -/
theorem recOut_eq_noteOut {x : Unit} (ht : x.iss.timed = true) (h sc : Hnd) (out scOut : Option (Nat × Quad Int))
    (l : Label) : recOut x h sc out scOut l = noteOut x h sc out scOut l := by
  rcases out with _ | e
  · rcases scOut with _ | e
    · rfl
    · exact if_pos ht
  · exact if_pos ht

theorem noteOut_iss (x : Unit) (h sc : Hnd) (out scOut : Option (Nat × Quad Int)) (l : Label) :
    (noteOut x h sc out scOut l).iss = x.iss := by
  rcases out with _ | e
  · rcases scOut with _ | e <;> rfl
  · rfl

theorem State.taskOf_modMe {s : State} {f : Unit → Unit} (hm : (f s.me).mode ≠ .idle) (ht : (f s.me).task = s.me.task) :
    (s.modMe f).taskOf s.active = s.taskOf s.active := by
  have hu : (s.modMe f).unit s.active = f s.me := s.me_modMe f hm
  unfold State.taskOf
  rw [hu, ht]
  rfl

/-- The operands of an M word are read as if its format word were still in the queue. -/
theorem State.hnd_pop {s : State} (hm : s.me.mode ≠ .idle) (d : BitVec 4) : (s.modMe Unit.pop).hnd d = handle s d := by
  have hu : (s.modMe Unit.pop).me = s.me.pop := s.me_modMe _ hm
  have ht : (s.modMe Unit.pop).taskOf s.active = s.taskOf s.active := State.taskOf_modMe hm rfl
  simp only [State.hnd, State.box, hu]
  exact congrArg (fun t : Task => (⟨_, t.boxes.get _⟩ : Hnd)) ht

/-- The operand and the scale handle are not both as R180 to R182 ask. -/
theorem operandsRefused_iff (h sc : Hnd) (lays : List Nat) (stream : Bool) (sch : Nat) :
    (!h.okM lays stream || !sc.okScale sch) = true ↔ ¬ (h.okM lays stream = true ∧ sc.okScale sch = true) := by
  rw [← Bool.not_and, Bool.not_eq_true', ← Bool.not_eq_true, Bool.and_eq_true]

/-! ## MLOADB -/

/-- The unit with a load entered as a run, the cycle of its slot set and its record made (R181 to R183). -/
def loadEntered (x : Unit) (slot : Bool) (fw : Fmt) (src scl : Hnd) (l : Label) : Unit :=
  let y := running (popped x) { (default : MRun) with
    issue := x.iss.cyc, slot := b2n slot, fw := fw.v.toNat, lab := l, src := src, scl := scl }
  let sl := x.que.slots.get (b2n slot)
  noteOut { y with que := { y.que with slots := x.que.slots.put (b2n slot) { sl with ready := x.iss.cyc + 34 } } } src scl
    (src.firstOut 128) (scl.scaleOut (scalePts true (fwScale fw.v.toNat) 0)) l

theorem loadEntered_iss (x : Unit) (slot : Bool) (fw : Fmt) (src scl : Hnd) (l : Label) :
    (loadEntered x slot fw src scl l).iss = x.iss := noteOut_iss ..

/-- The effects of load `k` (R183). -/
def loadEffs (k : Nat) : List (Nat × Nat × Nat × Eff) :=
  [(1, phSample, lnM, .mscal k)] ++ (List.range 32).map (fun t => (1 + t, phSample, lnM, .mload k t))
    ++ [(34, phWrite, lnM, .mslot k)]

theorem due_loadEffs {x : Unit} {i : Iss} (hx : x.iss = i) (k : Nat) :
    ((List.range 32).foldl (fun y t => y.due (i.cyc + 1 + t) phSample lnM (.mload k t))
      (x.due (i.cyc + 1) phSample lnM (.mscal k))).due (i.cyc + 34) phWrite lnM (.mslot k) = addEffs x (loadEffs k) :=
  due_loop_due hx fun _ _ hy => Unit.due_issue hy (Nat.add_assoc ..)

section
variable {s : State} (h : Hdr) (slot : Bool) (b sx : BitVec 4)

/-- Without a format word (R179). -/
theorem exec_mloadb_underflow (hf : s.me.que.fmtq = []) :
    exec (.mloadb h slot b sx) s = .next (s.fail lanM fFormatUnderflow 0 s.me.iss.lab) := by
  show execMloadb h slot b sx s = _
  simp only [execMloadb, Unit.fmtTop, hf, List.head?_nil]
  rfl

/-- With one, its checks in their order (R178, R180, R182), and the load. -/
theorem exec_mloadb_popped {fw : Fmt} {r : List Fmt} (hi : issuing s) (hf : s.me.que.fmtq = fw :: r) :
    exec (.mloadb h slot b sx) s = .next (
      let w := fw.v.toNat
      let l := mLab s fw (handle s b) (handle s sx) ||| s.me.iss.lab
      if fwValid w = false then (s.modMe popped).fail lanM fFormatInvalid 0 (fw.l ||| s.me.iss.lab)
      else if ¬ ((handle s b).okM (fmtLayB (fwB w)) false = true ∧ (handle s sx).okScale (fwScale w) = true) then
        (s.modMe popped).fail lanM fIllegalOperand 0 l
      else s.modMe fun x => addEffs (loadEntered x slot fw (handle s b) (handle s sx) l) (loadEffs x.que.mnext)) := by
  have hm := working_not_idle (.inl hi)
  obtain ⟨ht, -⟩ := hi
  show execMloadb h slot b sx s = _
  simp only [execMloadb, Unit.fmtTop, hf, List.head?_cons, State.hnd_pop hm, operandsRefused_iff, Bool.not_eq_true']
  refine congrArg _ (if_congr Iff.rfl rfl (if_congr Iff.rfl rfl ?_))
  rw [s.modMe_modMe Unit.pop _ hm]
  refine s.modMe_congr _ _ ?_
  rw [← due_loadEffs (loadEntered_iss ..), loadEntered, recOut_eq_noteOut (by exact ht)]
  rfl

end

/-- Settles O26: the checks of MLOADB in their order. -/
theorem matrixLoad : Obligations.MatrixLoad := by
  intro s h slot b sx hi hb sc si
  refine ⟨exec_mloadb_underflow h slot b sx, ?_⟩
  intro fw r hf w l sound
  have e := exec_mloadb_popped h slot b sx hi hf
  refine ⟨fun hv hs => e.trans ?loads, fun hv => e.trans ?invalid, fun hv hs => e.trans ?refused⟩
  case loads => exact congrArg _ ((if_neg (ne_false_of_eq_true hv)).trans (if_neg (not_not.mpr hs)))
  case invalid => exact congrArg _ (if_pos hv)
  case refused => exact congrArg _ ((if_neg (ne_false_of_eq_true hv)).trans (if_pos hs))

/-! ## MMA -/

/-- The unit with a product entered as a run and its record made (R181, R182, R184). -/
def mmaEntered (x : Unit) (t : BitVec 4) (slot : Bool) (rows : Nat) (ovw : Bool) (fw : Fmt) (src scl : Hnd) (l : Label) :
    Unit :=
  let y := running (popped x) { (default : MRun) with
    issue := x.iss.cyc, tile := t.toNat, slot := b2n slot, fw := fw.v.toNat, rows := rows, ovw := ovw, lab := l, src := src
    scl := scl }
  noteOut y src scl (if src.box.mode = .stream then none else src.firstOut rows)
    (scl.scaleOut (scalePts false (fwScale fw.v.toNat) rows)) l

theorem mmaEntered_iss (x : Unit) (t : BitVec 4) (slot : Bool) (rows : Nat) (ovw : Bool) (fw : Fmt) (src scl : Hnd)
    (l : Label) : (mmaEntered x t slot rows ovw fw src scl l).iss = x.iss := noteOut_iss ..

/-- The effects of product `k`, in groups of rows (R184). -/
def mmaEffs (w rows k : Nat) : List (Nat × Nat × Nat × Eff) :=
  [(2, phSample, lnM, .mscal k)] ++ (List.range (groupsOf w rows)).flatMap fun g =>
    [(2 + groupGap w * g, phSample, lnM, .msamp k g), (14 + groupGap w * g, phWrite, lnM, .mrow k g)]

theorem due_mmaEffs {x : Unit} {i : Iss} (hx : x.iss = i) (w rows k : Nat) :
    (List.range (groupsOf w rows)).foldl (fun y g =>
      (y.due (i.cyc + 2 + groupGap w * g) phSample lnM (.msamp k g)).due (i.cyc + 14 + groupGap w * g) phWrite lnM
        (.mrow k g)) (x.due (i.cyc + 2) phSample lnM (.mscal k)) = addEffs x (mmaEffs w rows k) := by
  rw [mmaEffs, addEffs_append, Unit.due_issue hx rfl]
  refine foldl_addEffs (x := addEffs x _) hx (fun y g hy => ?_) _
  rw [Unit.due_issue hy (Nat.add_assoc ..), Unit.due_issue (x := addEffs y _) hy (Nat.add_assoc ..)]
  rfl

/-- The formats of an MMA are valid and those of its tile and its slot (R178, R184). -/
abbrev mmaAgrees (x : Unit) (t : BitVec 4) (slot : Bool) (w : Nat) : Prop :=
  let sl := x.que.slots.get (b2n slot)
  fwValid w = true ∧ (x.regs.tiles.get t.toNat).int = fwInt w ∧ (sl.valid = true → sl.bfmt = fwB w ∧ sl.sch = fwScale w)

theorem not_mmaAgrees_iff (x : Unit) (t : BitVec 4) (slot : Bool) (w : Nat) :
    let sl := x.que.slots.get (b2n slot)
    (!fwValid w || (sl.valid && (decide (sl.bfmt ≠ fwB w) || decide (sl.sch ≠ fwScale w)))
      || decide ((x.regs.tiles.get t.toNat).int ≠ fwInt w)) = true ↔ ¬ mmaAgrees x t slot w := by
  intro sl
  rw [mmaAgrees, not_and_or, not_and_or, or_comm (a := ¬ _ = fwInt w), Bool.or_eq_true, Bool.or_eq_true, or_assoc]
  refine or_congr ?valid (or_congr ?formats ?tile)
  case valid => rw [Bool.not_eq_true', Bool.not_eq_true]
  case formats =>
    show _ ↔ ¬ (sl.valid = true → sl.bfmt = fwB w ∧ sl.sch = fwScale w)
    cases sl.valid <;> simp [-not_and, not_and_or]
  case tile => rw [decide_eq_true_eq]

section
variable {s : State} (h : Hdr) (t : BitVec 4) (slot : Bool) (a sx : BitVec 4) (rows1 : BitVec 7) (ovw chk zs : Bool)

/-- Too soon after its deposit (R185). -/
theorem exec_mma_early (hd : s.me.iss.cyc < s.me.iss.dep + 23) :
    exec (.mma h t slot a sx rows1 ovw chk zs) s = .next (s.fail lanM fScheduleMiss 3 s.me.iss.lab) := by
  show execMma h t slot a sx rows1 ovw chk zs s = _
  simp only [execMma, gt_iff_lt, hd, if_true]
  rfl

variable (hd : s.me.iss.dep + 23 ≤ s.me.iss.cyc)
include hd

/-- Without a format word (R179). -/
theorem exec_mma_underflow (hf : s.me.que.fmtq = []) :
    exec (.mma h t slot a sx rows1 ovw chk zs) s = .next (s.fail lanM fFormatUnderflow 0 s.me.iss.lab) := by
  show execMma h t slot a sx rows1 ovw chk zs s = _
  simp only [execMma, gt_iff_lt, Nat.not_lt.mpr hd, if_false, Unit.fmtTop, hf, List.head?_nil]
  rfl

/-- With one, its checks in their order (R178, R180, R182, R184), and the product. -/
theorem exec_mma_popped {fw : Fmt} {r : List Fmt} (hi : issuing s) (hf : s.me.que.fmtq = fw :: r) :
    exec (.mma h t slot a sx rows1 ovw chk zs) s = .next (
      let w := fw.v.toNat
      let sl := s.me.que.slots.get (b2n slot)
      let rows := rows1.toNat + 1
      let l := mLab s fw (handle s a) (handle s sx) ||| sl.lab ||| s.me.iss.lab
      if ¬ mmaAgrees s.me t slot w then (s.modMe popped).fail lanM fFormatInvalid 0 (fw.l ||| s.me.iss.lab)
      else if sl.valid = false then (s.modMe popped).fail lanM fIllegalOperand 0 l
      else if chk ≠ fwChk w then (s.modMe popped).fail lanM fFormatInvalid 0 l
      else if s.me.tileOk t.toNat = false then (s.modMe popped).fail lanM fIllegalOperand 0 l
      else if ¬ ((handle s a).okM (fmtLayA (fwA w)) true = true ∧ (handle s sx).okScale (fwScale w) = true) then
        (s.modMe popped).fail lanM fIllegalOperand 0 l
      else s.modMe fun x => addEffs (mmaEntered x t slot rows ovw fw (handle s a) (handle s sx) l)
        (mmaEffs w rows x.que.mnext)) := by
  have hm := working_not_idle (.inl hi)
  obtain ⟨ht, -⟩ := hi
  show execMma h t slot a sx rows1 ovw chk zs s = _
  simp only [execMma, gt_iff_lt, Nat.not_lt.mpr hd, if_false, Unit.fmtTop, hf, List.head?_cons, State.hnd_pop hm,
    operandsRefused_iff, not_mmaAgrees_iff, Bool.not_eq_true']
  refine congrArg _ (if_congr Iff.rfl rfl (if_congr Iff.rfl rfl (if_congr Iff.rfl rfl (if_congr Iff.rfl rfl
    (if_congr Iff.rfl rfl ?_)))))
  rw [s.modMe_modMe Unit.pop _ hm]
  refine s.modMe_congr _ _ ?_
  rw [← due_mmaEffs (mmaEntered_iss ..), mmaEntered, recOut_eq_noteOut (by exact ht)]
  rfl

end

/-- Settles O27: the checks of MMA in their order. -/
theorem matrixMultiply : Obligations.MatrixMultiply := by
  intro s h t slot a sx rows1 ovw chk zs hi ha sc i si sl rows tl
  refine ⟨exec_mma_early h t slot a sx rows1 ovw chk zs, exec_mma_underflow h t slot a sx rows1 ovw chk zs, ?_⟩
  intro fw r hd hf w l agrees sound
  have e := exec_mma_popped h t slot a sx rows1 ovw chk zs hd hi hf
  refine ⟨fun hg hv hc ht hs => e.trans ?product, fun hg => e.trans ?disagrees, fun hg hv => e.trans ?empty,
    fun hg hv hc => e.trans ?check, fun hg hv hc hn => e.trans ?refused⟩
  case disagrees => exact congrArg _ (if_pos hg)
  all_goals refine congrArg _ ((if_neg (not_not.mpr hg)).trans ?_)
  case empty => exact if_pos hv
  all_goals refine (if_neg (ne_false_of_eq_true hv)).trans ?_
  case check => exact if_pos hc
  all_goals refine (if_neg (not_not.mpr hc)).trans ?_
  case product =>
    have ht : s.me.tileOk t.toNat = true := (Unit.tileOk_iff ..).mpr ht
    exact (if_neg (ne_false_of_eq_true ht)).trans (if_neg (not_not.mpr hs))
  case refused =>
    cases ht : s.me.tileOk t.toNat with
    | false => exact if_pos rfl
    | true => exact (if_neg Bool.noConfusion).trans (if_pos fun hs => hn ⟨(Unit.tileOk_iff ..).mp ht, hs⟩)

/-! ## Tiles -/

theorem Unit.tileOk_eq_true_iff (x : Unit) (t : Nat) : x.tileOk t = true ↔ tileReady x t := x.tileOk_iff t

theorem Unit.tileOk_eq_false_iff (x : Unit) (t : Nat) : x.tileOk t = false ↔ ¬ tileReady x t := by
  rw [← Unit.tileOk_eq_true_iff, Bool.not_eq_true]

section
variable {s : State} {ts : List Nat} {l : Label} {k : Unit → Unit}

theorem tileWord_of_ready (h : ∀ t ∈ ts, tileReady s.me t) : tileWord s ts l k = s.modMe k :=
  if_neg (by simpa [Unit.tileOk_eq_true_iff] using h)

theorem tileWord_of_not_ready {t : Nat} (ht : t ∈ ts) (h : ¬ tileReady s.me t) :
    tileWord s ts l k = s.fail lanM fIllegalOperand 0 l :=
  if_pos (List.any_eq_true.mpr ⟨t, ht, by simpa [Unit.tileOk_eq_false_iff] using h⟩)

end

/-- An effect still to come is at work on a tile that is meant (R194). -/
theorem Unit.tileBusy_iff (x : Unit) (sel : Nat → Bool) :
    x.tileBusy sel = true ↔ ∃ e ∈ x.pend, ∃ k ∈ x.effTiles e.eff, sel k = true := by
  simp only [Unit.tileBusy, List.any_eq_true]

/-! ## MZERO, MTYPE, MCOPY -/

section
variable {s : State} (h : Hdr) {t d : BitVec 4}

theorem exec_mzero_ready (ht : tileReady s.me t.toNat) : exec (.mzero h t) s =
    .next (s.modMe fun x => addEffs x [(8, phWrite, lnM, .mzero t.toNat x.iss.lab)]) :=
  congrArg _ (tileWord_of_ready (by simpa using ht))

theorem exec_mtype_ready (int : Bool) (ht : tileReady s.me t.toNat) : exec (.mtype h t int) s =
    .next (s.modMe fun x => addEffs x [(0, phNow, lnM, .mtype t.toNat int)]) :=
  congrArg _ (tileWord_of_ready (by simpa using ht))

theorem exec_mcopy_ready (ht : tileReady s.me t.toNat) (hd : tileReady s.me d.toNat) : exec (.mcopy h d t) s =
    .next (s.modMe fun x => addEffs x ([(4, phWrite, lnM, .mctype d.toNat t.toNat)]
      ++ (List.range 64).map (fun k => (4 + k, phSample, lnM, .mcopy d.toNat t.toNat k x.iss.lab))
      ++ [(67, phWrite, lnM, .mcsum d.toNat t.toNat)])) := by
  refine congrArg _ ((tileWord_of_ready (by simpa using ⟨hd, ht⟩)).trans (s.modMe_congr _ _ ?_))
  exact due_loop_due rfl fun _ _ hy => by rw [Unit.due_issue hy (Nat.add_assoc ..), hy]

end

/-! ## MCHKV -/

theorem tolOk_iff (v : Nat) : tolOk v = true ↔ tolerance v := by
  unfold tolOk tolerance
  cases FP.f32.decode v with
  | fin n m e => cases n <;> simp
  | _ => simp

/-- MCHKV has all that R190 asks of its tiles, its tolerances and its two rows. -/
def checkable (x : Unit) (t : BitVec 4) (ka kr : BitVec 5) (rr cr : BitVec 8) : Prop :=
  tileReady x t.toNat
  ∧ ((x.regs.tiles.get t.toNat).int = false →
    tolerance ((x.pool ka.toNat).v.toNat % 2 ^ 32) ∧ tolerance ((x.pool kr.toNat).v.toNat % 2 ^ 32))
  ∧ tileReady x (x.vplace rr).1 ∧ tileReady x (x.vplace cr).1 ∧ x.vplace rr ≠ x.vplace cr

theorem not_checkable_iff (x : Unit) (t : BitVec 4) (ka kr : BitVec 5) (rr cr : BitVec 8) :
    ((!x.tileOk t.toNat) = true
      ∨ (!(x.regs.tiles.get t.toNat).int && !(tolOk ((x.pool ka.toNat).v.toNat % 2 ^ 32)
          && tolOk ((x.pool kr.toNat).v.toNat % 2 ^ 32))) = true
      ∨ (!x.tileOk (x.vplace rr).1 || !x.tileOk (x.vplace cr).1 || decide (x.vplace rr = x.vplace cr)) = true)
    ↔ ¬ checkable x t ka kr rr cr := by
  rw [checkable, not_and_or, not_and_or]
  refine or_congr ?tile (or_congr ?tolerances ?rows)
  case tile => simp [Unit.tileOk_eq_false_iff]
  case tolerances =>
    simp only [← tolOk_iff]
    cases (x.regs.tiles.get t.toNat).int <;> simp [-not_and, not_and_or]
  case rows => simp [← Unit.tileOk_eq_true_iff, -not_and, not_and_or, or_assoc]

/-- The label of a check: with the tolerances' where the tile is FP32 (R190). -/
def checkLab (x : Unit) (t : BitVec 4) (ka kr : BitVec 5) : Label :=
  x.iss.lab ||| (if (x.regs.tiles.get t.toNat).int then 0#8 else (x.pool ka.toNat).l ||| (x.pool kr.toNat).l)

/-- The unit with a check entered as a run (R190). -/
def checkEntered (x : Unit) (t : BitVec 4) (ka kr : BitVec 5) (rr cr : BitVec 8) (l : Label) : Unit :=
  running x { (default : MRun) with
    issue := x.iss.cyc, tile := t.toNat, lab := l, int := (x.regs.tiles.get t.toNat).int, rr := x.vplace rr
    cr := x.vplace cr, ka := (x.pool ka.toNat).v.toNat % 2 ^ 32, kr := (x.pool kr.toNat).v.toNat % 2 ^ 32 }

section
variable {s : State} (h : Hdr) (t : BitVec 4) (ka kr : BitVec 5) (rr cr : BitVec 8)

theorem exec_mchkv_checkable (hc : checkable s.me t ka kr rr cr) : exec (.mchkv h t ka kr rr cr) s =
    .next (s.modMe fun x => addEffs (checkEntered x t ka kr rr cr (checkLab s.me t ka kr))
      ([(1, phSample, lnM, .mcst x.que.mnext)]
        ++ (List.range 128).map (fun i => (1 + i, phSample, lnM, .mcs x.que.mnext i))
        ++ [(136, phWrite, lnM, .mchk x.que.mnext)])) := by
  show execMchkv h t ka kr rr cr s = _
  simp only [execMchkv, ← ite_or]
  refine congrArg _ ((if_neg (mt (not_checkable_iff ..).mp (not_not.mpr hc))).trans (s.modMe_congr _ _ ?_))
  exact due_loop_due (x := checkEntered ..) (i := s.me.iss) rfl fun _ _ hy => Unit.due_issue hy (Nat.add_assoc ..)

theorem exec_mchkv_refused (hc : ¬ checkable s.me t ka kr rr cr) : exec (.mchkv h t ka kr rr cr) s =
    .next (s.fail lanM fIllegalOperand 0 (checkLab s.me t ka kr)) := by
  show execMchkv h t ka kr rr cr s = _
  simp only [execMchkv, ← ite_or]
  exact congrArg _ (if_pos ((not_checkable_iff ..).mpr hc))

end

/-! ## ACCREL, ACCGATE, ACCWAKE -/

section
variable {s : State} (h : Hdr)

theorem exec_accrel (n : BitVec 5) : exec (.accrel h n) s = .next (
    if s.me.tileBusy (fun t => decide (n.toNat ≤ t)) then s.fail lanM fIllegalOperand 0 s.me.iss.lab
    else s.modMe fun x => addEffs x [(0, phNow, lnM, .macc n.toNat)]) := rfl

theorem exec_accgate (t : BitVec 4) (ret : Bool) : exec (.accgate h t ret) s = .next (
    if s.me.tileBusy (fun k => decide (k = t.toNat)) then s.fail lanM fIllegalOperand 0 s.me.iss.lab
    else s.modMe fun x => addEffs x [(0, phNow, lnM, .mgate t.toNat ret)]) := rfl

theorem exec_accwake_on {t : BitVec 4} (ht : (s.me.regs.tiles.get t.toNat).pow = .on) :
    exec (.accwake h t) s = .next (s.modMe fun x => x) := by
  show execAccwake h t s = _
  refine congrArg _ (s.modMe_congr _ _ ?_)
  simp only [ht, if_true]

theorem exec_accwake_off {t : BitVec 4} (ht : (s.me.regs.tiles.get t.toNat).pow ≠ .on) :
    exec (.accwake h t) s = .next (s.modMe fun x =>
      addEffs x [(0, phNow, lnM, .mwake t.toNat (x.iss.cyc + 12)), (12, phSample, lnM, .wake t.toNat)]) := by
  show execAccwake h t s = _
  refine congrArg _ (s.modMe_congr _ _ ?_)
  cases hp : (s.me.regs.tiles.get t.toNat).pow with
  | on => exact absurd hp ht
  | _ => rfl

end

/-- Settles O28: each word by its law above, as its tiles are ready, or at work, or not. -/
theorem tileWords : Obligations.TileWords := by
  refine ⟨?tiles, ?power⟩
  case tiles =>
    intro s h t d int ka kr rr cr hi stop l tl pa pr lc ta tr check
    refine ⟨fun ht => ⟨exec_mzero_ready h ht, exec_mtype_ready h int ht⟩, fun ht hd => exec_mcopy_ready h ht hd,
      exec_mchkv_checkable h t ka kr rr cr, fun ht => ⟨?_, ?_, ?_⟩, fun hd => ?_, exec_mchkv_refused h t ka kr rr cr⟩
    · exact congrArg _ (tileWord_of_not_ready (List.mem_singleton.mpr rfl) ht)
    · exact congrArg _ (tileWord_of_not_ready (List.mem_singleton.mpr rfl) ht)
    · exact congrArg _ (tileWord_of_not_ready (by simp) ht)
    · exact congrArg _ (tileWord_of_not_ready (by simp) hd)
  case power =>
    intro s h n t ret hi busy stop
    have hr := s.me.tileBusy_iff fun k => decide (n.toNat ≤ k)
    have hg := s.me.tileBusy_iff fun k => decide (k = t.toNat)
    simp only [decide_eq_true_eq] at hr hg
    refine ⟨fun hb => ?_, fun hb => ?_, fun hb => ?_, fun hb => ?_, exec_accwake_off h, exec_accwake_on h⟩
    · exact congrArg _ (if_neg (mt hr.mp hb))
    · exact congrArg _ (if_pos (hr.mpr hb))
    · exact congrArg _ (if_neg (mt hg.mp hb))
    · exact congrArg _ (if_pos (hg.mpr hb))

end Sys2Proof.Machine
end

section

/-! SYSRD and SYSWR (spec 08, R236; spec 02, R63 to R65), then O11 and O12. -/

namespace Sys2Proof.Machine
open Claims

theorem State.sysReg_eq (s : State) {n : Nat} (h0 : 0 < n) (h : n < 0x10) : s.sysReg s.active n = sysValue s n := by
  interval_cases n <;> rfl

theorem State.raised_iss {s : State} (hm : s.me.mode ≠ .idle) (l : Label) : (s.raised l).me.iss = s.me.iss := by
  rw [State.raised_me hm, Unit.raiseLbl_iss]

/-- SEGCYC in a segment, read after the guard's label was raised. -/
theorem State.raised_segcyc {s : State} (hm : s.me.mode ≠ .idle) (l : Label) (hu : s.active < 384)
    (ht : s.me.iss.timed = true) : (s.raised l).sysReg s.active 0 = ⟨BitVec.ofNat 64 s.me.iss.cyc, 0#8⟩ := by
  have hq : ¬ isSeq s.active = true := by simp [isSeq, hu]
  have hi := State.raised_iss hm l
  rw [← hi] at ht ⊢
  exact congrArg (fun k => (⟨BitVec.ofNat 64 k, 0#8⟩ : Lv 64)) ((if_neg hq).trans (if_pos ht))

theorem seqBarred_iff (n : Nat) : seqBarred n = true ↔ notOnSeq n := by
  simp [seqBarred, notOnSeq, or_assoc]

theorem barred_iff (u n : Nat) : (isSeq u && seqBarred n) = true ↔ 384 ≤ u ∧ notOnSeq n := by
  rw [Bool.and_eq_true, seqBarred_iff, isSeq, decide_eq_true_eq]

theorem extractLsb'_eq_bits (v : BitVec 64) (hi lo : Nat) : (v.extractLsb' lo (hi + 1 - lo)).toNat = bits v.toNat hi lo := by
  rw [BitVec.extractLsb'_toNat, Nat.shiftRight_eq_div_pow]
  rfl

theorem vmodeOk_iff (x : Unit) (v : BitVec 64) : vmodeOk x v = true ↔ vmodeFits x v := by
  simp only [vmodeOk, vmodeFits, winP, winS, ← extractLsb'_eq_bits, Bool.and_eq_true, Bool.or_eq_true, decide_eq_true_eq,
    BitVec.toNat_eq, and_assoc]

/-! ## SYSRD -/

section
variable {s : State} {g : POp} (hm : s.me.mode ≠ .idle) (hg : (s.me.readP g).v = true) (h : Hdr) (n : BitVec 8)
include hm hg

/-- SYSRD of a register the unit has. -/
theorem exec_sysrd_has (d : Dst) (hn : n.toNat < 0x10) (hs : ¬ (384 ≤ s.active ∧ notOnSeq n.toNat)) :
    let s1 := s.raised (s.me.readP g).l
    let r := s1.sysReg s1.active n.toNat
    exec (.sysrd h d n g) s = .next ((if n.toNat = 0 then { s1 with frees := s1.frees + 1 } else s1).modMe fun x =>
      x.deliver d 2 ⟨r.v, r.l ||| ((s.me.readP g).l ||| s.me.iss.lab)⟩) := by
  intro s1 r
  have hb : ¬ (decide (n.toNat ≥ 0x10) || (isSeq s.active && seqBarred n.toNat)) = true := by
    rw [Bool.or_eq_true, decide_eq_true_eq, barred_iff]
    exact not_or.mpr ⟨Nat.not_le.mpr hn, hs⟩
  show execSysrd h d n g s = _
  simp only [execSysrd, guarded_true _ _ _ hg, State.raised_me hm, Unit.raiseLbl_baseL]
  exact congrArg _ (if_neg hb)

/-- SYSRD of any other number. -/
theorem exec_sysrd_lacks (d : Dst) (hs : 0x10 ≤ n.toNat ∨ (384 ≤ s.active ∧ notOnSeq n.toNat)) :
    exec (.sysrd h d n g) s = .next ((s.raised (s.me.readP g).l).fail lanS fIllegalOperand 0
      ((s.me.readP g).l ||| s.me.iss.lab)) := by
  have hb : (decide (n.toNat ≥ 0x10) || (isSeq s.active && seqBarred n.toNat)) = true := by
    rwa [Bool.or_eq_true, decide_eq_true_eq, barred_iff]
  show execSysrd h d n g s = _
  simp only [execSysrd, guarded_true _ _ _ hg, State.raised_me hm, Unit.raiseLbl_baseL]
  exact congrArg _ (if_pos hb)

end

/-- Settles O11: a register the unit has, SEGCYC in a segment, and any other number. -/
theorem systemRead : Obligations.SystemRead := by
  intro s h g d n hw hg gl base s1
  have hm := working_not_idle hw
  have hs1 : s1 = s.raised gl := by simp only [s1, withLabel_eq]
  refine ⟨fun h0 h1 hs => ?register, fun h0 ht hu => ?segcyc, fun hs => ?lacks⟩
  case register =>
    rw [exec_sysrd_has hm hg h n d h1 (fun hb => hs hb.1 hb.2), if_neg (Nat.pos_iff_ne_zero.mp h0), hs1,
      State.sysReg_eq _ h0 h1]
    simp only [scalarDone_eq]
    rfl
  case segcyc =>
    subst h0
    have hb : ¬ (384 ≤ s.active ∧ notOnSeq (0#8).toNat) := fun hb => absurd hb.1 (Nat.not_le.mpr hu)
    rw [exec_sysrd_has hm hg h 0#8 d (by decide) hb, if_pos (by decide), hs1]
    show Host.Outcome.next (State.modMe _ fun x => x.deliver d 2
      ⟨((s.raised gl).sysReg s.active 0).v, ((s.raised gl).sysReg s.active 0).l ||| base⟩) = _
    simp only [State.raised_segcyc hm gl hu ht, BitVec.zero_or, scalarDone_eq]
    refine congrArg Host.Outcome.next (State.modMe_congr _ _ _ ?_)
    exact congrArg (fun i : Iss => Unit.deliver _ d 2 ⟨BitVec.ofNat 64 i.cyc, base⟩) (State.raised_iss hm gl).symm
  case lacks =>
    rw [exec_sysrd_lacks hm hg h n d hs, hs1]

/-! ## SYSWR -/

/-- SYSWR is refused where it is not allowed, with the fault of its register (R63 to R65). -/
theorem State.syswrBad_cases (s : State) (n : Nat) (v : BitVec 64) :
    (sysAllowed s n v ∧ s.syswrBad s.active n v = none)
    ∨ (¬ sysAllowed s n v ∧ s.syswrBad s.active n v =
        some (if n = 0x0C ∧ s.active < 384 then fPermission else fIllegalOperand)) := by
  have hb := barred_iff s.active n
  have hv := vmodeOk_iff s.me v
  have hd : s.debugOn s.active = (s.asids.get (s.asidOf s.active)).debug := rfl
  change vmodeOk (s.unit s.active) v = true ↔ _ at hv
  simp only [State.syswrBad, sysAllowed]
  -- no such register
  by_cases hnone : n ≥ 0x10
  · rw [if_pos hnone, if_neg (by omega)]
    exact .inr ⟨by omega, rfl⟩
  rw [if_neg hnone]
  -- a register a sequencer lacks
  by_cases hlacks : 384 ≤ s.active ∧ notOnSeq n
  · rw [if_pos (hb.mpr hlacks), if_neg (by omega)]
    exact .inr ⟨fun ⟨_, h, _⟩ => h hlacks.1 hlacks.2, rfl⟩
  rw [if_neg (mt hb.mp hlacks)]
  -- a register no program writes
  by_cases hfixed : n = 0 ∨ n = 5 ∨ n = 7 ∨ n = 8 ∨ n = 0x0D ∨ n = 0x0E ∨ n = 0x0F
  · rw [if_pos (by simpa [or_assoc] using hfixed), if_neg (by omega)]
    exact .inr ⟨by omega, rfl⟩
  rw [if_neg (by simpa [or_assoc] using hfixed)]
  -- a register that can only be cleared
  by_cases hclear : n = 6 ∧ v ≠ 0#64
  · rw [if_pos (by simpa using hclear), if_neg (by omega)]
    exact .inr ⟨fun ⟨_, _, h, _⟩ => hclear.2 (h hclear.1), rfl⟩
  rw [if_neg (by simpa using hclear)]
  -- a VMODE whose windows do not fit
  by_cases hwindow : n = 0x0B ∧ ¬ vmodeFits s.me v
  · rw [if_pos (by simpa [← hv] using hwindow), if_neg (by omega)]
    exact .inr ⟨fun ⟨_, _, _, h, _⟩ => hwindow.2 (h hwindow.1), rfl⟩
  rw [if_neg (by simpa [← hv] using hwindow)]
  -- ACCINJ outside debug
  by_cases hdebug : n = 0x0C ∧ (s.asids.get (s.asidOf s.active)).debug = false
  · have hu : s.active < 384 := by
      by_contra hu
      exact hlacks ⟨by omega, .inr (.inr (.inr hdebug.1))⟩
    rw [if_pos (by simpa [← hd] using hdebug), if_pos ⟨hdebug.1, hu⟩]
    exact .inr ⟨fun ⟨_, _, _, _, h⟩ => by simp [hdebug.2] at h; exact h hdebug.1, rfl⟩
  rw [if_neg (by simpa [← hd] using hdebug)]
  refine .inl ⟨⟨by omega, fun hu hn => hlacks ⟨hu, hn⟩, fun h => ?_, fun h => ?_, fun h => ?_⟩, rfl⟩
  · by_contra hc; exact hclear ⟨h, hc⟩
  · by_contra hc; exact hwindow ⟨h, hc⟩
  · by_contra hc; exact hdebug ⟨h, by simpa using hc⟩

theorem sysWritten_eq {x : Unit} {s : State} {n : Nat} {v : Lv 64} (h : sysAllowed s n v.v) : sysWritten x n v = x.sysSet n v := by
  obtain ⟨hn, -⟩ := h
  have hseed : v.v.extractLsb' 32 32 = BitVec.ofNat 32 (v.v.toNat / 2 ^ 32) := by
    refine BitVec.eq_of_toNat_eq ?_
    rw [BitVec.extractLsb'_toNat, Nat.shiftRight_eq_div_pow, BitVec.toNat_ofNat]
  rcases hn with rfl | rfl | rfl | rfl | rfl | rfl | rfl | rfl | rfl
  case inr.inr.inr.inr.inr.inr.inr.inl => simp [sysWritten, Unit.sysSet, Unit.setVmode, vmodeMask, hseed]
  all_goals rfl

theorem sysAllowed_raised {s : State} (hm : s.me.mode ≠ .idle) (l : Label) (n : Nat) (v : BitVec 64) :
    sysAllowed (s.raised l) n v ↔ sysAllowed s n v := by
  simp only [sysAllowed, vmodeFits, State.raised_me hm, Unit.raiseLbl_regs, State.modMe_active, State.modMe_asids,
    State.raised_asidOf hm]

/-- Settles O12: the register written where the check of SYSWR finds nothing, its fault where it finds one. -/
theorem systemWrite : Obligations.SystemWrite := by
  intro s h g n a hw hg gl v s1
  have hm := working_not_idle hw
  have hs1 : s1 = s.raised gl := by simp only [s1, withLabel_eq]
  have ha := sysAllowed_raised hm gl n.toNat v.v
  have he : exec (.syswr h n a g) s = .next (match (s.raised gl).syswrBad s.active n.toNat v.v with
      | some code => (s.raised gl).fail lanS code 0 (v.l ||| (gl ||| s.me.iss.lab))
      | none => (s.raised gl).modMe fun x =>
          if x.iss.timed then x.due (x.iss.cyc + 2) phWrite lnS (.sys n.toNat v) else x.sysSet n.toNat v) := by
    show execSyswr h n a g s = _
    simp only [execSyswr, guarded_true _ _ _ hg, State.raised_me hm, Unit.raiseLbl_readB, Unit.raiseLbl_baseL]
    rfl
  rw [he]
  rcases (s.raised gl).syswrBad_cases n.toNat v.v with ⟨hok, hb⟩ | ⟨hno, hb⟩
  · rw [show (s.raised gl).syswrBad s.active n.toNat v.v = none from hb]
    refine ⟨fun _ => congrArg _ ?_, fun hno => absurd (ha.mp hok) hno⟩
    rw [State.raised_modMe_withLabel hm]
    refine s.modMe_congr _ _ ?_
    simp only [sysWritten_eq (ha.mp hok), withLabel_iss, Unit.due_issue (withLabel_iss s.me gl) rfl]
  · rw [show (s.raised gl).syswrBad s.active n.toNat v.v = _ from hb]
    refine ⟨fun hok => absurd (ha.mpr hok) hno, fun _ => congrArg Host.Outcome.next ?_⟩
    have hn : n.toNat = 0x0C ↔ n = 0x0C#8 := by simp [BitVec.toNat_eq]
    simp only [hs1, hn]
    rfl

end Sys2Proof.Machine
end

section

/-! Fences and the C words: one law for the issue of a C word, its checks in their order, then the words one by one
(spec 08, R197 to R218, R238; spec 17, R327), then O14, O29, O30, O31 and O32. -/

namespace Sys2Proof.Machine
open Claims

/-! ## Fences -/

/-- Scopes from DIE on (R324). -/
theorem scopeN_ge_two (sc : Scope) : scopeN sc ≥ 2 ↔ sc = .die ∨ sc = .package ∨ sc = .system := by
  cases sc <;> simp [scopeN]

theorem State.unperformed_iff (s : State) : s.unperformed s.active = true ↔ behind s := by
  simp only [State.unperformed, behind, List.any_eq_true, Bool.and_eq_true, Bool.or_eq_true, Bool.not_eq_true',
    decide_eq_true_eq, and_assoc, or_assoc]

/-- What a fence leaves: a word of its own, which waits for the incomplete ones, and the mark on the UN lines (R215, R327). -/
theorem State.fence_leaves (s : State) (sc : Scope) (hm : s.me.mode ≠ .idle) :
    let t := (s.fence s.active sc).1
    let w := t.xwords.get s.xnext
    t.xnext = s.xnext + 1 ∧ w.kind = .cfence sc ∧ w.unit = s.active ∧ w.wait = openOf s ∧ w.issue = s.me.iss.cyc
      ∧ (∀ k, k ≠ s.xnext → t.xwords.get k = s.xwords.get k)
      ∧ t.me = if scopeN sc ≥ 2 then { s.me with unMark := s.unNext } else s.me := by
  intro t w
  have hx : t.xwords = s.xwords.put s.xnext { (default : XWord) with
      kind := .cfence sc, unit := s.active, task := s.me.task.getD 0, asid := s.asidOf s.active, issue := s.me.iss.cyc
      segno := s.me.seg.segno, segs := s.me.segs, phase := s.me.vol.commits, wait := openOf s } := by
    simp only [t, State.fence]
    split <;> rfl
  have hw : w = _ := (congrArg (Tab.get · s.xnext) hx).trans (Tab.get_put_of_ne _ _ _ fun e =>
    XKind.noConfusion (congrArg XWord.kind e))
  refine ⟨?_, by rw [hw], by rw [hw], by rw [hw], by rw [hw], fun k hk => ?_, ?_⟩
  · simp only [t, State.fence]
    split <;> rfl
  · rw [hx]
    exact Tab.get_put_ne _ _ _ _ hk
  · simp only [t, State.fence]
    split
    · exact State.me_modMe _ _ hm
    · rfl

/-- The mark a fence of scope DIE or wider leaves on the active unit (R327). -/
def State.markUn (s : State) (sc : Scope) : State :=
  if scopeN sc ≥ 2 then s.modMe fun x => { x with unMark := s.unNext } else s

theorem State.markUn_xwords (s : State) (sc : Scope) : (s.markUn sc).xwords = s.xwords := by
  unfold State.markUn
  split <;> rfl

/-- FENCE under a true guard: the mark alone, where nothing is still to be performed, or a fence word. -/
theorem exec_fence {s : State} {g : POp} (hg : (s.me.readP g).v = true) (h : Hdr) (sc : Scope) :
    let s1 := s.raised (s.me.readP g).l
    (384 ≤ s.active ∨ ¬ behind s → exec (.fence h sc g) s = .next (s1.markUn sc))
    ∧ (s.active < 384 → behind s → exec (.fence h sc g) s = .next (s1.fence s.active sc).1) := by
  intro s1
  have hq : isSeq s1.active = true ↔ 384 ≤ s.active := decide_eq_true_iff
  have hn : (!s1.unperformed s1.active) = true ↔ ¬ behind s := by
    rw [Bool.not_eq_true', ← Bool.not_eq_true]
    exact not_congr s.unperformed_iff
  have he : exec (.fence h sc g) s = .next (if isSeq s1.active then s1.markUn sc
      else if !s1.unperformed s1.active then s1.markUn sc else (s1.fence s.active sc).1) := by
    show execFence h sc g s = _
    simp only [execFence, guarded_true _ _ _ hg]
    rfl
  rw [he]
  refine ⟨fun h => ?_, fun hu hb => ?_⟩
  · by_cases hu : 384 ≤ s.active
    · rw [if_pos (hq.mpr hu)]
    · rw [if_neg (mt hq.mp hu), if_pos (hn.mpr (h.resolve_left hu))]
  · rw [if_neg (mt hq.mp (Nat.not_le.mpr hu)), if_neg (mt hn.mp (not_not.mpr hb))]

/-- Settles O14: FENCE with nothing to wait for, and the fence word. -/
theorem fenceWord : Obligations.FenceWord := by
  intro s h g sc hw hg s1 wide
  have hm := working_not_idle hw
  have hs1 : s1 = s.raised (s.me.readP g).l := by
    simp only [s1, withLabel_eq]
    exact s.modMe_congr _ _ rfl
  have hwide : scopeN sc ≥ 2 ↔ wide := scopeN_ge_two sc
  obtain ⟨hlight, hword⟩ := exec_fence hg h sc
  rw [← hs1] at hlight hword
  refine ⟨fun hn => ⟨_, hlight hn, s1.markUn_xwords sc, fun hwd => ?_, fun hwd => ?_⟩, fun hu hb => ?_⟩
  · exact if_pos (hwide.mpr hwd)
  · exact if_neg (mt hwide.mp hwd)
  · have hm1 : s1.me.mode ≠ .idle := by rw [hs1, State.raised_me hm, Unit.raiseLbl_mode]; exact hm
    obtain ⟨hnext, hkind, hunit, hwait, -, helse, hme⟩ := s1.fence_leaves sc hm1
    refine ⟨_, hword hu hb, hnext, hwait, hkind, hunit, helse, fun hwd => ?_, fun hwd => ?_⟩
    · exact hme.trans (if_pos (hwide.mpr hwd))
    · exact hme.trans (if_neg (mt hwide.mp hwd))

/-! ## Records of a C word -/

/-- What leaves a unit as it is but for effects to come. -/
def onlyPends (x y : Unit) : Prop := y = { x with pend := y.pend }

theorem onlyPends.trans {x y z : Unit} (h : onlyPends x y) (h' : onlyPends y z) : onlyPends x z := by
  unfold onlyPends at *
  rw [h', h]

theorem onlyPends.iss {x y : Unit} (h : onlyPends x y) : y.iss = x.iss := by rw [onlyPends] at h; rw [h]
theorem onlyPends.task {x y : Unit} (h : onlyPends x y) : y.task = x.task := by rw [onlyPends] at h; rw [h]
theorem onlyPends.mode {x y : Unit} (h : onlyPends x y) : y.mode = x.mode := by rw [onlyPends] at h; rw [h]

theorem onlyPends_mayNote (x : Unit) (kind : Nat) (l : Label) (h : Option Hnd) (c : Option (Quad Int)) :
    onlyPends x (mayNote x kind l h c) := by
  unfold mayNote
  split <;> rfl

theorem onlyPends_noteCnt (s : State) (r : CRes) (x : Unit) : onlyPends x (noteCnt s r x) := by
  unfold noteCnt
  split
  · dsimp only; split <;> rfl
  · rfl

/-- The records of a C word are effects to come. -/
theorem onlyPends_notedC (s : State) (r : CRes) (x : Unit) : onlyPends x (notedC s r x) :=
  (((onlyPends_mayNote ..).trans (onlyPends_mayNote ..)).trans (onlyPends_mayNote ..)).trans (onlyPends_noteCnt ..)

/-! ## Counters -/

theorem counterOk_iff (b : Box) :
    counterOk b = true ↔ b.present = true ∧ b.layout = 0x30 ∧ (b.scope = .scratch ∨ b.mode = .stream) := by
  simp [counterOk, and_assoc]

theorem not_counterFits_iff (s : State) (r : CRes) :
    (counterOf s r).any (fun b => !counterOk b) = true ↔ ¬ counterFits s r := by
  unfold counterFits
  simp only [← counterOk_iff]
  cases counterOf s r <;> simp

/-! ## A C word and its statement -/

/-- A C word of the model is what its statement says, but for the records and the extra checks. -/
structure Agrees (s : State) (w : CWord) (r : CRes) : Prop where
  kind : w.kind = r.kind
  src : w.src = r.src
  dst : w.dst = r.dst
  cnt : w.cnt = r.cnt
  amt : w.amt = r.amt
  ok : w.ok = true ↔ r.ok
  late : r.late → w.late = some 5
  inTime : ¬ r.late → w.late = none
  own : ∀ l, r.own l → w.extra l = none
  notes : ∀ x l, x.iss.timed = true → recWord x l w = mayNote (mayNote (mayNote x kRead l r.src r.outS) kRead l r.also
    (r.also.bind fun h => h.outside true)) kWrite l r.dst r.outD

section
variable {s : State} {w : CWord} {r : CRes} (ha : Agrees s w r)
include ha

theorem Agrees.counter : s.counterOf w.cnt w.amt = r.cnt.map fun c =>
    (⟨{ (default : Desc) with slot := c.1 }, s.box s.active c.1.toNat⟩, c.2.toNat, r.amt) := by
  rw [ha.cnt, ha.amt]; rfl

theorem Agrees.label : s.labelC w = cLab s r := by
  have hc := ha.counter
  unfold State.labelC cLab counterOf
  simp only [hc, ha.kind, ha.src, ha.dst]
  cases r.src <;> cases r.dst <;> cases r.cnt <;> simp <;> rfl

/-- What holds of the counter's box, if one is named. -/
theorem Agrees.counter_any (p : Box → Bool) :
    ((s.counterOf w.cnt w.amt).isSome && p (cntBox (s.counterOf w.cnt w.amt))) = (Claims.counterOf s r).any p := by
  rw [ha.counter, Claims.counterOf]
  cases r.cnt <;> simp [cntBox]

theorem Agrees.refused : (!w.ok || ((s.counterOf w.cnt w.amt).isSome && !counterOk (cntBox (s.counterOf w.cnt w.amt)))) = true
    ↔ ¬ (r.ok ∧ counterFits s r) := by
  rw [ha.counter_any fun b => !counterOk b, Bool.or_eq_true, Bool.not_eq_true', ← Bool.not_eq_true, ha.ok, not_and_or,
    not_counterFits_iff]

theorem Agrees.full : (w.kind.counted && decide (s.underWay s.active ≥ 32)) = true ↔ ¬ roomLeft s r := by
  simp [roomLeft, ha.kind]

/-- The record of a counter's index (R201), of a word that issues in a segment. -/
theorem Agrees.recCnt_eq {y : Unit} (ht : y.iss.timed = true) :
    recCnt y (cLab s r) w (s.counterOf w.cnt w.amt) = noteCnt s r y := by
  rw [ha.counter]
  unfold recCnt noteCnt
  rw [ha.cnt]
  cases r.cnt with
  | none => rfl
  | some c =>
    by_cases hb : (s.box s.active c.1.toNat).has ⟨(c.2.toNat : Int), 0, 0, 0⟩ = true
    · exact (if_pos hb).trans (if_pos hb).symm
    · exact (if_neg hb).trans ((if_pos ht).trans (if_neg hb).symm)

theorem Agrees.counted_eq :
    (if cntIn (s.counterOf w.cnt w.amt) then s.counterOf w.cnt w.amt else none) = counted s r := by
  rw [ha.counter, counted]
  cases r.cnt <;> rfl

end

/-- The word is under way (R197). -/
def State.enter (s : State) (r : CRes) : State :=
  { s with xwords := s.xwords.put s.xnext (Claims.underWay s r), xnext := s.xnext + 1 }

/-- The word is under way, its records are made. -/
def State.entered (s : State) (r : CRes) : State := (s.enter r).modMe (notedC s r)

theorem State.newWord_modMe {s : State} {f : Unit → Unit} (hm : s.me.mode ≠ .idle) (hf : onlyPends s.me (f s.me)) (w : XWord) :
    (s.modMe f).newWord w = (s.newWord w).modMe f := by
  have hme : (s.modMe f).me = { s.me with pend := (f s.me).pend } := (s.me_modMe f (by rw [hf]; exact hm)).trans hf
  have ht : (s.modMe f).taskOf s.active = s.taskOf s.active :=
    State.taskOf_modMe (by rw [hf]; exact hm) (by rw [hf])
  have hp : (s.modMe f).prot s.active = s.prot s.active := by
    simp only [State.prot, State.entryOf, State.launchOf, ht]; rfl
  have ha : (s.modMe f).asidOf s.active = s.asidOf s.active := by
    simp only [State.asidOf, State.launchOf, ht]; rfl
  have hw : (s.modMe f).waitsOf s.active = s.waitsOf s.active := by
    simp only [State.waitsOf, hp]; rfl
  unfold State.newWord
  simp only [hme, State.modMe_active, hp, ha, hw, show (s.modMe f).afterOf s.active = s.afterOf s.active from rfl]
  rfl

theorem State.newWord_underWay {s : State} {w : CWord} {r : CRes} (ha : Agrees s w r) :
    s.newWord { (default : XWord) with
      kind := w.kind, lab := cLab s r, src := w.src.getD default, dst := w.dst.getD default
      cnt := if cntIn (s.counterOf w.cnt w.amt) then s.counterOf w.cnt w.amt else none } = s.enter r := by
  rw [ha.counted_eq, ha.kind, ha.src, ha.dst]
  rfl

section
variable {s : State} {w : CWord} {r : CRes} (ha : Agrees s w r) (k : State → Nat → State)
include ha

/-- The end of the issue of a C word, all checks passed. -/
theorem Agrees.go (hi : issuing s) :
    State.issueC.go s w k (cLab s r) (s.counterOf w.cnt w.amt) = k (s.entered r) s.xnext := by
  obtain ⟨ht, hmode⟩ := hi
  have hm : s.me.mode ≠ .idle := by simp [hmode]
  have hn : recCnt (recWord s.me (cLab s r) w) (cLab s r) w (s.counterOf w.cnt w.amt) = notedC s r s.me := by
    rw [ha.notes s.me _ ht]
    refine ha.recCnt_eq ?_
    rw [(((onlyPends_mayNote ..).trans (onlyPends_mayNote ..)).trans (onlyPends_mayNote ..) : onlyPends s.me _).iss]
    exact ht
  have hmod : (s.modMe fun x => recCnt (recWord x (cLab s r) w) (cLab s r) w (s.counterOf w.cnt w.amt)) = s.modMe (notedC s r) :=
    s.modMe_congr _ _ hn
  unfold State.issueC.go
  simp only [hmod, State.newWord_modMe hm (onlyPends_notedC s r s.me), State.newWord_underWay ha]
  rfl

/-- The first checks (R198, R201). -/
theorem Agrees.issue_refused (h : ¬ (r.ok ∧ counterFits s r)) : s.issueC w k = s.fail lanC fIllegalOperand 0 (cLab s r) := by
  rw [← ha.label]
  exact if_pos (ha.refused.mpr h)

theorem Agrees.issue_late (hok : r.ok) (hc : counterFits s r) (h : r.late) :
    s.issueC w k = s.fail lanC fScheduleMiss 5 (cLab s r) := by
  rw [← ha.label]
  refine (if_neg (mt ha.refused.mp (not_not.mpr ⟨hok, hc⟩))).trans ?_
  rw [ha.late h]
  rfl

theorem Agrees.issue_full (hok : r.ok) (hc : counterFits s r) (hl : ¬ r.late) (h : ¬ roomLeft s r) :
    s.issueC w k = s.fail lanC fScheduleMiss 6 (cLab s r) := by
  rw [← ha.label]
  refine (if_neg (mt ha.refused.mp (not_not.mpr ⟨hok, hc⟩))).trans ?_
  rw [ha.inTime hl]
  exact if_pos (ha.full.mpr h)

end

/-- The first checks of a C word stand: its operands, its counter, its time and its room (R198, R201, R202). -/
def stands (s : State) (r : CRes) : Prop := r.ok ∧ counterFits s r ∧ ¬ r.late ∧ roomLeft s r

section
variable {s : State} {w : CWord} {r : CRes} (ha : Agrees s w r) (k : State → Nat → State) (hs : stands s r)
include ha hs

/-- The checks of a word with a destination (R199, R201), and what may be its own. -/
theorem Agrees.issue_dst {h : Hnd} (hd : r.dst = some h) :
    let l := cLab s r
    let boxFlt (code sub : Nat) (l : Label) (h : Hnd) := s.failBox lanC code sub l h.desc.slot.toNat (h.box.detail (h.coord 0))
    s.issueC w k =
      if h.box.mode = .in_ then boxFlt fPermission 0 l h
      else if (counterOf s r).any (fun b => decide (b.mode = .in_)) then s.fail lanC fPermission 0 l
      else if !Label.sub l h.box.lab then boxFlt fLabelFlow 1 l h
      else if (counterOf s r).any (fun b => !Label.sub l b.lab) then s.fail lanC fLabelFlow 1 l
      else match w.extra l with
        | some e => boxFlt e.1 (if e.1 = fLabelFlow then 1 else 0) e.2.2 e.2.1
        | none => State.issueC.go s w k l (s.counterOf w.cnt w.amt) := by
  intro l boxFlt
  obtain ⟨hok, hc, hl, hr⟩ := hs
  rw [← ha.counter_any, ← ha.counter_any fun b => !Label.sub l b.lab]
  simp only [l, ← ha.label]
  refine (if_neg (mt ha.refused.mp (not_not.mpr ⟨hok, hc⟩))).trans ?_
  rw [ha.inTime hl]
  refine (if_neg (mt ha.full.mp (not_not.mpr hr))).trans ?_
  rw [ha.dst, hd]
  cases w.extra (s.labelC w) <;> rfl

theorem Agrees.issue_no_dst (hd : r.dst = none) :
    let l := cLab s r
    s.issueC w k =
      if (counterOf s r).any (fun b => decide (b.mode = .in_)) then s.fail lanC fPermission 0 l
      else if (counterOf s r).any (fun b => !Label.sub l b.lab) then s.fail lanC fLabelFlow 1 l
      else State.issueC.go s w k l (s.counterOf w.cnt w.amt) := by
  intro l
  obtain ⟨hok, hc, hl, hr⟩ := hs
  rw [← ha.counter_any, ← ha.counter_any fun b => !Label.sub l b.lab]
  simp only [l, ← ha.label]
  refine (if_neg (mt ha.refused.mp (not_not.mpr ⟨hok, hc⟩))).trans ?_
  rw [ha.inTime hl]
  refine (if_neg (mt ha.full.mp (not_not.mpr hr))).trans ?_
  rw [ha.dst, hd]
  rfl

end

/-- Every check stands: the word is under way (R197, R200). -/
theorem Agrees.issue_cleared {s : State} {w : CWord} {r : CRes} (ha : Agrees s w r) (k : State → Nat → State)
    (hi : issuing s) (hc : cleared s r) : s.issueC w k = k (s.entered r) s.xnext := by
  obtain ⟨hok, hfits, hl, hroom, hown, hdst, hcnt⟩ := hc
  have hs : stands s r := ⟨hok, hfits, hl, hroom⟩
  have hin : (counterOf s r).any (fun b => decide (b.mode = .in_)) = false :=
    (Option.any_eq_false ..).mpr fun b hb => decide_eq_false (hcnt b hb).1
  have hlab : (counterOf s r).any (fun b => !Label.sub (cLab s r) b.lab) = false :=
    (Option.any_eq_false ..).mpr fun b hb => by rw [(hcnt b hb).2]; rfl
  rw [← ha.go k hi]
  cases hd : r.dst with
  | none =>
    rw [ha.issue_no_dst k hs hd, hin, hlab]
    rfl
  | some h =>
    obtain ⟨hmode, hsub⟩ := hdst h hd
    rw [ha.issue_dst k hs hd, if_neg hmode, hin, hsub, hlab, ha.own _ hown]
    rfl

/-! ## What the words leave -/

/-- The state a C word leaves whose checks stand. -/
def State.issued (s : State) (r : CRes) : State :=
  ({ s with
    xwords := s.xwords.put s.xnext (Claims.underWay s r), xnext := s.xnext + 1, xin := s.xin ++ r.sends.toList } : State).modMe
    fun x => r.next (notedC s r x)

/-- A C word of the model issues as its statement says. -/
def issuesAs (s : State) (i : Instr) (r : CRes) : Prop :=
  ∃ w k, exec i s = .next (s.issueC w k) ∧ Agrees s w r ∧ k (s.entered r) s.xnext = s.issued r

theorem notedC_mode_ne {s : State} (hi : issuing s) (r : CRes) : (notedC s r s.me).mode ≠ .idle := by
  obtain ⟨-, hmode⟩ := hi
  rw [(onlyPends_notedC ..).mode, hmode]
  exact UMode.noConfusion

/-- A word that only changes its unit after its records. -/
theorem State.entered_modMe {s : State} {r : CRes} {f : Unit → Unit} (hi : issuing s) (hr : r.sends = none)
    (hf : ∀ y : Unit, y.iss = s.me.iss → f y = r.next y) : (s.entered r).modMe f = s.issued r := by
  rw [State.entered, State.modMe_modMe (s.enter r) _ _ (notedC_mode_ne hi r), State.issued, hr, Option.toList_none,
    List.append_nil]
  exact State.modMe_congr _ _ _ (hf _ ((onlyPends_notedC s r s.me).iss))

theorem State.entered_eq_issued {s : State} {r : CRes} (hr : r.sends = none) (hn : r.next = id) :
    s.entered r = s.issued r := by
  rw [State.issued, hr, Option.toList_none, List.append_nil, hn]
  rfl

theorem advanceC_eq (x : Unit) (d : BitVec 4) (h : Hnd) (adv : Bool) : advanceC x d h adv = steppedC x d h adv := by
  cases adv with
  | false => rfl
  | true => by_cases hr : 2 ≤ h.box.rank <;> simp [advanceC, steppedC, hr] <;> rfl

theorem hnd_eq_handle : State.hnd = handle := rfl

theorem steppedC_iss (x : Unit) (d : BitVec 4) (h : Hnd) (adv : Bool) : (steppedC x d h adv).iss = x.iss := by
  cases adv <;> rfl

theorem beatsOf_eq (x : Unit) (k : Nat) (h : Hnd) : beatsOf x k h = beats x k h := by
  have hd (y : Unit) (b : Nat) (hy : y.iss = x.iss) :
      y.due (y.iss.cyc + 3 + b) phSample lnC (.beat k b) = addEffs y [(3 + b, phSample, lnC, .beat k b)] :=
    Unit.due_issue rfl (Nat.add_assoc ..)
  rw [beatsOf, foldl_addEffs rfl hd, ← List.map_eq_flatMap]
  rfl

/-- The exchange of a RROT: it is matched at its issue, and unit t is read and written at c + 4 + t (R209, R211). -/
theorem rotates_eq {x : Unit} {i : Iss} (hx : x.iss = i) {c : Nat} (hc : c = i.cyc) (k n : Nat) :
    (List.range n).foldl (fun x t => (x.due (x.iss.cyc + 4 + t) phSample lnC (.rrot k t)).due (x.iss.cyc + 4 + t) phWrite lnC
      (.rput k t)) (x.due c phNow lnC (.rmatch k)) =
    addEffs x ([(0, phNow, lnC, .rmatch k)] ++ (List.range n).flatMap fun t =>
      [(4 + t, phSample, lnC, .rrot k t), (4 + t, phWrite, lnC, .rput k t)]) := by
  have hr (y : Unit) (t : Nat) (hy : y.iss = i) :
      (y.due (y.iss.cyc + 4 + t) phSample lnC (.rrot k t)).due (y.iss.cyc + 4 + t) phWrite lnC (.rput k t) =
        addEffs y [(4 + t, phSample, lnC, .rrot k t), (4 + t, phWrite, lnC, .rput k t)] := by
    rw [Nat.add_assoc]
    rfl
  subst hx hc
  rw [foldl_addEffs (x := x.due x.iss.cyc phNow lnC (.rmatch k)) rfl hr, addEffs_append]
  rfl

/-- The record of an element outside its box, of a word that issues in a segment. -/
theorem recC_eq {x : Unit} (ht : x.iss.timed = true) (l : Label) (h : Option Hnd) (rd : Bool) :
    recC x l h rd = mayNote x (if rd then kRead else kWrite) l h (h.bind fun h => h.outside rd) := by
  cases h with
  | none => rfl
  | some h =>
    cases ho : h.outside rd with
    | none => simp only [recC, ho, Option.bind_some]; rfl
    | some c => simp only [recC, ho, Option.bind_some]; exact if_pos ht

theorem recC_timed {x : Unit} (ht : x.iss.timed = true) (l : Label) (h : Option Hnd) (rd : Bool) :
    (recC x l h rd).iss.timed = true := by
  rw [recC_eq ht, (onlyPends_mayNote ..).iss]
  exact ht

/-- The records of a source and a destination. -/
theorem recC_recC_eq {x : Unit} (ht : x.iss.timed = true) (l : Label) (a b : Option Hnd) :
    recC (recC x l a true) l b false =
      mayNote (mayNote x kRead l a (a.bind fun h => h.outside true)) kWrite l b (b.bind fun h => h.outside false) := by
  rw [recC_eq (recC_timed ht ..), recC_eq ht]
  rfl

/-- Those of a CAS, which reads a second source element (R213, R274). -/
theorem recC_cas_eq {x : Unit} (ht : x.iss.timed = true) (l : Label) (a : Hnd) {c c' : Hnd} (hc : c = c') (b : Option Hnd) :
    recC (recC (recC x l (some a) true) l (some c) true) l b false =
      mayNote (mayNote (mayNote x kRead l (some a) (a.outside true)) kRead l (some c') (c'.outside true)) kWrite l b
        (b.bind fun h => h.outside false) := by
  rw [← hc, recC_recC_eq (recC_timed ht ..), recC_eq ht]
  rfl

/-- A word without checks of its own, that takes the elements of its regions in order. -/
theorem Agrees.plain {s : State} {w : CWord} {r : CRes}
    (hw : w = ⟨r.kind, r.src, r.dst, r.cnt, r.amt, w.ok, none, noExtra⟩) (hok : w.ok = true ↔ r.ok) (hl : r.late = False)
    (hrec : ∀ x l, recWord x l w = recC (recC x l r.src true) l r.dst false) (halso : r.also = none)
    (hS : r.outS = r.src.bind fun h => h.outside true) (hD : r.outD = r.dst.bind fun h => h.outside false) :
    Agrees s w r where
  kind := by rw [hw]
  src := by rw [hw]
  dst := by rw [hw]
  cnt := by rw [hw]
  amt := by rw [hw]
  ok := hok
  late h := by rw [hl] at h; exact h.elim
  inTime _ := by rw [hw]
  own l _ := by rw [hw]; rfl
  notes x l ht := by
    rw [hrec, halso, hS, hD]
    exact recC_recC_eq ht ..

/-! ## The copies -/

theorem issuesAs_copyWord {s : State} {i : Instr} {r : CRes} (hi : issuing s) (hr : copyWord s i = some r) : issuesAs s i r := by
  cases i with
  | cin h f =>
    cases hr
    refine ⟨_, _, rfl, Agrees.plain rfl ?_ rfl (fun _ _ => rfl) rfl rfl rfl, State.entered_modMe hi rfl fun y hy => ?_⟩
    · simp only [Bool.and_eq_true, decide_eq_true_eq, and_assoc]; rfl
    · simp only [advanceC_eq, hnd_eq_handle]
  | cout h f | coutNa h f =>
    cases hr
    refine ⟨_, _, rfl, Agrees.plain rfl ?_ rfl (fun _ _ => rfl) rfl rfl rfl, State.entered_modMe hi rfl fun y hy => ?_⟩
    · simp only [Bool.and_eq_true, decide_eq_true_eq, and_assoc]; rfl
    · simp only [advanceC_eq, beatsOf_eq, hnd_eq_handle]
  | cslice h f n1 =>
    cases hr
    refine ⟨_, _, rfl, Agrees.plain rfl ?_ rfl (fun _ _ => rfl) rfl rfl rfl, State.entered_modMe hi rfl fun y hy => ?_⟩
    · simp only [Bool.and_eq_true, decide_eq_true_eq, and_assoc]; rfl
    · simp only [advanceC_eq, hnd_eq_handle]
      exact Unit.due_issue ((steppedC_iss ..).trans (steppedC_iss ..)) rfl
  | rrot h dst src advd advs prev =>
    cases hr
    refine ⟨_, _, rfl, Agrees.plain rfl ?_ rfl (fun _ _ => rfl) rfl rfl rfl, State.entered_modMe hi rfl fun y hy => ?_⟩
    · simp only [Bool.and_eq_true, Bool.not_eq_true', decide_eq_true_eq, and_assoc]; rfl
    · simp only [advanceC_eq, hnd_eq_handle]
      exact rotates_eq ((steppedC_iss ..).trans (steppedC_iss ..)) rfl _ _
  | txrun h f id =>
    cases hr
    refine ⟨_, _, rfl, Agrees.plain rfl ?_ rfl (fun _ _ => rfl) rfl rfl rfl, State.entered_modMe hi rfl fun y hy => ?_⟩
    · simp only [Bool.and_eq_true, Bool.not_eq_true', decide_eq_true_eq, and_assoc]; rfl
    · simp only [advanceC_eq, hnd_eq_handle]
  | txload h src id =>
    cases hr
    refine ⟨_, _, rfl, Agrees.plain rfl ?_ rfl (fun _ _ => rfl) rfl rfl rfl, ?_⟩
    · simp only [Bool.and_eq_true, decide_eq_true_eq]; rfl
    · exact State.entered_eq_issued rfl rfl
  | _ => exact nomatch hr

theorem issues_of_issuesAs {s : State} {i : Instr} {r : CRes} (h : issuesAs s i r) (hi : issuing s) (hc : cleared s r) :
    issues s i r := by
  obtain ⟨w, k, he, ha, hk⟩ := h
  exact he.trans (congrArg _ ((ha.issue_cleared k hi hc).trans hk))

/-- Settles O29: every copy issues as its statement says. -/
theorem copyWordsIssue : Obligations.CopyWordsIssue :=
  fun _ _ _ hi hr hc => issues_of_issuesAs (issuesAs_copyWord hi hr) hi hc

/-! ## The signal words -/

/-- A RATOM takes the first element of its regions, and a CAS the one after it (log 102). -/
theorem Hnd.one_zero (h : Hnd) : h.one 0 = { h with desc := { h.desc with
    org := h.desc.org.set 0 (BitVec.ofInt 30 (h.desc.orgZ 0)), ext := ⟨1, 1, 1, 1⟩ } } := by
  simp [Hnd.one]

theorem Hnd.one_zero_one (h : Hnd) : (h.one 0).one 1 = { h.one 0 with desc := { (h.one 0).desc with
    org := (h.one 0).desc.org.set 0 (BitVec.ofInt 30 ((h.one 0).desc.orgZ 0 + (h.one 0).desc.stepZ 0)) } } := by
  simp [Hnd.one]

theorem issuesAs_csig {s : State} {h : Hdr} {slot : BitVec 4} {idx : BitVec 8} {amt : BitVec 14} {r : CRes}
    (hr : signalWord s (.csig h slot idx amt) = some r) : issuesAs s (.csig h slot idx amt) r := by
  cases hr
  exact ⟨_, _, rfl, Agrees.plain rfl (by simp) rfl (fun _ _ => rfl) rfl rfl rfl, State.entered_eq_issued rfl rfl⟩

theorem recFirst_eq {x : Unit} (ht : x.iss.timed = true) (l : Label) (h : Hnd) (o : Option (Nat × Quad Int)) :
    recFirst x l h o = mayNote x kRead l (some h) (o.map (·.2)) := by
  cases o with
  | none => rfl
  | some e => exact if_pos ht

theorem issuesAs_cfill {s : State} (hi : issuing s) {h : Hdr} {src : BitVec 4} {cnt : Option (BitVec 4 × BitVec 8)}
    {advs : Bool} {r : CRes} (hr : signalWord s (.cfill h src cnt advs) = some r) : issuesAs s (.cfill h src cnt advs) r := by
  cases hr
  refine ⟨_, _, rfl, ⟨rfl, rfl, rfl, rfl, rfl, ?ok, fun hl => ?late, fun hl => ?inTime, fun _ _ => rfl, fun x l ht => ?notes⟩,
    State.entered_modMe hi rfl fun y hy => ?next⟩
  case ok =>
    simp only [Bool.and_eq_true, decide_eq_true_eq, and_assoc, ← hnd_eq_handle]
    by_cases hz : layZmask (s.hnd src).box.layout = true
    · simp only [hz, if_true, Bool.and_eq_true, decide_eq_true_eq, and_assoc]
    · simp only [hz, Bool.false_eq_true, if_false]
  case late =>
    refine if_pos ?_
    simp only [Bool.or_eq_true, decide_eq_true_eq]
    exact hl.elim (fun h0 => .inl (.inl h0)) .inr
  case inTime =>
    obtain ⟨h0, hn⟩ := not_or.mp hl
    refine if_neg ?_
    simp only [Bool.or_eq_true, decide_eq_true_eq, not_or]
    exact ⟨⟨h0, fun h => hn (Nat.lt_of_lt_of_le h (Nat.le_add_left ..))⟩, hn⟩
  case notes => exact recFirst_eq ht l _ _
  case next => simp only [advanceC_eq, hnd_eq_handle]

/-- What the statements say of a RATOM, its elements named as the model does. -/
def ratomRes (s : State) (op : AOp) (wide : Bool) (tgt src : BitVec 4) (cnt : Option (BitVec 4 × BitVec 8)) : CRes :=
  let a := (handle s src).one 0
  let b := (handle s tgt).one 0
  let lay := if wide then 4 else 3
  { kind := .ratom op wide s.me.regs.tag 0 0 0, src := some a, dst := some b, cnt := cnt, amt := 1
    ok := b.okC = true ∧ a.okC = true ∧ b.box.mode = .stream ∧ a.box.mode ≠ .stream ∧ b.box.layout = lay
      ∧ a.box.layout = lay
    also := match op with | .cas => some (a.one 1) | _ => none
    own := fun l => a.box.mode ≠ .in_ ∧ Label.sub (l ||| b.box.lab) a.box.lab = true
    next := fun x => addEffs { x with regs := { x.regs with tag := x.regs.tag + 1#16 } } [(2, phSample, lnC, .rsamp s.xnext)] }

theorem signalWord_ratom (s : State) (h : Hdr) (op : AOp) (wide : Bool) (tgt src : BitVec 4)
    (cnt : Option (BitVec 4 × BitVec 8)) :
    signalWord s (.ratom h op wide tgt src cnt) = some (ratomRes s op wide tgt src cnt) := by
  simp only [ratomRes, Hnd.one_zero_one]
  simp only [Hnd.one_zero]
  cases op <;> rfl

/-- The model's RATOM. -/
def ratomWord (s : State) (op : AOp) (wide : Bool) (tgt src : BitVec 4) (cnt : Option (BitVec 4 × BitVec 8)) : CWord :=
  let a := (handle s src).one 0
  let b := (handle s tgt).one 0
  let lay := if wide then 0x04 else 0x03
  { kind := .ratom op wide s.me.regs.tag 0 0 0, src := some a, dst := some b, cnt := cnt, amt := 1
    ok := b.okC && a.okC && b.box.mode = .stream && a.box.mode ≠ .stream && decide (b.box.layout = lay)
      && decide (a.box.layout = lay)
    late := none
    extra := fun l =>
      if a.box.mode = .in_ then some (fPermission, a, l)
      else if !Label.sub (l ||| b.box.lab) a.box.lab then some (fLabelFlow, a, l ||| b.box.lab) else none }

theorem exec_ratom (s : State) (h : Hdr) (op : AOp) (wide : Bool) (tgt src : BitVec 4)
    (cnt : Option (BitVec 4 × BitVec 8)) : exec (.ratom h op wide tgt src cnt) s =
      .next (s.issueC (ratomWord s op wide tgt src cnt) fun t k => t.modMe fun x =>
        { x with regs := { x.regs with tag := x.regs.tag + 1#16 } }.due (x.iss.cyc + 2) phSample lnC (.rsamp k)) := rfl

theorem agrees_ratom (s : State) (op : AOp) (wide : Bool) (tgt src : BitVec 4)
    (cnt : Option (BitVec 4 × BitVec 8)) : Agrees s (ratomWord s op wide tgt src cnt) (ratomRes s op wide tgt src cnt) := by
  refine ⟨rfl, rfl, rfl, rfl, rfl, ?ok, False.elim, fun _ => rfl, fun l hl => ?own, fun x l ht => ?notes⟩
  case ok => simp only [ratomWord, ratomRes, Bool.and_eq_true, decide_eq_true_eq, and_assoc]
  case own =>
    obtain ⟨hm, hl⟩ := hl
    exact (if_neg hm).trans (if_neg (Bool.eq_false_iff.mp (congrArg not hl)))
  case notes =>
    cases op with
    | cas => exact recC_cas_eq ht l ((handle s src).one 0) rfl (some ((handle s tgt).one 0))
    | _ => exact recC_recC_eq ht l (some ((handle s src).one 0)) (some ((handle s tgt).one 0))

theorem issuesAs_ratom {s : State} (hi : issuing s) (h : Hdr) (op : AOp) (wide : Bool) (tgt src : BitVec 4)
    (cnt : Option (BitVec 4 × BitVec 8)) :
    issuesAs s (.ratom h op wide tgt src cnt) (ratomRes s op wide tgt src cnt) :=
  ⟨_, _, exec_ratom .., agrees_ratom .., State.entered_modMe hi rfl fun _ _ => rfl⟩

theorem issuesAs_signalWord {s : State} {i : Instr} {r : CRes} (hi : issuing s) (hr : signalWord s i = some r) :
    issuesAs s i r := by
  cases i with
  | csig => exact issuesAs_csig hr
  | ratom =>
    rw [signalWord_ratom] at hr
    cases hr
    exact issuesAs_ratom hi ..
  | cfill => exact issuesAs_cfill hi hr
  | _ => exact nomatch hr

/-! ## XSEND and XRECV -/

theorem crossOk_iff (s : State) (die : BitVec 3) : crossOk s die = true ↔ reaches s die := by
  unfold crossOk reaches
  cases s.me.seg.tick <;> simp [and_assoc]

section
variable {s : State} {r : CRes} (hi : issuing s)
include hi

theorem State.entered_me : (s.entered r).me = notedC s r s.me := (s.enter r).me_modMe _ (notedC_mode_ne hi r)

omit hi in
theorem State.entered_active : (s.entered r).active = s.active := rfl

theorem State.entered_fnOf : (s.entered r).fnOf s.active = s.fnOf s.active := by
  have ht : (s.entered r).taskOf s.active = s.taskOf s.active :=
    State.taskOf_modMe (s := s.enter r) (notedC_mode_ne hi r) ((onlyPends_notedC s r s.me).task)
  simp only [State.fnOf, State.launchOf, ht]
  rfl

/-- A word that sends beside changing its unit. -/
theorem State.entered_send {f : Unit → Unit} {m m' : XMsg} (hr : r.sends = some m') (hm : m = m')
    (hf : ∀ y : Unit, y.iss = s.me.iss → f y = r.next y) :
    ({ s.entered r with xin := (s.entered r).xin ++ [m] } : State).modMe f = s.issued r := by
  subst hm
  rw [State.issued, hr, Option.toList_some]
  refine (State.modMe_modMe ({ s.enter r with xin := s.xin ++ [m] } : State) (notedC s r) f (notedC_mode_ne hi r)).trans ?_
  exact State.modMe_congr _ _ _ (hf _ ((onlyPends_notedC s r s.me).iss))

end

/-- A word of another kind than CIN reads back with its label. -/
theorem State.entered_lab {s : State} {r : CRes} (hk : r.kind ≠ .cin) :
    ((s.entered r).xwords.get s.xnext).lab = cLab s r :=
  congrArg XWord.lab (Tab.get_put_of_ne _ _ _ fun e => hk (congrArg XWord.kind e))

theorem issuesAs_xsend {s : State} (hi : issuing s) {h : Hdr} {src : BitVec 4} {die : BitVec 3} {ch : BitVec 6}
    {advs : Bool} {r : CRes} (hr : crossWord s (.xsend h src die ch advs) = some r) :
    issuesAs s (.xsend h src die ch advs) r := by
  cases hr
  refine ⟨_, _, rfl, Agrees.plain rfl ?ok rfl (fun _ _ => rfl) rfl rfl rfl, State.entered_send hi rfl ?message fun y hy => ?next⟩
  case ok => simp only [Bool.and_eq_true, decide_eq_true_eq, and_assoc, crossOk_iff]; rfl
  case message =>
    simp only [State.entered_lab, State.entered_me hi, (onlyPends_notedC ..).iss, State.entered_active, State.entered_fnOf hi,
      ne_eq, reduceCtorEq, not_false_eq_true, cLab, counterOf, immLab, Option.map_none, BitVec.or_zero]
    rfl
  case next => simp only [advanceC_eq, beatsOf_eq, hnd_eq_handle]

theorem issuesAs_xrecv {s : State} (hi : issuing s) {h : Hdr} {dst : BitVec 4} {die : BitVec 3} {ch : BitVec 6}
    {t : BitVec 32} {advd : Bool} {r : CRes} (hr : crossWord s (.xrecv h dst die ch t advd) = some r) :
    issuesAs s (.xrecv h dst die ch t advd) r := by
  cases hr
  refine ⟨_, _, rfl, Agrees.plain rfl ?ok rfl (fun _ _ => rfl) rfl rfl rfl, State.entered_modMe hi rfl fun y hy => ?next⟩
  case ok =>
    simp only [Bool.and_eq_true, decide_eq_true_eq, and_assoc, crossOk_iff]
    rw [hnd_eq_handle]
    cases s.senderOf die.toNat (dieOf s.active) ch.toNat _ _ with
    | none => simp only [reduceCtorEq, false_imp_iff, implies_true]
    | some m => simp only [Option.some.injEq, forall_eq', decide_eq_true_eq]
  case next => simp only [advanceC_eq, hnd_eq_handle, Unit.due, steppedC_iss]

theorem issuesAs_crossWord {s : State} {i : Instr} {r : CRes} (hi : issuing s) (hr : crossWord s i = some r) :
    issuesAs s i r := by
  cases i with
  | xsend => exact issuesAs_xsend hi hr
  | xrecv => exact issuesAs_xrecv hi hr
  | _ => exact nomatch hr

/-- Settles O30: XSEND and XRECV issue as their statements say. -/
theorem crossDieWordsIssue : Obligations.CrossDieWordsIssue :=
  fun _ _ _ hi hr hc => issues_of_issuesAs (issuesAs_crossWord hi hr) hi hc

/-- CFENCE is a fence word, and the mark of its scope. -/
theorem exec_cfence_leaves {s : State} (hi : issuing s) (h : Hdr) (sc : Scope) :
    ∃ t, exec (.cfence h sc) s = .next t ∧ t.xnext = s.xnext + 1
      ∧ (t.xwords.get s.xnext).kind = .cfence sc ∧ (t.xwords.get s.xnext).unit = s.active
      ∧ (t.xwords.get s.xnext).wait = openOf s ∧ (t.xwords.get s.xnext).issue = s.me.iss.cyc
      ∧ (∀ k, k ≠ s.xnext → t.xwords.get k = s.xwords.get k)
      ∧ t.me = if sc = .die ∨ sc = .package ∨ sc = .system then { s.me with unMark := s.unNext } else s.me := by
  obtain ⟨-, hmode⟩ := hi
  obtain ⟨hnext, hkind, hunit, hwait, hissue, helse, hme⟩ := s.fence_leaves sc (by simp [hmode])
  simp only [scopeN_ge_two] at hme
  exact ⟨_, rfl, hnext, hkind, hunit, hwait, hissue, helse, hme⟩

/-- Settles O32: CSIG, RATOM and CFILL as their statements say, and CFENCE. -/
theorem signalWordsIssue : Obligations.SignalWordsIssue :=
  ⟨fun _ _ _ hi hr hc => issues_of_issuesAs (issuesAs_signalWord hi hr) hi hc, fun _ h sc hi => exec_cfence_leaves hi h sc⟩

/-! ## The faults of the C words -/

theorem counterOf_writable {s : State} {r : CRes} (hc : ∀ b, counterOf s r = some b → b.mode ≠ .in_) :
    ¬ (counterOf s r).any (fun b => decide (b.mode = .in_)) = true := by
  rw [Option.any_eq_true]
  exact fun ⟨b, hb, hm⟩ => hc b hb (of_decide_eq_true hm)

section
variable {s : State} {w : CWord} {r : CRes} (ha : Agrees s w r) (k : State → Nat → State) (hs : stands s r)
include ha hs

/-- PERMISSION of the destination (R199). -/
theorem Agrees.issue_dst_in {h : Hnd} (hd : r.dst = some h) (hm : h.box.mode = .in_) : s.issueC w k =
    s.failBox lanC fPermission 0 (cLab s r) h.desc.slot.toNat (h.box.detail (h.coord 0)) := by
  rw [ha.issue_dst k hs hd, if_pos hm]

/-- PERMISSION of the counter's box (R201). -/
theorem Agrees.issue_counter_in (hw : ∀ h, r.dst = some h → h.box.mode ≠ .in_) {b : Box} (hb : counterOf s r = some b)
    (hm : b.mode = .in_) : s.issueC w k = s.fail lanC fPermission 0 (cLab s r) := by
  have hin : (counterOf s r).any (fun b => decide (b.mode = .in_)) = true :=
    (Option.any_eq_true ..).mpr ⟨b, hb, decide_eq_true hm⟩
  cases hd : r.dst with
  | none => rw [ha.issue_no_dst k hs hd, if_pos hin]
  | some h => rw [ha.issue_dst k hs hd, if_neg (hw h hd), if_pos hin]

/-- LABEL_FLOW of the destination (R199). -/
theorem Agrees.issue_dst_flow {h : Hnd} (hd : r.dst = some h) (hm : h.box.mode ≠ .in_)
    (hc : ∀ b, counterOf s r = some b → b.mode ≠ .in_) (hl : Label.sub (cLab s r) h.box.lab = false) : s.issueC w k =
    s.failBox lanC fLabelFlow 1 (cLab s r) h.desc.slot.toNat (h.box.detail (h.coord 0)) := by
  rw [ha.issue_dst k hs hd, if_neg hm, if_neg (counterOf_writable hc), if_pos (by rw [hl]; rfl)]

/-- LABEL_FLOW of the counter's box (R201). -/
theorem Agrees.issue_counter_flow (hw : ∀ h, r.dst = some h → h.box.mode ≠ .in_)
    (hc : ∀ b, counterOf s r = some b → b.mode ≠ .in_) (hf : ∀ h, r.dst = some h → Label.sub (cLab s r) h.box.lab = true)
    {b : Box} (hb : counterOf s r = some b) (hl : Label.sub (cLab s r) b.lab = false) :
    s.issueC w k = s.fail lanC fLabelFlow 1 (cLab s r) := by
  have hflow : (counterOf s r).any (fun b => !Label.sub (cLab s r) b.lab) = true :=
    (Option.any_eq_true ..).mpr ⟨b, hb, by rw [hl]; rfl⟩
  cases hd : r.dst with
  | none => rw [ha.issue_no_dst k hs hd, if_neg (counterOf_writable hc), if_pos hflow]
  | some h =>
    rw [ha.issue_dst k hs hd, if_neg (hw h hd), if_neg (counterOf_writable hc), if_neg (by simp [hf h hd]), if_pos hflow]

/-- Where the checks of the destination and the counter stand, what is left is a check of the word's own. -/
theorem Agrees.issue_extra {h : Hnd} (hd : r.dst = some h) (hm : h.box.mode ≠ .in_)
    (hc : ∀ b, counterOf s r = some b → b.mode ≠ .in_) (hf : Label.sub (cLab s r) h.box.lab = true)
    (hcf : ∀ b, counterOf s r = some b → Label.sub (cLab s r) b.lab = true) {code : Nat} {e : Hnd} {l : Label}
    (he : w.extra (cLab s r) = some (code, e, l)) : s.issueC w k =
    s.failBox lanC code (if code = fLabelFlow then 1 else 0) l e.desc.slot.toNat (e.box.detail (e.coord 0)) := by
  have hflow : ¬ (counterOf s r).any (fun b => !Label.sub (cLab s r) b.lab) = true := by
    rw [Option.any_eq_true]
    rintro ⟨b, hb, hl⟩
    rw [hcf b hb] at hl
    exact Bool.false_ne_true hl
  rw [ha.issue_dst k hs hd, if_neg hm, if_neg (counterOf_writable hc), if_neg (by simp [hf]), if_neg hflow, he]

end

theorem issuesAs_cWord {s : State} {i : Instr} {r : CRes} (hi : issuing s)
    (hr : copyWord s i = some r ∨ signalWord s i = some r ∨ crossWord s i = some r) : issuesAs s i r := by
  rcases hr with hr | hr | hr
  · exact issuesAs_copyWord hi hr
  · exact issuesAs_signalWord hi hr
  · exact issuesAs_crossWord hi hr

theorem ratomRes_of_cWord {s : State} {h : Hdr} {op : AOp} {wide : Bool} {tgt src : BitVec 4}
    {cnt : Option (BitVec 4 × BitVec 8)} {r : CRes} (hr : copyWord s (.ratom h op wide tgt src cnt) = some r
      ∨ signalWord s (.ratom h op wide tgt src cnt) = some r ∨ crossWord s (.ratom h op wide tgt src cnt) = some r) :
    r = ratomRes s op wide tgt src cnt := by
  rcases hr with hr | hr | hr
  · exact nomatch hr
  · exact (Option.some.inj ((signalWord_ratom ..).symm.trans hr)).symm
  · exact nomatch hr

/-- Settles O31: the checks of a word's issue in their order, and those a RATOM has of its own. PERMISSION of a counter's box and of
the box a RATOM's source stands in (log 72), a CFILL whose ORG0 is negative (log 85) and a die without a segment at the tick
(log 104) are the model's choices. -/
theorem cWordFaults : Obligations.CWordFaults := by
  intro s i r hi hr l stands' writes counts flows boxFlt
  obtain ⟨w, k, he, ha, -⟩ := issuesAs_cWord hi hr
  refine ⟨fun h => ?_, fun hok hc h => ?_, fun hok hc hl h => ?_, fun hs h hd hm => ?_, fun hs hw b hb hm => ?_,
    fun hs hw hc h hd hl => ?_, fun hs hw hc hf b hb hl => ?_, ?ratom⟩
  · exact he.trans (congrArg _ (ha.issue_refused k h))
  · exact he.trans (congrArg _ (ha.issue_late k hok hc h))
  · exact he.trans (congrArg _ (ha.issue_full k hok hc hl h))
  · exact he.trans (congrArg _ (ha.issue_dst_in k hs hd hm))
  · exact he.trans (congrArg _ (ha.issue_counter_in k hs hw hb hm))
  · exact he.trans (congrArg _ (ha.issue_dst_flow k hs hd (hw h hd) hc hl))
  · exact he.trans (congrArg _ (ha.issue_counter_flow k hs hw hc hf hb hl))
  case ratom =>
    intro h op wide tgt src cnt a b hrat hsrc hdst hs hw hc hf hcf
    subst hrat
    have hres := ratomRes_of_cWord hr
    subst hres
    cases hsrc
    cases hdst
    have hx := exec_ratom s h op wide tgt src cnt
    have hag := agrees_ratom s op wide tgt src cnt
    refine ⟨fun hm => ?_, fun hm hl => ?_⟩
    · exact hx.trans (congrArg _ (hag.issue_extra _ hs rfl (hw _ rfl) hc (hf _ rfl) hcf (if_pos hm)))
    · exact hx.trans (congrArg _ (hag.issue_extra _ hs rfl (hw _ rfl) hc (hf _ rfl) hcf
        ((if_neg hm).trans (if_pos (by rw [hl]; rfl)))))

end Sys2Proof.Machine
end

section

/-! A task without words on its way, then the words of segments and phases (spec 08, R219 to R227; 09, R250 to R255), then O33,
O34, O35 and O36. -/

namespace Sys2Proof.Machine
open Claims

/-! ## What a unit's task is held to -/

theorem State.entryOf_modMe {s : State} {f : Unit → Unit} (hm : (f s.me).mode ≠ .idle) (ht : (f s.me).task = s.me.task) :
    (s.modMe f).entryOf s.active = s.entryOf s.active := by
  simp only [State.entryOf, State.launchOf, State.taskOf_modMe hm ht]
  rfl

theorem State.strict_modMe {s : State} {f : Unit → Unit} (hm : (f s.me).mode ≠ .idle) (ht : (f s.me).task = s.me.task) :
    (s.modMe f).strict s.active = s.strict s.active := congrArg TaskE.strict (State.entryOf_modMe hm ht)

/-! ## A task no word of which is on its way -/

theorem map_eq_self {α : Type} {l : List α} {f : α → α} (h : ∀ e ∈ l, f e = e) : l.map f = l :=
  (List.map_congr_left h).trans l.map_id

theorem foldl_eq_init {α β : Type} {f : α → β → α} {a : α} {l : List β} (h : ∀ e ∈ l, f a e = a) : l.foldl f a = a := by
  induction l with
  | nil => rfl
  | cons e l ih =>
    rw [List.foldl_cons, h e List.mem_cons_self]
    exact ih fun e' he => h e' (List.mem_cons_of_mem _ he)

section
variable {s : State} {t : Nat} (h : ∀ e ∈ s.xwords, e.2.task ≠ t)
include h

theorem State.heldOf_wordless : s.heldOf t = none := by
  refine congrArg (Option.map _) (foldl_eq_init fun e he => ?_)
  split
  · exact if_neg (h e he)
  · rfl

theorem cancelFlt_wordless : cancelFlt ((s.xwords.filter fun e => decide (e.2.task = t)).map (·.2)) = none := by
  have : s.xwords.filter (fun e => decide (e.2.task = t)) = [] :=
    List.filter_eq_nil_iff.mpr fun e he => by simpa using h e he
  rw [this]
  rfl

theorem State.relate_wordless : s.relate t = s := by
  have : (s.relate t).xwords = s.xwords := map_eq_self fun e he => if_neg (by simp [h e he])
  exact congrArg (fun x => { s with xwords := x }) this

theorem State.release_wordless : s.release t = s := by
  have : (s.release t).xwords = s.xwords := map_eq_self fun e he => if_neg (by simp [h e he])
  exact congrArg (fun x => { s with xwords := x }) this

theorem State.applyDone_wordless (add : State → Nat → XWord → State) : s.applyDone t add = s :=
  foldl_eq_init fun e he => if_neg (by simp [h e he])

end

section
variable {s : State} (hn : noWords s)
include hn

theorem Claims.noWords.task_ne {t : Nat} (ht : s.me.task = some t) : ∀ e ∈ s.xwords, e.2.task ≠ t :=
  fun e he h => hn e he (by rw [ht, h])

theorem Claims.noWords.modMe {f : Unit → Unit} (hm : (f s.me).mode ≠ .idle) (ht : (f s.me).task = s.me.task) :
    noWords (s.modMe f) := by
  unfold noWords
  rw [State.me_modMe _ _ hm, ht]
  exact hn

/-- Nothing stands at a raising point. -/
theorem Claims.noWords.standing : s.standing s.active = none := by
  unfold State.standing
  split
  case h_1 => rfl
  case h_2 t ht => simp only [State.heldOf_wordless (hn.task_ne ht), cancelFlt_wordless (hn.task_ne ht)]

/-- A commit has registers, boxes and deferred additions of the unit to deal with, nothing else. -/
theorem Claims.noWords.commit (hm : s.me.mode ≠ .idle) (order : Bool) : s.commit s.active order = phaseEnd s order := by
  have he : ((s.modUnit s.active fun x => { x with
      snap := some x.regs, snapPc := x.pc, snapOrd := order, snapM := s.stagedCopies s.active Box.allocBytes
      vol := { x.vol with commits := x.vol.commits + 1, attempt := 0 } }).modUnit s.active fun x =>
        { x with spad := applyDefer x.spad x.defer, defer := [] }) = phaseEnd s order := s.modMe_modMe _ _ hm
  have hw : noWords (phaseEnd s order) := hn.modMe hm rfl
  unfold State.commit
  simp only [he]
  split
  case h_1 t ht =>
    have ht : (phaseEnd s order).me.task = some t := ht
    have := hw.task_ne ht
    rw [State.relate_wordless this, State.release_wordless this, State.applyDone_wordless this]
  case h_2 => rfl

end

/-! ## SYNC -/

theorem Claims.solo.mode {s : State} (hs : solo s) : s.me.mode ≠ .idle := by
  obtain ⟨-, hmode, -⟩ := hs
  rw [hmode]
  exact UMode.noConfusion

theorem Claims.solo.me_atSync {s : State} (_ : solo s) : (s.modMe (atWord .sync)).me = atWord .sync s.me :=
  s.me_modMe _ UMode.noConfusion

/-- A unit without a task, or whose task runs and is of no gang, has its SYNC to itself (R254). -/
theorem State.trySync_alone {s : State} {u : Nat} (hm : (s.unit u).mode = .sync) (hr : (s.unit u).real = none)
    (ht : ∀ k, (s.unit u).task = some k → (s.task k).st = .running ∧ (s.task k).gang = none) :
    s.trySync u = if s.syncReady u then s.openSeg u (s.unit u).pc else s := by
  have hgang : (s.taskOf u).gang = none := by
    unfold State.taskOf
    split
    case h_1 k hk => exact (ht k hk).2
    case h_2 => rfl
  have hlive : s.gangLive u = [u] := by simp [State.gangLive, State.gangOf, hgang, hm]
  unfold State.trySync
  simp only [hlive, List.all_cons, List.all_nil, List.foldl_cons, List.foldl_nil, hm, hr, Bool.and_true, if_true]
  cases hk : (s.unit u).task with
  | none => rfl
  | some k =>
    obtain ⟨hrun, hg⟩ := ht k hk
    simp only [State.gangTasks_alone hg, List.all_cons, List.all_nil, hrun, decide_true, Bool.true_and, Bool.and_true]

/-- SYNC without a REALIGN before it, on a unit alone. -/
theorem exec_sync_alone {s : State} (hs : solo s) (hr : s.me.real = none) (h : Hdr) :
    exec (.sync h) s = .next (if s.me.pend.isEmpty && !(s.dies.get (dieOf s.active)).drain then
      (s.modMe (atWord .sync)).openSeg s.active s.me.iss.pc else s.modMe (atWord .sync)) := by
  have hme : (s.modMe (atWord .sync)).unit s.active = atWord .sync s.me := hs.me_atSync
  obtain ⟨hiss, -, htask⟩ := hs
  have halone := State.trySync_alone (s := s.modMe (atWord .sync)) (u := s.active) (by rw [hme]; rfl) (by rw [hme]; exact hr)
    (by rw [hme]; exact htask)
  have he : exec (.sync h) s = .next ((s.modMe (atWord .sync)).trySync s.active) := by
    show execSync h s = _
    simp only [execSync, hiss, hr]
    rfl
  rw [he, halone, State.syncReady, hme]
  rfl

/-- Settles O33: in a segment, after a REALIGN, and else as the unit is ready or not. -/
theorem syncWord : Obligations.SyncWord := by
  intro s h x wait
  refine ⟨fun ht => ?_, fun t ht hr hle => ?_, fun t ht hr hlt => ?_, fun hs hr hp hd => ?_, fun hs hr hw => ?_⟩
  · exact if_pos ht
  · show execSync h s = _
    simp only [execSync, show s.me.iss.timed = false from ht, show s.me.real = _ from hr, hle, if_true, if_false,
      Bool.false_eq_true]
    rfl
  · show execSync h s = _
    simp only [execSync, show s.me.iss.timed = false from ht, show s.me.real = _ from hr, Nat.not_le.mpr hlt, if_false,
      Bool.false_eq_true]
    rfl
  · rw [exec_sync_alone hs hr, if_pos]
    simp [hd, show s.me.pend = [] from hp]
  · rw [exec_sync_alone hs hr, if_neg]
    rcases hw with hp | hd
    · simp [show s.me.pend ≠ [] from hp]
    · simp [hd]

/-! ## SEGEND and the checks of a segment -/

section
variable {s : State} {sig : BitVec 64} {len : BitVec 32} (hm : s.me.mode = .seg) (he : s.me.seg.ended = some (sig, len))
  (hb : ¬ buffered s)
include hm he hb

/-- The checks come where no word of the segment is left in the buffers. -/
theorem exec_segmentEndCheck : exec .segmentEndCheck s = .next (s.endCheck s.active sig len) := by
  obtain ⟨hsb, hvb, hmb, hcb⟩ := not_not.mp hb
  show execSegmentEndCheck s = _
  simp only [execSegmentEndCheck, hm, he, hsb, hvb, hmb, hcb]
  rfl

end

/-- The unit at the last cycle of its segment. -/
def State.atEnd (s : State) : State := s.modMe fun x => { x with iss := { x.iss with cyc := x.seg.last, timed := true } }

section
variable {s : State} {sig : BitVec 64} {len : BitVec 32}

/-- A signature or a length that differs, or both (R221). -/
theorem State.endCheck_differs (h : signatureOf s ≠ sig ∨ s.me.seg.last + 1 ≠ len.toNat) :
    s.endCheck s.active sig len = s.atEnd.raise s.active { s.atEnd.me.flt lanS fSegmentCheck
      ((if signatureOf s ≠ sig then 1 else 0) + (if s.me.seg.last + 1 ≠ len.toNat then 2 else 0)) s.me.vol.lblpc with
        det := s.me.seg.last + 1 } false := by
  have hbad : (decide (signatureOf s ≠ sig) || decide (s.me.seg.last + 1 ≠ len.toNat)) = true := by
    simpa only [Bool.or_eq_true, decide_eq_true_eq] using h
  have hsub : (if decide (signatureOf s ≠ sig) && decide (s.me.seg.last + 1 ≠ len.toNat) then 3
      else if decide (s.me.seg.last + 1 ≠ len.toNat) then 2 else 1) =
      (if signatureOf s ≠ sig then 1 else 0) + (if s.me.seg.last + 1 ≠ len.toNat then 2 else 0) := by
    by_cases hS : signatureOf s ≠ sig <;> by_cases hL : s.me.seg.last + 1 ≠ len.toNat <;> simp_all
  rw [← hsub]
  exact if_pos hbad

/-- Both agree and nothing else stands: the segment ends. -/
theorem State.endCheck_agrees (hm : s.me.mode ≠ .idle) (hS : signatureOf s = sig) (hL : s.me.seg.last + 1 = len.toNat)
    (hn : noWords s) (hbox : s.strict s.active = false ∨ s.me.vol.boxerr.getLsbD 0 = false) :
    s.endCheck s.active sig len = s.atEnd.modMe fun x => { x with
      mode := .code, pc := x.seg.npc, iss := { x.iss with timed := false }, seg := { x.seg with ended := none, ctl := none } } := by
  have hbad : ¬ (decide (signatureOf s ≠ sig) || decide (s.me.seg.last + 1 ≠ len.toNat)) = true := by
    simp [hS, hL]
  have hstrict : s.atEnd.strict s.active = s.strict s.active := State.strict_modMe hm rfl
  have hbox' : ¬ (s.atEnd.strict s.active && s.me.vol.boxerr.getLsbD 0) = true := by
    rw [hstrict]
    rw [Bool.and_eq_true, not_and_or, Bool.not_eq_true, Bool.not_eq_true]
    exact hbox
  have hstand : s.atEnd.standing s.active = none := Claims.noWords.standing (hn.modMe hm rfl)
  refine (if_neg hbad).trans ?_
  show (match s.atEnd.standing s.active with | some g => _ | none => _) = _
  rw [hstand]
  exact if_neg hbox'

end

/-- Settles O34: SEGEND in its place and out of it, and the checks it leads to. -/
theorem segmentEnd : Obligations.SegmentEnd := by
  intro s h sig len x bad
  refine ⟨fun ht => ?_, fun ht hr => ?_, fun ht hr => ?_,
    fun hm he hb => ⟨fun hbad => ?_, fun hS hL hn hbox => ?_⟩⟩
  · exact if_pos (by rw [show s.me.iss.timed = false from ht]; rfl)
  · have hr : (!s.me.vol.rstack.isEmpty) = true := by simpa using hr
    exact (if_neg (by rw [show s.me.iss.timed = true from ht]; decide)).trans (if_pos hr)
  · have hr : ¬ (!s.me.vol.rstack.isEmpty) = true := by simpa using hr
    exact (if_neg (by rw [show s.me.iss.timed = true from ht]; decide)).trans (if_neg hr)
  · rw [exec_segmentEndCheck hm he hb, State.endCheck_differs hbad]
    rfl
  · have hmode : s.me.mode ≠ .idle := by rw [show s.me.mode = .seg from hm]; exact UMode.noConfusion
    rw [exec_segmentEndCheck hm he hb, State.endCheck_agrees hmode hS hL hn hbox]
    rfl

/-! ## PCOMMIT, PCANCEL, REALIGN -/

section
variable {s : State}

theorem phaseWord_bad (h : s.me.iss.timed = true ∨ s.prot s.active = false) :
    (s.me.iss.timed || !s.prot s.active) = true := by
  simpa only [Bool.or_eq_true, Bool.not_eq_true'] using h

theorem phaseWord_ok (ht : s.me.iss.timed = false) (hp : s.prot s.active = true) :
    ¬ (s.me.iss.timed || !s.prot s.active) = true := by
  rw [ht, hp]
  decide

theorem not_isEmpty_of_ne_nil {α : Type} {l : List α} (h : l ≠ []) : (!l.isEmpty) = true := by simpa using h

theorem not_not_isEmpty {α : Type} {l : List α} (h : l = []) : ¬ (!l.isEmpty) = true := by simp [h]

/-- PCOMMIT where nothing holds it: the end of the phase (R224). -/
theorem exec_pcommit_done (h : Hdr) (ht : s.me.iss.timed = false) (hm : s.me.mode ≠ .idle) (hp : s.prot s.active = true)
    (hpend : s.me.pend = []) (hn : noWords s) : exec (.pcommit h) s =
      .next ((phaseEnd s false).modMe fun x => if x.saveNext then { x with mode := .parking } else x) := by
  refine (if_neg (phaseWord_ok ht hp)).trans ((if_neg (not_not_isEmpty hpend)).trans ?_)
  rw [hn.standing, hn.commit hm]
  rfl

theorem exec_realign_done (h : Hdr) (f : BitVec 12) (ht : s.me.iss.timed = false) (hn : noWords s) : exec (.realign h f) s =
    .next (s.modMe fun x => { x with real := some (s.frame.toNat + f.toNat), order := true }) := by
  refine (if_neg (by rw [ht]; decide)).trans ?_
  rw [hn.standing]
  rfl

end

/-- Settles O35: each phase word where it may not stand, where it waits and where it is performed. The attempt number of a
gang is the model's choice (log 103). -/
theorem phaseWords : Obligations.PhaseWords := by
  intro s h f x bad
  refine ⟨fun hb => ⟨?_, ?_⟩, fun ht => ?_, fun ht hp hpend => ?_, fun hs hp hpend hn => ?_, fun ht hp ha => ?_,
    fun ht hp ha => ?_, fun ht hn => exec_realign_done h f ht hn⟩
  · exact if_pos (phaseWord_bad hb)
  · exact if_pos (phaseWord_bad hb)
  · exact if_pos ht
  · exact (if_neg (phaseWord_ok ht hp)).trans (if_pos (not_isEmpty_of_ne_nil hpend))
  · have hm := hs.mode
    obtain ⟨ht, -, -⟩ := hs
    exact exec_pcommit_done h ht hm hp hpend hn
  · exact (if_neg (phaseWord_ok ht hp)).trans (if_pos ha)
  · exact (if_neg (phaseWord_ok ht hp)).trans (if_neg (Nat.not_le.mpr ha))

/-! ## WAITGE -/

theorem waitBox_eq_some {s : State} {u slot idx : Nat} (hp : (s.box u slot).present = true) (hl : (s.box u slot).layout = 0x30)
    (hi : (s.box u slot).has ⟨idx, 0, 0, 0⟩ = true) :
    waitBox s u slot idx = some (s.box u slot, (s.box u slot).addr ⟨idx, 0, 0, 0⟩) :=
  if_pos (by rw [hp, hl, hi]; rfl)

theorem waitBox_eq_none {s : State} {u slot idx : Nat} (h : ¬ ((s.box u slot).present = true ∧ (s.box u slot).layout = 0x30
    ∧ (s.box u slot).has ⟨idx, 0, 0, 0⟩ = true)) : waitBox s u slot idx = none :=
  if_neg (by simpa only [Bool.and_eq_true, decide_eq_true_eq, and_assoc] using h)

section
variable {s : State} (h : Hdr) {slot : BitVec 4} {idx : BitVec 8} (a : SB)

theorem exec_waitge_waits (ht : s.me.iss.timed = false) (hm : s.me.mode ≠ .idle)
    {b : Box} {n : Nat} (hw : waitBox s s.active slot.toNat idx.toNat = some (b, n)) (hn : noWords s)
    (hpend : s.prot s.active = true → s.me.pend = []) : exec (.waitge h slot idx a) s =
      .next ((if s.prot s.active = true ∧ s.active < 384 then phaseEnd s true else s).modMe fun x => { x with
        mode := .wait slot.toNat idx.toNat (s.me.readB a).v.toNat (b.lab ||| (s.me.readB a).l)
        order := decide (s.active < 384), since := s.frame.toNat }) := by
  have hseq : (!isSeq s.active) = decide (s.active < 384) := by
    simp only [isSeq, ← decide_not, Nat.not_le]
  have hwait : ¬ (!s.me.pend.isEmpty && s.prot s.active) = true := by
    rw [Bool.and_eq_true]
    exact fun ⟨hp, hs⟩ => not_not_isEmpty (hpend hs) hp
  refine (if_neg (by rw [ht]; decide)).trans ?_
  rw [hw]
  refine (if_neg hwait).trans ?_
  rw [hn.standing, hn.commit hm, hseq]
  simp only [Bool.and_eq_true, decide_eq_true_eq]
  split <;> rfl

end

/-- Settles O36: WAITGE where it may not stand, the wait it begins, and its end. -/
theorem waitWord : Obligations.WaitWord := by
  intro s h slot idx a x u v b c counter l
  refine ⟨fun ht => if_pos ht, fun ht hc => ?_, fun hs hc hn hpend => ?_, fun k w slot idx target l t n hu hw => ?_⟩
  · refine (if_neg (by rw [show s.me.iss.timed = false from ht]; decide)).trans ?_
    rw [waitBox_eq_none hc]
  · have hm := hs.mode
    obtain ⟨ht, -, -⟩ := hs
    obtain ⟨hp, hl, hi⟩ := hc
    exact exec_waitge_waits h a ht hm (waitBox_eq_some hp hl hi) hn hpend
  · intro b c hp hl hi hst hget hle
    show execWaitgeSatisfied k s = _
    simp only [execWaitgeSatisfied, hu, hst, hw, waitBox_eq_some hp hl hi, Bool.false_eq_true, if_false]
    rw [hget]
    exact if_pos hle

end Sys2Proof.Machine
end

section

/-! Task words under a true guard (spec 08, R229; 04, R109), then O37. -/

namespace Sys2Proof.Machine
open Claims

/-! ## A task word under a true guard -/

theorem lifted_eq (s : State) (g : POp) : lifted s g = s.raised (s.me.readP g).l := by
  simp only [lifted, withLabel_eq]
  exact s.modMe_congr _ _ rfl

section
variable {s : State} {g : POp} (hm : s.me.mode ≠ .idle)
include hm

theorem lifted_me : (lifted s g).me = s.me.raiseLbl (s.me.readP g).l := by rw [lifted_eq, State.raised_me hm]

theorem lifted_taskOf : (lifted s g).taskOf s.active = s.taskOf s.active := by rw [lifted_eq, State.raised_taskOf hm]

theorem lifted_box (n : Nat) : (lifted s g).box s.active n = s.box s.active n := by rw [lifted_eq, State.raised_box hm]

theorem lifted_me_task : (lifted s g).me.task = s.me.task := by rw [lifted_me hm, Unit.raiseLbl_task]

theorem lifted_baseL : (lifted s g).me.baseL g = taskLab s g := by
  rw [lifted_me hm, Unit.raiseLbl_baseL]
  rfl

theorem lifted_readB (a : SB) : (lifted s g).me.readB a = s.me.readB a := by rw [lifted_me hm, Unit.raiseLbl_readB]

end

theorem taskOf_of_task {s : State} {k : Nat} (hk : s.me.task = some k) : s.taskOf s.active = s.task k := by
  have hk : (s.unit s.active).task = some k := hk
  simp only [State.taskOf, hk]

/-! ## ARG -/

theorem isWriter_iff (m : AMode) : isWriter m = true ↔ m = .out ∨ m = .inout := by
  simp [isWriter]

/-- ARG under a true guard: its checks in their order, then the argument. -/
theorem exec_arg {s : State} {g : POp} (hm : s.me.mode ≠ .idle) (hg : (s.me.readP g).v = true) {k : Nat}
    (hk : s.me.task = some k) (h : Hdr) (x d : BitVec 4) (mode : AMode) (merge : Merge) :
    let e := s.me.regs.d.get d.toNat
    let b := s.box s.active e.slot.toNat
    let l := e.lab ||| taskLab s g
    exec (.arg h x d mode merge g) s = .next (
      if !e.valid then (lifted s g).fail lanS fIllegalOperand 0 l
      else if (s.task k).args.any (fun a => decide (a.slot = x.toNat)) then (lifted s g).fail lanS fIllegalOperand 0 l
      else if isWriter mode && b.mode = .in_ then
        (lifted s g).failBox lanS fPermission 0 l e.slot.toNat (b.detail (Quad.ofFn e.orgZ))
      else (lifted s g).modTask k fun t => { t with args := t.args ++ [⟨x.toNat, e, mode, merge, l⟩] }) := by
  show execArg h x d mode merge g s = _
  have hregs : (lifted s g).me.regs = s.me.regs := by rw [lifted_me hm, Unit.raiseLbl_regs]
  simp only [execArg, guarded_true _ _ _ hg, ← lifted_eq, hregs, lifted_baseL hm, lifted_me_task hm, hk]
  simp only [show (lifted s g).active = s.active from rfl, lifted_taskOf hm, lifted_box hm, taskOf_of_task hk]

/-- Settles O37: an argument refused for its handle, its slot or its box, and an argument recorded. -/
theorem argumentWord : Obligations.ArgumentWord := by
  intro s h k x d mode merge g hw hg hk e b l pending writes
  have he := exec_arg (working_not_idle hw) hg hk h x d mode merge
  have hpend : (s.task k).args.any (fun a => decide (a.slot = x.toNat)) = true ↔ pending := by
    simp only [List.any_eq_true, decide_eq_true_eq, pending]
  have hin : (isWriter mode && decide (b.mode = .in_)) = true ↔ writes ∧ b.mode = .in_ := by
    rw [Bool.and_eq_true, isWriter_iff, decide_eq_true_eq]
  refine ⟨fun hbad => ?refused, fun hv hp hwr hb => ?_, fun hv hp hok => ?_⟩ <;> rw [he]
  case refused =>
    by_cases hv : e.valid = false
    · exact congrArg _ (if_pos (by rw [hv]; rfl))
    · exact congrArg _ ((if_neg (by simpa using hv)).trans (if_pos (hpend.mpr (hbad.resolve_left hv))))
  · exact congrArg _ ((if_neg (by rw [hv]; decide)).trans ((if_neg (mt hpend.mp hp)).trans (if_pos (hin.mpr ⟨hwr, hb⟩))))
  · exact congrArg _ ((if_neg (by rw [hv]; decide)).trans ((if_neg (mt hpend.mp hp)).trans (if_neg (mt hin.mp hok))))

end Sys2Proof.Machine
end

section

/-! The controllers and the allotment of memory to boxes leave the task table alone (spec 10, R268; 15, R292; 19, R393, R397). -/

namespace Sys2Proof.Machine
open Claims

/-! ## Memory for boxes leaves the task table alone -/

/-- No task is changed and none is added. -/
def SameTasks (s t : State) : Prop := t.tasks = s.tasks ∧ t.spawns = s.spawns

theorem SameTasks.refl (s : State) : SameTasks s s := ⟨rfl, rfl⟩

theorem SameTasks.trans {s t r : State} (h : SameTasks s t) (h' : SameTasks t r) : SameTasks s r :=
  ⟨h'.1.trans h.1, h'.2.trans h.2⟩

theorem SameTasks.task {s t : State} (h : SameTasks s t) (k : Nat) : t.task k = s.task k := congrArg (Tab.get · k) h.1

theorem SameTasks.ite {c : Prop} [Decidable c] {s t r : State} (ht : SameTasks s t) (hr : SameTasks s r) :
    SameTasks s (if c then t else r) := by
  split
  · exact ht
  · exact hr

theorem SameTasks.foldl {α : Type} {f : State → α → State} (hf : ∀ s a, SameTasks s (f s a)) (l : List α) (s : State) :
    SameTasks s (l.foldl f s) := by
  induction l generalizing s with
  | nil => exact .refl s
  | cons a l ih => exact (hf s a).trans (ih _)

/-! ### The controllers -/

theorem sameTasks_rouse (s : State) (n : Nat) : SameTasks s (s.rouse n) := .ite ⟨rfl, rfl⟩ ⟨rfl, rfl⟩

theorem sameTasks_spend (s : State) (n : Nat) : SameTasks s (s.spend n) := ⟨rfl, rfl⟩

theorem sameTasks_post (s : State) (r : RingId) (d : List Byte) : SameTasks s (s.post r d) := ⟨rfl, rfl⟩

theorem sameTasks_corrected (s : State) (ctx : Ctx) (l p n : Nat) (e : Exam) (f m : Nat) :
    SameTasks s (s.corrected ctx l p n e f m) := by
  unfold State.corrected
  refine .ite (.refl s) (.trans (t := if e.sound then s.renew n e.wrong else s.mend n e.fixed) ?_ (sameTasks_post ..))
  exact .ite ⟨rfl, rfl⟩ ⟨rfl, rfl⟩

theorem sameTasks_readSector (s : State) (ctx : Ctx) (pr : Prot) (n lo hi : Nat) : SameTasks s (s.readSector ctx pr n lo hi).1 := by
  refine (sameTasks_rouse s n).trans ?_
  unfold State.readSector
  dsimp only
  generalize s.rouse n = r
  have hc := sameTasks_corrected r ctx pr.code pr.pol n (examine pr.code n (r.flips n) pr.lines) 0 0
  generalize r.corrected ctx pr.code pr.pol n (examine pr.code n (r.flips n) pr.lines) 0 0 = r1 at hc ⊢
  simp only [apply_ite Prod.fst]
  refine .ite (.refl r) (hc.trans (.ite (sameTasks_spend ..) ((sameTasks_spend r1 n).trans ?_)))
  refine .ite (.ite ?_ ?_) (.ite (sameTasks_post ..) (sameTasks_post ..))
  · exact ((sameTasks_post ..).trans (sameTasks_corrected ..)).trans (sameTasks_spend ..)
  · exact ((sameTasks_post ..).trans (sameTasks_corrected ..)).trans (sameTasks_spend ..)

/-- What a partial write finds and leaves (R397). -/
theorem sameTasks_writeSector (s : State) (ctx : Ctx) (pr : Prot) (n lo : Nat) (bs mask : List Byte) :
    SameTasks s (s.writeSector ctx pr n lo bs mask) := by
  refine (sameTasks_rouse s n).trans ?_
  unfold State.writeSector
  dsimp only
  generalize s.rouse n = r
  generalize examine pr.code n (r.flips n) pr.lines = e
  have hlog : SameTasks r (if e.corr = 0 then r else
      r.post .err (errRecord r ctx 0 0 0 (pcode pr.code) (e.corrC + 16) pr.pol n e.corr)) := .ite (.refl r) (sameTasks_post ..)
  generalize (if e.corr = 0 then r else
    r.post .err (errRecord r ctx 0 0 0 (pcode pr.code) (e.corrC + 16) pr.pol n e.corr)) = r1 at hlog ⊢
  exact .ite ⟨rfl, rfl⟩ (.ite ⟨rfl, rfl⟩ (hlog.trans (.ite ⟨rfl, rfl⟩ ⟨rfl, rfl⟩)))

theorem sameTasks_writePhys (s : State) (ctx : Ctx) (pr : Prot) (fuel a : Nat) (bs mask : List Byte) :
    SameTasks s (s.writePhys ctx pr fuel a bs mask) := by
  induction fuel generalizing s a bs mask with
  | zero => exact .refl s
  | succ fuel ih => exact .ite (.refl s) ((sameTasks_writeSector ..).trans (ih ..))

theorem sameTasks_walkMade (s : State) (ctx : Ctx) (fn va tbl : Nat) (lv : List (Nat × Nat × Nat)) :
    SameTasks s (s.walkMade ctx fn va tbl lv).1 := by
  induction lv generalizing s tbl with
  | nil => exact .refl s
  | cons e lv ih =>
    obtain ⟨sh, w, n⟩ := e
    unfold State.walkMade
    dsimp only
    simp only [apply_ite Prod.fst]
    refine .ite (.refl s) ((sameTasks_readSector s { ctx with atom := false } (.raw 0) (entryAt tbl va sh w / 64 * 64)
      (entryAt tbl va sh w % 64) (entryAt tbl va sh w % 64 + 16)).trans ?_)
    split
    · exact .refl _
    · split
      · exact .refl _
      · exact ih ..

/-! ### Space for a box -/

theorem sameTasks_arenaLeaf (s : State) (asid at_ va layout : Nat) (l : Label) : SameTasks s (s.arenaLeaf asid at_ va layout l) := by
  have hw : SameTasks s (s.arenaWalk asid at_ va).1 := sameTasks_walkMade ..
  refine hw.trans ?_
  unfold State.arenaLeaf
  dsimp only
  split
  · exact .refl _
  · exact .trans (t := State.tlbDrop _ _ _) ⟨rfl, rfl⟩ (sameTasks_writePhys ..)

theorem sameTasks_allot {s t : State} {asid die c a : Nat} {b : Box} (h : s.allot asid die c b = some (t, a)) : SameTasks s t := by
  unfold State.allot at h
  split at h
  · cases h
  · obtain ⟨p, -, hp⟩ := Option.map_eq_some_iff.mp h
    cases hp
    exact ⟨rfl, rfl⟩
  · obtain ⟨va, -, hva⟩ := Option.map_eq_some_iff.mp h
    cases hva
    exact .trans (t := { s with asids := _ }) ⟨rfl, rfl⟩ (.foldl (fun _ _ => sameTasks_arenaLeaf ..) _ _)

end Sys2Proof.Machine
end

section

/-! SPAWN and GSPAWN: the boxes of a child, their places, the children in the task table (spec 08, R229 to R231; 15, R292, R299), then
O38. -/

namespace Sys2Proof.Machine
open Claims

theorem State.task_modTask_ne (s : State) {k j : Nat} (f : Task → Task) (h : j ≠ k) : (s.modTask k f).task j = s.task j :=
  Tab.get_upd_ne s.tasks k j f h

/-! ## The boxes of a child -/

/-- A box of a child in slot `x` agrees with the argument recorded for the slot, `parent` telling the parent's box of an
argument. -/
def agreesWith (args : List Arg) (parent : Arg → Box) (x : Nat) (b : Box) : Prop :=
  ∀ a ∈ args, a.slot = x → argBox (parent a) a b

/-- Every listed box of a table agrees, and every slot reads so. -/
def boxesFit (args : List Arg) (parent : Arg → Box) (t : Tab Box) : Prop :=
  (∀ e ∈ t, agreesWith args parent e.1 e.2) ∧ ∀ x, agreesWith args parent x (t.get x)

theorem mem_put {α : Type} [Inhabited α] [DecidableEq α] {t : Tab α} {k : Nat} {v : α} {e : Nat × α} (h : e ∈ t.put k v) :
    e ∈ t ∨ e = (k, v) := by
  induction t with
  | nil =>
    unfold Tab.put at h
    split at h
    · cases h
    · exact .inr (List.mem_singleton.mp h)
  | cons d r ih =>
    obtain ⟨k', v'⟩ := d
    unfold Tab.put at h
    split at h
    · split at h
      · exact .inl h
      · exact (List.mem_cons.mp h).symm
    · split at h
      · split at h
        · exact .inl (List.mem_cons_of_mem _ h)
        · exact (List.mem_cons.mp h).symm.imp_left (List.mem_cons_of_mem _)
      · rcases List.mem_cons.mp h with rfl | h
        · exact .inl List.mem_cons_self
        · exact (ih h).imp_left (List.mem_cons_of_mem _)

section
variable {args : List Arg} {parent : Arg → Box}

/-- Only what R229 says of a child's box counts, not where the box lies. -/
theorem argBox_congr {pb : Box} {a : Arg} {b c : Box} (h : argBox pb a b) (hp : c.present = b.present) (hl : c.layout = b.layout)
    (hr : c.rank = b.rank) (hm : c.mode = b.mode) (hg : c.merge = b.merge) (hlab : c.lab = b.lab) (hroot : c.root = b.root)
    (he : c.ext = b.ext) : argBox pb a c := by
  unfold argBox at h ⊢
  rwa [hp, hl, hr, hm, hg, hlab, hroot, he]

theorem boxesFit_put {t : Tab Box} (h : boxesFit args parent t) {x : Nat} {b : Box} (hb : agreesWith args parent x b) :
    boxesFit args parent (t.put x b) := by
  obtain ⟨hmem, hget⟩ := h
  refine ⟨fun e he => ?_, fun y => ?_⟩
  · rcases mem_put he with he | rfl
    · exact hmem e he
    · exact hb
  · by_cases hy : y = x
    · subst hy
      intro a ha hs
      have hbox := hb a ha hs
      have hne : b ≠ default := fun hd => by
        obtain ⟨hp, -⟩ := hbox
        rw [hd] at hp
        exact Bool.false_ne_true hp
      rwa [Tab.get_put_of_ne _ _ _ hne]
    · rw [Tab.get_put_ne _ _ _ _ hy]
      exact hget y

end

/-! ## Places for the boxes -/

/-- Of the tasks, those in `K` alone are changed, in their boxes and staging areas, and boxes that fit still do. -/
structure Placed (K : Nat → Prop) (args : List Arg) (parent : Arg → Box) (s t : State) : Prop where
  spawns : t.spawns = s.spawns
  other : ∀ j, ¬ K j → t.task j = s.task j
  own : ∀ j, K j → t.task j = { s.task j with boxes := (t.task j).boxes, stages := (t.task j).stages }
  fit : ∀ j, K j → boxesFit args parent (s.task j).boxes → boxesFit args parent (t.task j).boxes

section
variable {K : Nat → Prop} {args : List Arg} {parent : Arg → Box}

theorem Placed.trans {s t r : State} (h : Placed K args parent s t) (h' : Placed K args parent t r) : Placed K args parent s r where
  spawns := h'.spawns.trans h.spawns
  other j hj := (h'.other j hj).trans (h.other j hj)
  own j hj := by rw [h'.own j hj, h.own j hj]
  fit j hj hs := h'.fit j hj (h.fit j hj hs)

theorem Placed.of_sameTasks {s t : State} (h : SameTasks s t) : Placed K args parent s t where
  spawns := h.2
  other j _ := h.task j
  own j _ := by rw [h.task j]
  fit j _ hs := by rwa [h.task j]

theorem Placed.st {s t : State} (h : Placed K args parent s t) {j : Nat} (hj : K j) : (t.task j).st = (s.task j).st := by
  rw [h.own j hj]

/-- A listed task of `K` with other boxes or staging areas. -/
theorem Placed.modTask {s : State} {k : Nat} (hK : K k) (hst : (s.task k).st ≠ .none) {f : Task → Task}
    (hf : f (s.task k) = { s.task k with boxes := (f (s.task k)).boxes, stages := (f (s.task k)).stages })
    (hfit : boxesFit args parent (s.task k).boxes → boxesFit args parent (f (s.task k)).boxes) :
    Placed K args parent s (s.modTask k f) := by
  have hself : (s.modTask k f).task k = f (s.task k) := s.task_modTask_self k f (by rw [hf]; exact hst)
  have hne (j : Nat) (hj : j ≠ k) : (s.modTask k f).task j = s.task j := s.task_modTask_ne f hj
  refine ⟨rfl, fun j hj => hne j fun e => hj (e ▸ hK), fun j _ => ?_, fun j _ => ?_⟩
  · by_cases hj : j = k
    · subst hj; rw [hself]; exact hf
    · rw [hne j hj]
  · by_cases hj : j = k
    · subst hj; rwa [hself]
    · rw [hne j hj]; exact id

theorem Placed.placeFar {k c : Nat} (hK : K k) {bs : List (Nat × Box)} (hbs : ∀ e ∈ bs, agreesWith args parent e.1 e.2)
    {s t : State} (hst : (s.task k).st ≠ .none) (h : s.placeFar k c bs = some t) : Placed K args parent s t := by
  induction bs generalizing s with
  | nil => cases h; exact .of_sameTasks (.refl _)
  | cons e r ih =>
    obtain ⟨x, b⟩ := e
    obtain ⟨hb, hr⟩ := List.forall_mem_cons.mp hbs
    have put {s : State} (hst : (s.task k).st ≠ .none) {b : Box} (hb : agreesWith args parent x b)
        (h : (s.modTask k fun t => { t with boxes := t.boxes.put x b }).placeFar k c r = some t) : Placed K args parent s t := by
      have hp : Placed K args parent s (s.modTask k fun t => { t with boxes := t.boxes.put x b }) :=
        .modTask hK hst rfl fun hf => boxesFit_put hf hb
      exact hp.trans (ih hr (by rw [hp.st hK]; exact hst) h)
    unfold State.placeFar at h
    dsimp only at h
    split at h
    · split at h
      case h_1 s' a hal =>
        have hs' := sameTasks_allot hal
        refine (Placed.of_sameTasks hs').trans (put (by rw [hs'.task]; exact hst) (fun a ha hx => ?_) h)
        exact argBox_congr (hb a ha hx) rfl rfl rfl rfl rfl rfl rfl rfl
      case h_2 => cases h
    · split at h
      · refine put hst ?_ h
        exact fun a ha hx => argBox_congr (hb a ha hx) rfl rfl rfl rfl rfl rfl rfl rfl
      · exact put hst hb h

theorem Placed.placeStages {k p c : Nat} (hK : K k) {bs : List (Nat × Box)} {s t : State} (hst : (s.task k).st ≠ .none)
    (h : s.placeStages k p c bs = some t) : Placed K args parent s t := by
  induction bs generalizing s with
  | nil => cases h; exact .of_sameTasks (.refl _)
  | cons e r ih =>
    obtain ⟨x, b⟩ := e
    unfold State.placeStages at h
    dsimp only at h
    split at h
    · split at h
      case h_1 s' a hal =>
        have hs' := sameTasks_allot hal
        have hst' : (s'.task k).st ≠ .none := by rw [hs'.task]; exact hst
        have hp : Placed K args parent s' (s'.modTask k fun t =>
            { t with stages := (x, scopeCode (s.levelE p).scope, c, a) :: t.stages }) :=
          .modTask hK hst' rfl id
        exact ((Placed.of_sameTasks hs').trans hp).trans (ih (by rw [hp.st hK]; exact hst') h)
      case h_2 => cases h
    · exact ih hst h

/-- Where one child's boxes and staging areas lie. -/
def State.placeChild (s : State) (p k : Nat) : Option State :=
  let t := s.task k
  let far : Option State :=
    if (s.levelE k).scope = 0 then some s
    else
      let cs := match t.inst with | some c => [c] | none => (List.range 6).map fun i => 6 * t.die + i
      cs.findSome? fun c => s.placeFar k c t.boxes
  far.bind fun s => s.placeStages k p (match (s.task p).inst with | some c => c | none => 0) (s.task k).boxes

theorem State.placeChildren_cons (s : State) (p k : Nat) (ks : List Nat) :
    s.placeChildren p (k :: ks) = (s.placeChild p k).bind fun t => t.placeChildren p ks := by
  have hnone (ks : List Nat) (f : State → Nat → Option State) :
      ks.foldl (fun (o : Option State) k => o.bind fun s => f s k) none = none := foldl_eq_init fun _ _ => rfl
  have hcons : s.placeChildren p (k :: ks) =
      ks.foldl (fun (o : Option State) k => o.bind fun s => s.placeChild p k) (s.placeChild p k) := rfl
  rw [hcons]
  cases s.placeChild p k with
  | none => exact hnone ks _
  | some t => rfl

theorem Placed.placeChild {p k : Nat} (hK : K k) {s t : State} (hst : (s.task k).st ≠ .none)
    (hfit : boxesFit args parent (s.task k).boxes) (h : s.placeChild p k = some t) : Placed K args parent s t := by
  obtain ⟨s', hfar, hs'⟩ := Option.bind_eq_some_iff.mp h
  have hp : Placed K args parent s s' := by
    split at hfar
    · cases hfar; exact .of_sameTasks (.refl _)
    · obtain ⟨c, -, hc⟩ := List.exists_of_findSome?_eq_some hfar
      exact .placeFar hK hfit.1 hst hc
  exact hp.trans (.placeStages hK (by rw [hp.st hK]; exact hst) hs')

theorem Placed.placeChildren {p : Nat} {ks : List Nat} (hK : ∀ k ∈ ks, K k) {s t : State}
    (hst : ∀ j, K j → (s.task j).st ≠ .none) (hfit : ∀ j, K j → boxesFit args parent (s.task j).boxes)
    (h : s.placeChildren p ks = some t) : Placed K args parent s t := by
  induction ks generalizing s with
  | nil => cases h; exact .of_sameTasks (.refl _)
  | cons k ks ih =>
    obtain ⟨hk, hks⟩ := List.forall_mem_cons.mp hK
    rw [State.placeChildren_cons] at h
    obtain ⟨s', hs', ht⟩ := Option.bind_eq_some_iff.mp h
    have hp : Placed K args parent s s' := .placeChild hk (hst k hk) (hfit k hk) hs'
    exact hp.trans (ih hks (fun j hj => by rw [hp.st hj]; exact hst j hj) (fun j hj => hp.fit j hj (hfit j hj)) ht)

end

/-! ## The children in the task table -/

/-- The box of an argument, as the child of a spawn has it at first (R229, R270). -/
def argChildBox (pb : Box) (a : Arg) (e : DeclE) (k : Nat) : Box :=
  if a.mode = .stream then viewBox pb (childBox pb a e k) a.desc.hop else childBox pb a e k

theorem argBox_argChildBox (pb : Box) (a : Arg) (e : DeclE) (k : Nat) : argBox pb a (argChildBox pb a e k) := by
  have hbox : argBox pb a (childBox pb a e k) :=
    ⟨rfl, rfl, rfl, rfl, rfl, fun h => ⟨if_neg h, if_neg h⟩, fun i hi hr => (Quad.get_ofFn _ hi).trans (if_pos hr)⟩
  unfold argChildBox
  split
  · exact argBox_congr hbox rfl rfl rfl rfl rfl rfl rfl rfl
  · exact hbox

/-- The boxes of a child: one for each argument. -/
def argBoxes (args : List Arg) (box : Arg → Box) : Tab Box := args.foldl (fun m a => m.put a.slot (box a)) []

section
variable {args : List Arg} {parent box : Arg → Box}

theorem argBoxes_append (args : List Arg) (a : Arg) (box : Arg → Box) :
    argBoxes (args ++ [a]) box = (argBoxes args box).put a.slot (box a) := List.foldl_append ..

theorem mem_argBoxes {e : Nat × Box} (he : e ∈ argBoxes args box) : ∃ a ∈ args, e = (a.slot, box a) := by
  induction args using List.reverseRecOn with
  | nil => cases he
  | append_singleton l b ih =>
    rw [argBoxes_append] at he
    rcases mem_put he with he | rfl
    · obtain ⟨a, ha, h⟩ := ih he
      exact ⟨a, List.mem_append_left _ ha, h⟩
    · exact ⟨b, by simp, rfl⟩

/-- Each slot holds the box of its argument, where no two arguments name one slot. -/
theorem get_argBoxes (hn : (args.map (·.slot)).Nodup) (hb : ∀ a ∈ args, box a ≠ default) {a : Arg} (ha : a ∈ args) :
    (argBoxes args box).get a.slot = box a := by
  induction args using List.reverseRecOn with
  | nil => cases ha
  | append_singleton l b ih =>
    rw [List.map_append, List.nodup_append] at hn
    obtain ⟨hl, -, hdiff⟩ := hn
    rw [argBoxes_append]
    rcases List.mem_append.mp ha with ha | ha
    · have hne : a.slot ≠ b.slot := hdiff _ (List.mem_map_of_mem ha) _ (by simp)
      rw [Tab.get_put_ne _ _ _ _ hne]
      exact ih hl (fun a ha => hb a (List.mem_append_left _ ha)) ha
    · cases List.mem_singleton.mp ha
      exact Tab.get_put_of_ne _ _ _ (hb a (by simp))

theorem boxesFit_argBoxes (hn : (args.map (·.slot)).Nodup) (hb : ∀ a ∈ args, argBox (parent a) a (box a)) :
    boxesFit args parent (argBoxes args box) := by
  refine ⟨fun e he a' ha' hs => ?_, fun x a ha hs => ?_⟩
  · obtain ⟨a, ha, rfl⟩ := mem_argBoxes he
    rw [List.inj_on_of_nodup_map hn ha' ha hs]
    exact hb a ha
  · have hne : ∀ a ∈ args, box a ≠ default := fun a ha hd => by
      obtain ⟨hp, -⟩ := hb a ha
      rw [hd] at hp
      exact Bool.false_ne_true hp
    rw [← hs, get_argBoxes hn hne ha]
    exact hb a ha

end

/-- The entry of child `i` of a spawn of `n` at index `idx`, the state standing at its turn (R230, R231, R304). -/
def State.childTask (s : State) (u p idx n : Nat) (gang : Option Nat) (lbl : Label) (die : Nat) (l : Launch) (t : Task)
    (i : Nat) : Task :=
  let e := l.entryOf idx
  let lv := l.levelOf e.level
  let k := s.spawns
  let ci := (s.task p).group.length
  let timed := if lv.timed then (lv.table.find? fun r => r.1 = idx && r.2.1 = ci).map (fun r => (r.2.2.1, r.2.2.2.1, r.2.2.2.2))
    else none
  { (default : Task) with
    st := .spawned, lid := t.lid, die := die, taskid := s.freeTaskid die k, index := idx, level := e.level
    start := s.frame.toNat, inst := t.inst
    seq := decide (lv.domain ≠ 4), parent := some p, child := ci
    boxes := argBoxes t.args fun a => argChildBox (s.box u a.desc.slot.toNat) a (e.decls.getD a.slot default) k
    lbl := lbl, lbl0 := lbl, prio := l.prio
    anchor := t.anchor
    timed := timed.map (fun r => (48 * t.die + r.1, t.anchor + r.2.1, r.2.2))
    gang := gang.map (fun g => (g, i, n)) }

/-- A child put into the task table, and among the members of its gang. -/
def State.enlist (s : State) (gang : Option Nat) (c : Task) : State :=
  let k := s.spawns
  let s1 := { s with tasks := s.tasks.put k c, spawns := k + 1 }
  (match gang with
    | some g => { s1 with gangs := s1.gangs.put g (s1.gangs.get g ++ [k]) }
    | none => s1).gain k

theorem sameTasks_gain (s : State) (k : Nat) : SameTasks s (s.gain k) := .ite (.refl s) ⟨rfl, rfl⟩

theorem State.gain_units (s : State) (k : Nat) : (s.gain k).units = s.units := by
  unfold State.gain
  dsimp only
  split <;> rfl

theorem State.enlist_tasks (s : State) (gang : Option Nat) (c : Task) : (s.enlist gang c).tasks = s.tasks.put s.spawns c := by
  unfold State.enlist
  cases gang <;> exact (sameTasks_gain ..).1

theorem State.enlist_spawns (s : State) (gang : Option Nat) (c : Task) : (s.enlist gang c).spawns = s.spawns + 1 := by
  unfold State.enlist
  cases gang <;> exact (sameTasks_gain ..).2

theorem State.enlist_units (s : State) (gang : Option Nat) (c : Task) : (s.enlist gang c).units = s.units := by
  unfold State.enlist
  cases gang <;> exact State.gain_units ..

/-- One child put into the task table and its parent's group. -/
def State.spawnOne (s : State) (u p idx n : Nat) (gang : Option Nat) (lbl : Label) (die : Nat) (l : Launch) (t : Task) (i : Nat) :
    State :=
  (s.enlist gang (s.childTask u p idx n gang lbl die l t i)).modTask p fun p => { p with group := p.group ++ [s.spawns] }

theorem State.spawnMany_eq (s : State) (u p idx n : Nat) (gang : Option Nat) (lbl : Label) :
    s.spawnMany u p idx n gang lbl = (List.range n).foldl
      (fun r i => r.spawnOne u p idx n gang lbl (s.childDie u) (s.launchOf u) (s.task p) i) s := rfl

/-- What the statement says of child `i` of a spawn of `n` from state `s`. -/
structure IsChild (s : State) (u p idx n : Nat) (gang : Option Nat) (i : Nat) (c : Task) : Prop where
  st : c.st = .spawned
  parent : c.parent = some p
  index : c.index = idx
  child : c.child = (s.task p).group.length + i
  lid : c.lid = (s.task p).lid
  level : c.level = ((s.launchOf u).entryOf idx).level
  gang : c.gang = gang.map fun g => (g, i, n)
  fit : boxesFit (s.task p).args (fun a => s.box u a.desc.slot.toNat) c.boxes

/-- The first `m` children of a spawn stand in the task table. -/
structure SpawnedTo (s : State) (u p idx n : Nat) (gang : Option Nat) (m : Nat) (r : State) : Prop where
  spawns : r.spawns = s.spawns + m
  units : r.units = s.units
  group : r.task p = { s.task p with group := (s.task p).group ++ (List.range m).map (s.spawns + ·) }
  other : ∀ k, k < s.spawns → k ≠ p → r.task k = s.task k
  child : ∀ i, i < m → IsChild s u p idx n gang i (r.task (s.spawns + i))

section
variable {s : State} {u p idx n : Nat} {gang : Option Nat} {lbl : Label} (hrun : (s.task p).st ≠ .none) (hp : p < s.spawns)
  (hu : (s.unit u).task = some p) (hn : ((s.task p).args.map (·.slot)).Nodup)

theorem SpawnedTo.none : SpawnedTo s u p idx n gang 0 s :=
  ⟨rfl, rfl, by simp, fun _ _ _ => rfl, fun _ hi => absurd hi (Nat.not_lt_zero _)⟩

include hu hn in
theorem SpawnedTo.isChild {m : Nat} {r : State} (h : SpawnedTo s u p idx n gang m r) :
    IsChild s u p idx n gang m (r.childTask u p idx n gang lbl (s.childDie u) (s.launchOf u) (s.task p) m) := by
  have hunit : (r.unit u).task = some p := by rw [State.unit, h.units]; exact hu
  have hbox (k : Nat) : r.box u k = s.box u k := by
    simp only [State.box, State.taskOf, hunit, hu, h.group]
  refine ⟨rfl, rfl, rfl, ?_, rfl, rfl, rfl, ?_⟩
  · show (r.task p).group.length = _
    simp [h.group]
  · refine boxesFit_argBoxes hn fun a _ => ?_
    rw [hbox]
    exact argBox_argChildBox ..

include hrun hp hu hn in
theorem SpawnedTo.succ {m : Nat} {r : State} (h : SpawnedTo s u p idx n gang m r) : SpawnedTo s u p idx n gang (m + 1)
    (r.spawnOne u p idx n gang lbl (s.childDie u) (s.launchOf u) (s.task p) m) := by
  have hchild := h.isChild (lbl := lbl) hu hn
  generalize hc : r.childTask u p idx n gang lbl (s.childDie u) (s.launchOf u) (s.task p) m = c at hchild
  obtain ⟨q, hq⟩ : ∃ q, q = r.enlist gang c := ⟨_, rfl⟩
  have htasks : q.tasks = r.tasks.put (s.spawns + m) c := by rw [hq, State.enlist_tasks, h.spawns]
  have hspawns : q.spawns = s.spawns + (m + 1) := by rw [hq, State.enlist_spawns, h.spawns]; rfl
  have hunits : q.units = s.units := by rw [hq, State.enlist_units, h.units]
  have hne : c ≠ default := Task.ne_default (by rw [hchild.st]; exact TState.noConfusion)
  have hown : q.task (s.spawns + m) = c := by rw [State.task, htasks]; exact Tab.get_put_of_ne _ _ _ hne
  have helse (j : Nat) (hj : j ≠ s.spawns + m) : q.task j = r.task j := by rw [State.task, htasks]; exact Tab.get_put_ne _ _ _ _ hj
  have hqp : q.task p = _ := (helse p (by omega)).trans h.group
  have hself := q.task_modTask_self p (fun t => { t with group := t.group ++ [s.spawns + m] }) (by rw [hqp]; exact hrun)
  have hother (j : Nat) (hj : j ≠ p) : (q.modTask p fun t => { t with group := t.group ++ [s.spawns + m] }).task j = q.task j :=
    q.task_modTask_ne _ hj
  rw [State.spawnOne, hc, ← hq, h.spawns]
  refine ⟨hspawns, hunits, ?_, fun k hk hkp => ?_, fun i hi => ?_⟩
  · rw [hself, hqp, List.range_succ, List.map_append, List.append_assoc]
    rfl
  · rw [hother k hkp, helse k (by omega)]
    exact h.other k hk hkp
  · rw [hother _ (by omega)]
    rcases Nat.lt_succ_iff_lt_or_eq.mp hi with hi | rfl
    · rw [helse _ (by omega)]
      exact h.child i hi
    · rwa [hown]

include hrun hp hu hn in
theorem SpawnedTo.foldl (m : Nat) : SpawnedTo s u p idx n gang m ((List.range m).foldl
    (fun r i => r.spawnOne u p idx n gang lbl (s.childDie u) (s.launchOf u) (s.task p) i) s) := by
  induction m with
  | zero => exact .none
  | succ m ih =>
    rw [List.range_succ, List.foldl_append]
    exact ih.succ hrun hp hu hn

include hrun hp hu hn in
theorem SpawnedTo.spawnMany : SpawnedTo s u p idx n gang n (s.spawnMany u p idx n gang lbl) := by
  rw [State.spawnMany_eq]
  exact SpawnedTo.foldl hrun hp hu hn n

end

/-! ## SPAWN and GSPAWN -/

/-- The first child of a group sets its anchor (R304). -/
def State.anchored (s : State) (p : Nat) : State :=
  if (s.task p).group.isEmpty then s.modTask p (fun k => { k with anchor := s.frame.toNat }) else s

theorem State.newChildren_eq (s : State) (u p idx n : Nat) (gang : Bool) (lbl : Label) : s.newChildren u p idx n gang lbl =
    (s.anchored p).spawnMany u p idx n (if gang then some s.spawns else none) lbl := rfl

theorem State.anchored_other (s : State) {p j : Nat} (h : j ≠ p) : (s.anchored p).task j = s.task j := by
  unfold State.anchored
  split
  · exact s.task_modTask_ne _ h
  · rfl

/-- The parent of a spawn but for its anchor. -/
theorem State.anchored_parent (s : State) {p : Nat} (hrun : (s.task p).st ≠ .none) :
    (s.anchored p).task p = { s.task p with anchor := ((s.anchored p).task p).anchor } := by
  unfold State.anchored
  split
  · rw [s.task_modTask_self p (fun k => { k with anchor := s.frame.toNat }) hrun]
  · rfl

theorem State.anchored_frame (s : State) (p : Nat) : (s.anchored p).spawns = s.spawns ∧ (s.anchored p).units = s.units
    ∧ (s.anchored p).launches = s.launches := by
  unfold State.anchored
  split <;> exact ⟨rfl, rfl, rfl⟩

theorem IsChild.of_anchored {s : State} {p idx n i : Nat} {gang : Option Nat} {c : Task} (hrun : (s.task p).st ≠ .none)
    (hu : s.me.task = some p) (h : IsChild (s.anchored p) s.active p idx n gang i c) : IsChild s s.active p idx n gang i c := by
  have hpar := s.anchored_parent hrun
  obtain ⟨-, hunits, hlaunch⟩ := s.anchored_frame p
  have hu' : (s.unit s.active).task = some p := hu
  have hu0 : ((s.anchored p).unit s.active).task = some p := by rw [State.unit, hunits]; exact hu
  have hbox (k : Nat) : (s.anchored p).box s.active k = s.box s.active k := by
    simp only [State.box, State.taskOf, hu0, hu']
    rw [hpar]
  have hlaunch : (s.anchored p).launchOf s.active = s.launchOf s.active := by
    simp only [State.launchOf, State.launch, State.taskOf, hlaunch, hu0, hu']
    rw [hpar]
  obtain ⟨hst, hparent, hindex, hchild, hlid, hlevel, hgang, hfit⟩ := h
  simp only [hbox] at hfit
  rw [hpar] at hchild hlid hfit
  exact ⟨hst, hparent, hindex, hchild, hlid, hlaunch ▸ hlevel, hgang, hfit⟩

theorem spawned_of_placeChildren {s r : State} {p idx n : Nat} {gang : Bool} {lbl : Label} (hrun : (s.task p).st ≠ .none)
    (hp : p < s.spawns) (hu : s.me.task = some p) (hn : ((s.task p).args.map (·.slot)).Nodup)
    (h : (s.newChildren s.active p idx n gang lbl).placeChildren p ((List.range n).map (s.spawns + ·)) = some r) :
    spawned s (r.modTask p fun k => { k with args := [] }) p idx n gang := by
  have hpar := s.anchored_parent hrun
  obtain ⟨hspawns, hunits, hlaunch⟩ := s.anchored_frame p
  have hu0 : ((s.anchored p).unit s.active).task = some p := by rw [State.unit, hunits]; exact hu
  have hst0 : ((s.anchored p).task p).st ≠ .none := by rw [hpar]; exact hrun
  have hs := SpawnedTo.spawnMany (s := s.anchored p) (u := s.active) (idx := idx) (n := n)
    (gang := if gang then some s.spawns else none) (lbl := lbl) hst0 (hspawns ▸ hp) hu0 (by rw [hpar]; exact hn)
  rw [State.newChildren_eq] at h
  generalize (s.anchored p).spawnMany s.active p idx n (if gang then some s.spawns else none) lbl = q at hs h
  have hchild (i : Nat) (hi : i < n) := (hs.child i hi).of_anchored hrun hu
  have hK (j : Nat) (hj : ∃ i, i < n ∧ j = s.spawns + i) : IsChild s s.active p idx n (if gang then some s.spawns else none)
      (j - s.spawns) (q.task j) := by
    obtain ⟨i, hi, rfl⟩ := hj
    rw [Nat.add_sub_cancel_left]
    exact hspawns ▸ hchild i hi
  have hplaced : Placed (fun j => ∃ i, i < n ∧ j = s.spawns + i) (s.task p).args
      (fun a => s.box s.active a.desc.slot.toNat) q r := by
    refine .placeChildren (fun k hk => ?_) (fun j hj => ?_) (fun j hj => (hK j hj).fit) h
    · obtain ⟨i, hi, rfl⟩ := List.mem_map.mp hk
      exact ⟨i, List.mem_range.mp hi, rfl⟩
    · rw [(hK j hj).st]
      exact TState.noConfusion
  have hrp : r.task p = { (s.anchored p).task p with group := (s.task p).group ++ (List.range n).map (s.spawns + ·) } := by
    rw [hplaced.other p (fun ⟨i, _, h⟩ => by omega), hs.group, hspawns]
    rw [hpar]
  have hself := r.task_modTask_self p (fun k => { k with args := [] }) (by rw [hrp]; exact hst0)
  have hother (j : Nat) (hj : j ≠ p) : (r.modTask p fun k => { k with args := [] }).task j = r.task j := r.task_modTask_ne _ hj
  refine ⟨?_, ?_, ?_, fun k hk hkp => ?_, fun i hi => ?_⟩
  · exact hplaced.spawns.trans (hs.spawns.trans (by rw [hspawns]))
  · rw [hself, hrp]
  · rw [hself]
  · rw [hother k hkp, hplaced.other k (fun ⟨i, _, h⟩ => by omega), hs.other k (hspawns ▸ hk) hkp]
    exact s.anchored_other hkp
  · have hc := hK (s.spawns + i) ⟨i, hi, rfl⟩
    have hown := hplaced.own (s.spawns + i) ⟨i, hi, rfl⟩
    have hfit := hplaced.fit (s.spawns + i) ⟨i, hi, rfl⟩ hc.fit
    rw [Nat.add_sub_cancel_left] at hc
    rw [hother _ (by omega)]
    refine ⟨(congrArg Task.st hown).trans hc.st, (congrArg Task.parent hown).trans hc.parent,
      (congrArg Task.index hown).trans hc.index, (congrArg Task.child hown).trans hc.child,
      (congrArg Task.lid hown).trans hc.lid, (congrArg Task.level hown).trans (hc.level.trans ?_),
      (congrArg Task.gang hown).trans (hc.gang.trans ?_), fun a ha => hfit.2 a.slot a ha rfl⟩
    · rw [State.launchOf, taskOf_of_task hu]
    · cases gang <;> rfl

/-- SPAWN or GSPAWN of `n` children under a true guard. -/
theorem spawnWord_true {s : State} {g : POp} (hm : s.me.mode ≠ .idle) (hg : (s.me.readP g).v = true) {p : Nat}
    (hp : s.me.task = some p) (i : TIdx) (n : Nat) (gang : Bool) :
    let s1 := lifted s g
    let u := s.active
    let v := s.me.readT i
    let l := v.l ||| taskLab s g
    spawnWord s i n gang g = match spawnBad s1 u v.v.toNat n gang with
      | some (code, det) => s1.raise u { s1.me.flt lanS code 0 l with det := det } true
      | none =>
        if s.freeEntries (s1.childDie u) <
            (if ((s.launchOf u).levelOf ((s.task p).level + 1)).domain = 4 then n else n + 512) then s1.again
        else match (s1.newChildren u p v.v.toNat n gang (s1.me.vol.lblpc ||| l)).placeChildren p
            ((List.range n).map (s.spawns + ·)) with
          | none => s1.again
          | some r => r.modTask p fun k => { k with args := [] } := by
  have hreadT : (lifted s g).me.readT i = s.me.readT i := by rw [lifted_me hm, Unit.raiseLbl_readT]
  have htask : (lifted s g).me.task = some p := (lifted_me_task hm).trans hp
  have hlaunch : (lifted s g).launchOf s.active = s.launchOf s.active := by rw [lifted_eq, State.raised_launchOf hm]
  simp only [spawnWord, guarded_true _ _ _ hg, ← lifted_eq, lifted_baseL hm, htask, hreadT]
  simp only [show (lifted s g).active = s.active from rfl, hlaunch]
  rfl

/-- The first checks of a spawn: the task's entry, its level, the size of the group (R230, R231). -/
theorem spawnBad_refused {s : State} {u idx n : Nat} {gang : Bool} (h : (s.launchOf u).tasks[idx]? = none
    ∨ ∃ e, (s.launchOf u).tasks[idx]? = some e ∧ (e.level ≠ (s.taskOf u).level + 1 ∨ 64 < (s.taskOf u).group.length + n)) :
    spawnBad s u idx n gang = some (fIllegalOperand, 0) := by
  unfold spawnBad
  rcases h with h | ⟨e, he, h⟩
  · simp only [h]
  · simp only [he]
    by_cases hl : e.level ≠ (s.taskOf u).level + 1
    · exact if_pos hl
    · rw [if_neg hl]
      split
      · rfl
      · exact if_pos (h.resolve_left hl)

/-- What a spawn leaves is said of boxes and tasks, which a label raised does not touch. -/
theorem lifted_spawned {s t : State} {g : POp} {p idx n : Nat} {gang : Bool} (hm : s.me.mode ≠ .idle) :
    spawned (lifted s g) t p idx n gang ↔ spawned s t p idx n gang := by
  have hbox (k : Nat) : (lifted s g).box (lifted s g).active k = s.box s.active k := lifted_box hm k
  unfold spawned
  simp only [hbox]
  rfl

/-- Settles O38: a spawn refused, waiting, or made. Its domain and label checks are the model's `spawnBad`. -/
theorem spawnWords : Obligations.SpawnWords := by
  intro s h i n1 g p hw hg hp hrun hlt s1 u v l lv word count room gang n full
  have hm := working_not_idle hw
  have he : exec (word gang) s = .next (spawnWord s i n gang g) := by cases gang <;> rfl
  have htask : s1.taskOf u = s.task p := (lifted_taskOf hm).trans (taskOf_of_task hp)
  have hlaunch : s1.launchOf u = s.launchOf u := by rw [show s1 = _ from lifted_eq s g, State.raised_launchOf hm]
  rw [he, spawnWord_true hm hg hp]
  refine ⟨fun hbad => ?_, fun code det hbad => ?_, fun hok hfull => ?_, fun hok hfull hroom => ?_, fun hok hfull hroom hn => ?_⟩
  · rw [← hlaunch, ← htask] at hbad
    rw [spawnBad_refused hbad]
    rfl
  · rw [hbad]
  · rw [hok]
    exact congrArg _ (if_pos hfull)
  · rw [hok]
    refine congrArg _ ((if_neg hfull).trans ?_)
    show (match room gang with | none => _ | some r => _) = _
    rw [hroom]
    rfl
  · obtain ⟨r, hr⟩ := Option.ne_none_iff_exists'.mp hroom
    refine ⟨r.modTask p fun k => { k with args := [] }, ?_, ?_⟩
    · rw [hok]
      refine congrArg _ ((if_neg hfull).trans ?_)
      show (match room gang with | none => _ | some r => _) = _
      rw [hr]
    · rw [← lifted_spawned hm]
      exact spawned_of_placeChildren (s := s1) (by rw [show (s1.task p).st = .running from hrun]; exact TState.noConfusion) hlt
        ((lifted_me_task hm).trans hp) hn hr

end Sys2Proof.Machine
end

section

/-! Untimed words under way: atomics, held faults, completion (spec 08, R200 to R203, R212 to R214, R218), then O46. -/

namespace Sys2Proof.Machine
open Claims

/-! ## What an atomic stores (R213) -/

theorem signed_eq_toInt {w n : Nat} (hw : 0 < w) (hn : n < 2 ^ w) : signed w n = (BitVec.ofNat w n).toInt := by
  have hp : 2 ^ w = 2 * 2 ^ (w - 1) := by
    rw [← Nat.pow_succ']
    congr 1
    omega
  have hc : n < 2 ^ (w - 1) ↔ 2 * n < 2 ^ w := by omega
  rw [BitVec.toInt_eq_toNat_cond, BitVec.toNat_ofNat, Nat.mod_eq_of_lt hn]
  simp only [signed, hc, Nat.cast_pow, Nat.cast_ofNat]

/-- The old value's successor, each operation in the words of its width. -/
theorem atomNew_eq {w old v : Nat} (x : Nat) (hw : 0 < w) (ho : old < 2 ^ w) (hv : v < 2 ^ w) :
    let o := BitVec.ofNat w old
    let a := BitVec.ofNat w v
    atomNew .add w old v x = (o + a).toNat ∧ atomNew .swap w old v x = v ∧ atomNew .cas w old v x = (if old = v then x else old)
      ∧ atomNew .mins w old v x = (if o.toInt ≤ a.toInt then old else v)
      ∧ atomNew .maxs w old v x = (if a.toInt ≤ o.toInt then old else v)
      ∧ atomNew .and w old v x = (o &&& a).toNat ∧ atomNew .or w old v x = (o ||| a).toNat
      ∧ atomNew .xor w old v x = (o ^^^ a).toNat := by
  intro o a
  have hot : o.toNat = old := (BitVec.toNat_ofNat ..).trans (Nat.mod_eq_of_lt ho)
  have hat : a.toNat = v := (BitVec.toNat_ofNat ..).trans (Nat.mod_eq_of_lt hv)
  refine ⟨?_, rfl, rfl, ?_, ?_, ?_, ?_, ?_⟩
  · rw [BitVec.toNat_add, hot, hat]; rfl
  · simp only [atomNew, signed_eq_toInt hw ho, signed_eq_toInt hw hv]; rfl
  · simp only [atomNew, signed_eq_toInt hw ho, signed_eq_toInt hw hv, ge_iff_le]; rfl
  · rw [BitVec.toNat_and, hot, hat]; rfl
  · rw [BitVec.toNat_or, hot, hat]; rfl
  · rw [BitVec.toNat_xor, hot, hat]; rfl

/-! ## Faults held at a word -/

/-- Preparing and ready tasks may go back; what is frozen stays so. -/
theorem State.frozen_unprepare (s : State) (ks : List Nat) : (s.unprepare ks).frozen = s.frozen := by
  unfold State.unprepare
  induction ks generalizing s with
  | nil => rfl
  | cons k ks ih =>
    rw [List.foldl_cons, ih]
    split
    · split
      · unfold State.gain
        dsimp only
        split <;> rfl
      · rfl
    · rfl

theorem State.mem_frozen_freeze_core (s : State) (u a : Nat) : Master.core u a ∈ (s.freeze (.core u a)).frozen := by
  unfold State.freeze
  split
  case isTrue h => exact List.contains_iff_mem.mp h
  case isFalse =>
    rw [State.frozen_unprepare]
    exact List.mem_append_right _ (List.mem_singleton.mpr rfl)

/-- The fault of a word that is found after its issue (R203). -/
def XWord.fault (w : XWord) (code sub det slot : Nat) (bd : BoxDet) : Flt :=
  { (default : Flt) with code := code, sub := sub, lane := lanC, cyc := w.issue, lab := w.lab, det := det, slot := slot, bd := bd }

theorem Flt.stays_iff (f : Flt) : f.stays = true ↔ f.code = 0x0D ∨ f.code = 0x14 := by
  rw [Flt.stays, Bool.or_eq_true, decide_eq_true_eq, decide_eq_true_eq]
  rfl

/-- The first fault found at a word whose phase and task go on. -/
theorem State.hold_eq {s : State} {k : Nat} (code sub det slot : Nat) (bd : BoxDet) (hv : (s.xwords.get k).void = false)
    (hh : (s.xwords.get k).held = none) (ho : (s.task (s.xwords.get k).task).over = false) :
    let w := s.xwords.get k
    let f := w.fault code sub det slot bd
    let s1 := if f.stays then s.freeze (.core w.unit w.asid) else s
    s.hold k code sub det slot bd = { s1 with
      xwords := s1.xwords.put k { w with held := some f, found := s1.founds, done := true, dead := true, cstat := .dropped }
      founds := s1.founds + 1 } := by
  unfold State.hold
  simp only [hv, hh, ho, zero_ne_one, decide_false, decide_true, Bool.and_false, Bool.or_false, Bool.false_and,
    ne_eq, not_true_eq_false, if_false, Bool.false_eq_true]
  rfl

/-- The fault is held at its word, the word does nothing more, and a master that it freezes is frozen. -/
theorem State.hold_leaves {s : State} {k : Nat} (code sub det slot : Nat) (bd : BoxDet) (hv : (s.xwords.get k).void = false)
    (hh : (s.xwords.get k).held = none) (ho : (s.task (s.xwords.get k).task).over = false) :
    let w := s.xwords.get k
    let t := s.hold k code sub det slot bd
    (t.xwords.get k).held = some (w.fault code sub det slot bd) ∧ (t.xwords.get k).done = true
      ∧ (t.xwords.get k).cstat = .dropped ∧ (code = 0x0D ∨ code = 0x14 → Master.core w.unit w.asid ∈ t.frozen) := by
  intro w t
  have ht : t = _ := State.hold_eq code sub det slot bd hv hh ho
  have hw : t.xwords.get k = _ := (congrArg (fun q : State => q.xwords.get k) ht).trans (Tab.get_put_of_ne _ _ _ fun e =>
    Option.some_ne_none _ (congrArg XWord.held e))
  refine ⟨by rw [hw], by rw [hw], by rw [hw], fun hc => ?_⟩
  have hs : (w.fault code sub det slot bd).stays = true := (Flt.stays_iff _).mpr hc
  rw [ht]
  show _ ∈ (if (w.fault code sub det slot bd).stays then _ else _ : State).frozen
  rw [if_pos hs]
  exact s.mem_frozen_freeze_core _ _

/-! ## The words -/

/-- The state an attempt leaves, if it has made all it was to make. -/
def State.keptOr (s : State) (t : State × XTry) : State := match t with | (t, .ok) => t | _ => s

/-- An attempt that a free value makes or leaves out. -/
theorem State.keptOr_free (s : State) (b : Bool) (d : State × XTry) :
    s.keptOr (if b then d else (s, .ok)) = if b = true ∧ d.2 = .ok then d.1 else s := by
  obtain ⟨t, how⟩ := d
  cases b with
  | false => rfl
  | true => cases how <;> rfl

section
variable {s t : State} {k : Nat}

theorem exec_untimedWordComplete_ok (hf : Tab.find s.xwords k = some (s.xwords.get k)) (hd : (s.xwords.get k).done = false)
    (hk : movesItself (s.xwords.get k).kind) (ht : s.tryWord k = (t, .ok)) :
    exec (.untimedWordComplete k) s = .next ((t.completeWord k).tendCheck (s.xwords.get k).unit) := by
  show execUntimedWordComplete k s = _
  generalize s.xwords.get k = w at hf hd hk ⊢
  simp only [execUntimedWordComplete, hf, hd, Bool.false_eq_true, if_false, ht]
  cases hw : w.kind with
  | ratom | xsend | xrecv | rrot | cfence => rw [hw] at hk; exact hk.elim
  | _ => rfl

/-- A CSIG whose additions wait for the commit has nothing more to do (R212). -/
theorem exec_untimedWordComplete_csig {amt : Nat} (hf : Tab.find s.xwords k = some (s.xwords.get k))
    (hk : (s.xwords.get k).kind = .csig amt) (hd : (s.xwords.get k).done = false) (hfr : s.xfrozen (s.xwords.get k) = false)
    (hm : s.mayMove k (s.xwords.get k) = true) (hc : (s.xwords.get k).cstat = .pending) :
    exec (.untimedWordComplete k) s = .next ((({ s with xwords := s.xwords.put k { s.xwords.get k with done := true, moved := [] } } :
      State).dropPages k).tendCheck (s.xwords.get k).unit) := by
  have ht : s.tryWord k = (s, .ok) := by
    simp only [State.tryWord, State.word, hd, hfr, hm, hk, Bool.false_eq_true, if_false, Bool.not_true]
  rw [exec_untimedWordComplete_ok hf hd (by rw [hk]; trivial) ht]
  simp only [State.completeWord, State.word, hc, reduceCtorEq, if_false]
  rfl

/-- The data of an XSEND comes into its receive buffer (R218). -/
theorem exec_xsendDataArrive_comes {die ch n : Nat} {m : XMsg} (hf : Tab.find s.xwords k = some (s.xwords.get k))
    (hk : (s.xwords.get k).kind = .xsend die ch n) (hd : (s.xwords.get k).done = false)
    (hsz : (s.xwords.get k).src.size ≤ (s.xwords.get k).data.length) (hx : s.xin.find? (fun e => decide (e.word = k)) = some m)
    (hfull : m.size ≤ m.data.length) (hmay : s.mayArrive m = true) :
    exec (.xsendDataArrive k) s = .next (({ s with
      xwords := s.xwords.put k { s.xwords.get k with done := true }
      xin := s.xin.map fun e => if e.word = k then { e with full := true } else e } : State).tendCheck (s.xwords.get k).unit) := by
  have hsent : m.sent = true := decide_eq_true hfull
  show execXsendDataArrive k s = _
  simp only [execXsendDataArrive, State.word, hk, hx, hd, hsent, hmay, Nat.not_lt.mpr hsz, decide_false, Bool.not_true, Bool.or_false,
    Bool.false_eq_true, if_false, State.sendIn, hf]
  rfl

theorem exec_heldFaultFound_holds {code sub det va : Nat} (ht : s.tryWord k = (t, .flt code sub det va)) :
    exec (.heldFaultFound k) s = .next ((t.holdAt k code sub det va).tendCheck (s.xwords.get k).unit) := by
  show execHeldFaultFound k s = _
  simp only [execHeldFaultFound, ht]
  rfl

section
variable {op : AOp} {wide : Bool} {tag : BitVec 16} {v x n : Nat} (hk : (s.xwords.get k).kind = .ratom op wide tag v x n)
include hk

theorem exec_ratomAnswer_ok (ht : s.tryWord k = (t, .ok)) :
    exec (.ratomAnswer k) s = .next ((t.completeWord k).tendCheck (s.xwords.get k).unit) := by
  show execRatomAnswer k s = _
  simp only [execRatomAnswer, State.word, hk, ht]

/-- A request that stays without its answer (R214): performed or not, as the free value says, it is made again, and after three
retries its fault is held. -/
theorem exec_ratomRetryTimeout_open (hd : (s.xwords.get k).done = false) (hr : (s.xwords.get k).read ≠ 0)
    (hm : s.mayMove k (s.xwords.get k) = true) (hso : s.soOk k (s.xwords.get k) 0 = true)
    (hfr : s.xfrozen (s.xwords.get k) = false) :
    let s1 := { s with frees := s.frees + 1 }
    let did := s1.atomPerform k (s.xwords.get k)
    let q := if Config.freeBit s.frees = true ∧ did.2 = .ok then did.1 else s1
    exec (.ratomRetryTimeout k) s = .next (if n ≥ 3 then (q.holdAt k fRemote 1 0 0).tendCheck (s.xwords.get k).unit
      else q.setWord k { q.word k with kind := .ratom op wide tag v x (n + 1), sent := if q.onWay k then 1 else 0 }) := by
  intro s1 did q
  have hq : s1.keptOr (if Config.freeBit s.frees then did else (s1, .ok)) = q := State.keptOr_free ..
  have he : exec (.ratomRetryTimeout k) s =
      (let r := s1.keptOr (if Config.freeBit s.frees then did else (s1, .ok))
      if n ≥ 3 then .next ((r.holdAt k fRemote 1 0 0).tendCheck (s.xwords.get k).unit)
      else .next (r.setWord k { r.word k with kind := .ratom op wide tag v x (n + 1), sent := if r.onWay k then 1 else 0 })) := by
    show execRatomRetryTimeout k s = _
    simp only [execRatomRetryTimeout, State.word, hk, hd, hr, hm, hso, hfr, decide_false, Bool.not_true, Bool.or_false,
      Bool.false_eq_true, if_false]
    rfl
  rw [he, hq]
  exact (apply_ite Host.Outcome.next _ _ _).symm

end

end

/-- Settles O46: each untimed word by the law of its event, and the atomics of both widths. -/
theorem untimedWords : Obligations.UntimedWords := by
  refine ⟨fun s t k => ⟨fun hf hd hk ht => exec_untimedWordComplete_ok hf hd hk ht,
    fun amt hf hk hd hfr hm hc => exec_untimedWordComplete_csig hf hk hd hfr hm hc,
    fun die ch n m hf hk hd hsz hx hfull hmay => exec_xsendDataArrive_comes hf hk hd hsz hx hfull hmay,
    fun code sub det va ht => ⟨exec_heldFaultFound_holds ht, fun hv hh ho => State.hold_leaves code sub det _ _ hv hh ho⟩,
    fun op wide tag v x n hk => ⟨fun ht => exec_ratomAnswer_ok hk ht, fun hd hr hm hso hfr => ⟨fun hn => ?_, fun hn => ?_⟩⟩⟩,
    fun w old v x hw ho hv _ => atomNew_eq x (by omega) ho hv⟩
  · exact (exec_ratomRetryTimeout_open hk hd hr hm hso hfr).trans (congrArg _ (if_neg (Nat.not_le.mpr hn)))
  · exact (exec_ratomRetryTimeout_open hk hd hr hm hso hfr).trans (congrArg _ (if_pos hn))

end Sys2Proof.Machine
end

section

/-! TFAIL (spec 08, R234; 22, R403), and the refutation of O39. -/

namespace Sys2Proof.Machine
open Claims

/-! ## TFAIL of a listed task -/

theorem sameTasks_giveBack (s : State) (asid : Nat) (sc : BScope) (home base : Nat) : SameTasks s (s.giveBack asid sc home base) := by
  cases sc <;> exact ⟨rfl, rfl⟩

theorem sameTasks_charge (s : State) (u : Nat) : SameTasks s (s.charge u) := by
  unfold State.charge
  split
  · exact .refl s
  · exact .ite ⟨rfl, rfl⟩ ⟨rfl, rfl⟩

theorem sameTasks_heldRecords (s : State) (k : Nat) : SameTasks s (s.heldRecords k) := by
  unfold State.heldRecords
  refine .trans (.foldl (fun s e => ?_) _ s) ⟨rfl, rfl⟩
  split
  · exact sameTasks_post ..
  · exact .refl s

/-- A listed task keeps its group when its boxes are given back. -/
theorem State.freeBoxes_group (s : State) {k : Nat} (hst : (s.task k).st ≠ .none) :
    ((s.freeBoxes k).task k).group = (s.task k).group := by
  unfold State.freeBoxes
  dsimp only
  generalize hq : List.foldl _ s _ = q
  have hs : SameTasks s q := by
    rw [← hq]
    exact .foldl (fun _ _ => .ite (.refl _) (sameTasks_giveBack ..)) _ s
  rw [q.task_modTask_self k _ (by rw [hs.task]; exact hst), hs.task]

theorem State.modTask_congr (s : State) (k : Nat) (f g : Task → Task) (h : f (s.task k) = g (s.task k)) :
    s.modTask k f = s.modTask k g := congrArg (fun t => { s with tasks := s.tasks.put k t }) h

/-- What takes a task off its unit before its boxes are given back. -/
theorem sameTasks_left (s : State) (k : Nat) (x : Unit) :
    SameTasks s ((((s.heldRecords k).setUnit s.active x).charge s.active).dropPending k none) :=
  .trans (t := ((s.heldRecords k).setUnit s.active x).charge s.active)
    (.trans (t := (s.heldRecords k).setUnit s.active x) (.trans (sameTasks_heldRecords s k) ⟨rfl, rfl⟩) (sameTasks_charge ..))
    ⟨rfl, rfl⟩

/-- A listed task without children ends at once (R403). -/
theorem State.failOne_ends {s : State} {k : Nat} (hk : s.me.task = some k) (hpend : s.me.pend = []) (hst : (s.task k).st ≠ .none)
    (hgroup : (s.task k).group = []) (how : TEndK) (l : Label) :
    s.failOne s.active s.me.iss.cyc false how l = endedBy s k how l := by
  unfold State.failOne endedBy
  simp only [show s.unit s.active = s.me from rfl, hk, State.dropIssued, Bool.false_and, Bool.false_eq_true, if_false, Unit.abort,
    hpend, List.foldl_nil]
  generalize hq : State.dropPending _ k none = q
  have hs : SameTasks s q := hq ▸ sameTasks_left ..
  have hg : (q.task k).group = [] := by rw [hs.task, hgroup]
  have hfreed : ((q.freeBoxes k).task k).group = [] := by rw [q.freeBoxes_group (by rw [hs.task]; exact hst), hg]
  rw [hg, List.isEmpty_nil, if_pos rfl]
  refine State.modTask_congr _ _ _ _ ?_
  rw [hfreed]
  rfl

/-- TFAIL in untimed code with nothing left to do and no child of its task: it ends the task as R234 says, where the task
table lists the task. -/
theorem exec_tfail_listed {s : State} {g : POp} {k : Nat} (hm : s.me.mode ≠ .idle) (hg : (s.me.readP g).v = true)
    (hk : s.me.task = some k) (hend : mayEnd s) (hpend : s.me.pend = []) (hst : (s.task k).st ≠ .none)
    (hgroup : (s.task k).group = []) (h : Hdr) (a : SB) : exec (.tfail h a g) s =
      .next (endedBy (lifted s g) k (.tfail ((s.me.readB a).v.toNat % 2 ^ 16)) (s.me.readB a).l) := by
  obtain ⟨ht, hargs, -⟩ := hend
  have hpend1 : (lifted s g).me.pend = [] := by
    rw [lifted_me hm, Unit.raiseLbl, ht]
    split
    · exact hpend
    · exact hpend
  have hbad : tendBad (lifted s g) = false := by
    have htask : (lifted s g).taskOf (lifted s g).active = s.taskOf s.active := lifted_taskOf hm
    have hiss : (lifted s g).me.iss.timed = false := by rwa [lifted_me hm, Unit.raiseLbl_iss]
    simp only [tendBad, htask, hiss, hargs]
    rw [taskOf_of_task hk, hgroup]
    rfl
  show execTfail h a g s = _
  simp only [execTfail, guarded_true _ _ _ hg, ← lifted_eq, lifted_readB hm, hbad, hpend1]
  refine congrArg _ (State.failOne_ends ((lifted_me_task hm).trans hk) hpend1 hst hgroup _ _)

/-! ## A task that is listed twice

The statement asks nothing of the form of the task table. A table that lists a key twice, the first time with the default entry, is
no canonical table (`Tab.wf`). There a write of the default entry uncovers the second one: the boxes given back are such a write, and
the task the statement has at hand is then another one. -/

/-- A core in untimed code of task 1, which its task table lists twice. -/
def listedTwice : State :=
  { (default : State) with
    units := [(0, { (default : Unit) with mode := .code, task := some 1 })]
    tasks := [(1, default), (1, { (default : Task) with group := [2] })] }

theorem listedTwice_not_wf : Tab.wf listedTwice.tasks = false := by decide +kernel

/-- The guard that is always true. -/
def always : POp := ⟨false, 0#6⟩

/-- The state of task 1 after a word. -/
def endState (o : Out) : TState :=
  match o with
  | .next t => (t.task 1).st
  | _ => .none

theorem tfail_listedTwice : endState (exec (.tfail default default always) listedTwice) = .joining := by decide +kernel

theorem endedBy_listedTwice :
    endState (.next (endedBy (lifted listedTwice always) 1 (.tfail ((listedTwice.me.readB default).v.toNat % 2 ^ 16))
      (listedTwice.me.readB default).l)) = .done := by decide +kernel

/-- Refutes O39: TFAIL leaves task 1 of `listedTwice` JOINING, not DONE. On a listed task it is as stated (`exec_tfail_listed`). -/
theorem not_taskEndWords : ¬ Obligations.TaskEndWords := by
  intro hall
  have hmay : mayEnd listedTwice := ⟨rfl, rfl, .inl rfl⟩
  obtain ⟨-, -, -, -, -, -, -, htfail⟩ :=
    hall listedTwice default 0#24 default always 1 (.inr ⟨rfl, rfl⟩) (by decide +kernel) rfl
  have hdiff := tfail_listedTwice.symm.trans (congrArg endState (htfail hmay rfl rfl))
  rw [endedBy_listedTwice] at hdiff
  exact TState.noConfusion hdiff

end Sys2Proof.Machine
end

section

/-! The operation that takes a fault, for a task of no gang (spec 05, R113; 09, R252; 22, R401 to R406): what ending a task reads
and leaves, what freezing a master leaves, then O40. -/

namespace Sys2Proof.Machine
open Claims

/-! ## Records -/

/-- A record fills its 64 bytes (R401). -/
theorem State.faultRec_length (s : State) (t : Task) (attempt segno : Nat) (f : Flt) (sev : Nat) :
    (s.faultRec t attempt segno f sev).length = 64 := by
  simp only [State.faultRec, List.length_append, leBytes_length]

/-- The state with more records queued for their rings. -/
def State.posts (s : State) (rs : List Rec) : State := { s with recQ := s.recQ ++ rs }

theorem State.posts_nil (s : State) : s.posts [] = s := congrArg (fun rs => { s with recQ := rs }) (List.append_nil _)

theorem State.posts_posts (s : State) (as bs : List Rec) : (s.posts as).posts bs = s.posts (as ++ bs) :=
  congrArg (fun rs => { s with recQ := rs }) (List.append_assoc ..)

/-- One record for each entry that has something to record; what a record says does not depend on those before it. -/
theorem foldl_posts {α β : Type} {g : State → α → State} {o : α → Option β} {r : State → β → Rec}
    (hg : ∀ s e, g s e = (o e).elim s fun f => s.posts [r s f]) (hr : ∀ s rs f, r (State.posts s rs) f = r s f)
    (l : List α) (s : State) : l.foldl g s = s.posts ((l.filterMap o).map (r s)) := by
  induction l generalizing s with
  | nil => exact s.posts_nil.symm
  | cons e l ih =>
    rw [List.foldl_cons, ih, hg]
    cases he : o e with
    | none => rw [List.filterMap_cons_none he]; rfl
    | some f =>
      have hrec : r (s.posts [r s f]) = r s := funext fun f' => hr s _ f'
      rw [List.filterMap_cons_some he, List.map_cons, Option.elim_some, hrec, State.posts_posts, List.singleton_append]

/-- The freezes that words of a task hold. -/
def State.freezesOf (s : State) (k : Nat) : List Flt :=
  s.xwords.filterMap fun e => if e.2.task = k then e.2.held.filter Flt.stays else none

/-- The record of a freeze of a task that ends by another fault (R402, log 76). -/
def State.freezeRec (s : State) (k : Nat) (f : Flt) : Rec := ⟨.fault (s.launch (s.task k).lid).fn, s.taskRec k f 2⟩

theorem State.filterMap_held_eq_freezesOf (s : State) (k : Nat) {p : Nat × XWord → Bool}
    (hp : ∀ e, p e = (decide (e.2.task = k) && e.2.held.any Flt.stays)) :
    (s.xwords.filter p).filterMap (fun e => e.2.held) = s.freezesOf k := by
  rw [List.filterMap_filter]
  refine List.filterMap_congr fun e _ => ?_
  rw [hp]
  by_cases hk : e.2.task = k <;> cases e.2.held <;> simp [hk, Option.filter]

/-- Freezes held are recorded (R402) and spent: of the rest of the state only the words change. -/
theorem State.heldRecords_eq (s : State) (k : Nat) :
    ∃ ws, s.heldRecords k = { s.posts ((s.freezesOf k).map (s.freezeRec k)) with xwords := ws } := by
  unfold State.heldRecords
  dsimp only
  rw [foldl_posts (o := fun e => e.2.held) (r := fun q f => ⟨.fault (q.launch (s.task k).lid).fn, q.taskRec k f 2⟩)
    (fun q e => by cases e.2.held <;> rfl) (fun _ _ _ => rfl), s.filterMap_held_eq_freezesOf k fun e => by cases e.2.held <;> rfl]
  exact ⟨_, rfl⟩

/-! ## A task alone on its unit ends -/

/-- Words not issued after all are words alone (R113). -/
theorem State.dropIssued_eq (s : State) (u c : Nat) (cut : Bool) :
    s.dropIssued u c cut = { s with xwords := (s.dropIssued u c cut).xwords, xin := (s.dropIssued u c cut).xin } := by
  unfold State.dropIssued
  dsimp only
  split <;> rfl

theorem sameTasks_dropIssued (s : State) (u c : Nat) (cut : Bool) : SameTasks s (s.dropIssued u c cut) := by
  rw [s.dropIssued_eq]
  exact ⟨rfl, rfl⟩

theorem State.dropIssued_recQ (s : State) (u c : Nat) (cut : Bool) : (s.dropIssued u c cut).recQ = s.recQ := by
  rw [s.dropIssued_eq]

theorem State.dropIssued_frozen (s : State) (u c : Nat) (cut : Bool) : (s.dropIssued u c cut).frozen = s.frozen := by
  rw [s.dropIssued_eq]

theorem State.dropIssued_freezeRec (s : State) (u c : Nat) (cut : Bool) (k : Nat) :
    (s.dropIssued u c cut).freezeRec k = s.freezeRec k := by
  rw [s.dropIssued_eq]
  rfl

/-- The charge for the cycles held is a matter of the unit and of the functions' times (R302). -/
theorem State.charge_eq (s : State) (u : Nat) :
    s.charge u = { s with units := (s.charge u).units, fns := (s.charge u).fns, frees := (s.charge u).frees } := by
  unfold State.charge
  split
  · rfl
  · dsimp only
    split <;> rfl

/-- The unit has nothing more to be charged for. -/
theorem State.charge_unit (s : State) (u : Nat) (h : (s.unit u).seg.stopped = true) :
    (s.charge u).unit u = { s.unit u with owes := none } := by
  unfold State.charge
  split
  case h_1 hn => rw [← hn]
  case h_2 =>
    have hne : { s.unit u with owes := none } ≠ (default : Unit) := fun e =>
      Bool.noConfusion (h.symm.trans (congrArg (·.seg.stopped) e))
    dsimp only
    split
    all_goals exact Tab.get_put_of_ne s.units u _ hne

/-- No unit is changed, no record made, no master frozen. -/
def SameUnits (s t : State) : Prop := t.units = s.units ∧ t.recQ = s.recQ ∧ t.frozen = s.frozen

theorem sameUnits_giveBack (s : State) (asid : Nat) (sc : BScope) (home base : Nat) :
    SameUnits s (s.giveBack asid sc home base) := by
  cases sc <;> exact ⟨rfl, rfl, rfl⟩

theorem sameUnits_freeBoxes (s : State) (k : Nat) : SameUnits s (s.freeBoxes k) := by
  unfold State.freeBoxes
  dsimp only
  generalize hq : List.foldl _ s _ = q
  suffices h : SameUnits s q from h
  rw [← hq]
  refine List.foldlRecOn _ _ (motive := SameUnits s) ⟨rfl, rfl, rfl⟩ fun t ⟨hu, hr, hf⟩ e _ => ?_
  split
  · exact ⟨hu, hr, hf⟩
  · obtain ⟨hu', hr', hf'⟩ := sameUnits_giveBack t (s.launch (s.task k).lid).asid e.2.scope e.2.home e.2.base
    exact ⟨hu'.trans hu, hr'.trans hr, hf'.trans hf⟩

/-- The unit a failed task leaves (R403). -/
def Unit.failed (x : Unit) (c : Nat) (cut : Bool) : Unit := { x.abort c cut with mode := .idle, task := none, real := none }

/-- A failed task off its unit, its words' freezes recorded and its counter additions dropped (R403). -/
def State.offFailed (s : State) (u k c : Nat) (cut : Bool) : State :=
  ((((s.dropIssued u c cut).heldRecords k).setUnit u ((s.unit u).failed c cut)).charge u).dropPending k none

section
variable (s : State) (u k c : Nat) (cut : Bool)

theorem sameTasks_offFailed : SameTasks s (s.offFailed u k c cut) := by
  have hwords : SameTasks s ((s.dropIssued u c cut).heldRecords k) :=
    (sameTasks_dropIssued s u c cut).trans (sameTasks_heldRecords _ k)
  have hcharged := sameTasks_charge (((s.dropIssued u c cut).heldRecords k).setUnit u ((s.unit u).failed c cut)) u
  exact hwords.trans hcharged

theorem State.offFailed_recQ :
    (s.offFailed u k c cut).recQ = s.recQ ++ ((s.dropIssued u c cut).freezesOf k).map (s.freezeRec k) := by
  obtain ⟨ws, hws⟩ := (s.dropIssued u c cut).heldRecords_eq k
  unfold State.offFailed
  rw [State.charge_eq, hws, ← s.dropIssued_freezeRec u c cut k, ← s.dropIssued_recQ u c cut]
  rfl

theorem State.offFailed_frozen : (s.offFailed u k c cut).frozen = s.frozen := by
  obtain ⟨ws, hws⟩ := (s.dropIssued u c cut).heldRecords_eq k
  unfold State.offFailed
  rw [State.charge_eq, hws, ← s.dropIssued_frozen u c cut]
  rfl

theorem State.offFailed_unit : (s.offFailed u k c cut).unit u = { (s.unit u).failed c cut with owes := none } := by
  have hset : (((s.dropIssued u c cut).heldRecords k).setUnit u ((s.unit u).failed c cut)).unit u = (s.unit u).failed c cut :=
    Tab.get_put_of_ne _ u _ fun e => Bool.noConfusion (congrArg (·.seg.stopped) e : true = false)
  show ((((s.dropIssued u c cut).heldRecords k).setUnit u ((s.unit u).failed c cut)).charge u).unit u = _
  rw [State.charge_unit _ u (by rw [hset]; rfl), hset]

end

/-- The space of a task is given back at its end, which comes at once unless it has children (R403). -/
def State.freeChildless (s : State) (k : Nat) : State := if (s.task k).group.isEmpty then s.freeBoxes k else s

theorem sameUnits_freeChildless (s : State) (k : Nat) : SameUnits s (s.freeChildless k) := by
  unfold State.freeChildless
  split
  · exact sameUnits_freeBoxes s k
  · exact ⟨rfl, rfl, rfl⟩

theorem State.freeChildless_group (s : State) {k : Nat} (hst : (s.task k).st ≠ .none) :
    ((s.freeChildless k).task k).group = (s.task k).group := by
  unfold State.freeChildless
  split
  · exact s.freeBoxes_group hst
  · rfl

/-- A task ended as failed: off its unit, its space given back, its entry closed. -/
theorem State.failOne_eq {s : State} {u k : Nat} (hk : (s.unit u).task = some k) (c : Nat) (cut : Bool) (how : TEndK) (l : Label) :
    ∃ g : Task → Task, (∀ t, (g t).st = (if t.group = [] then .done else .joining) ∧ (g t).unit = none ∧ (g t).how = how
        ∧ (g t).args = [])
      ∧ s.failOne u c cut how l = ((s.offFailed u k c cut).freeChildless k).modTask k g := by
  unfold State.failOne
  simp only [hk]
  exact ⟨_, fun t => ⟨by simp only [List.isEmpty_iff], rfl, rfl, rfl⟩, rfl⟩

section
variable {s : State} {u k : Nat} (hk : (s.unit u).task = some k) (c : Nat) (cut : Bool) (f : Flt) (l : Label)
include hk

theorem State.failOne_gone (hst : (s.task k).st ≠ .none) : gone s (s.failOne u c cut (.fault f.code f.sub) l) u k f := by
  obtain ⟨g, hg, ht⟩ := State.failOne_eq hk c cut (.fault f.code f.sub) l
  have hoff : (s.offFailed u k c cut).task k = s.task k := (sameTasks_offFailed s u k c cut).task k
  generalize hq : (s.offFailed u k c cut).freeChildless k = q at ht
  obtain ⟨hgst, hgunit, hghow, hgargs⟩ := hg (q.task k)
  have hgroup : (q.task k).group = (s.task k).group := by
    rw [← hq, State.freeChildless_group _ (by rw [hoff]; exact hst), hoff]
  have htask : (q.modTask k g).task k = g (q.task k) := by
    refine q.task_modTask_self k g ?_
    rw [hgst]
    split <;> exact TState.noConfusion
  have hunit : (q.modTask k g).unit u = { (s.unit u).failed c cut with owes := none } := by
    rw [← s.offFailed_unit u k c cut, ← hq]
    exact congrArg (Tab.get · u) (sameUnits_freeChildless (s.offFailed u k c cut) k).1
  rw [ht, gone, hunit, htask]
  exact ⟨rfl, rfl, hgunit, hghow, hgargs, by rw [hgst, hgroup]⟩

/-- The only records are those of freezes that the task's words hold (R402), and no master is frozen. -/
theorem State.failOne_records (how : TEndK) :
    (s.failOne u c cut how l).recQ = s.recQ ++ ((s.dropIssued u c cut).freezesOf k).map (s.freezeRec k)
      ∧ (s.failOne u c cut how l).frozen = s.frozen := by
  obtain ⟨g, -, ht⟩ := State.failOne_eq hk c cut how l
  obtain ⟨-, hrecQ, hfrozen⟩ := sameUnits_freeChildless (s.offFailed u k c cut) k
  rw [ht, ← s.offFailed_recQ u k c cut, ← s.offFailed_frozen u k c cut]
  exact ⟨hrecQ, hfrozen⟩

end

/-! ## What the end of a task reads -/

/-- Task `k` and all that its end and the records of that end are made of are as they were; unit `u` may have changed its mode and
its place in the program. -/
structure StillRuns (s t : State) (u k : Nat) : Prop where
  task : t.task k = s.task k
  unit : ∃ m p, t.unit u = { s.unit u with mode := m, pc := p }
  xwords : t.xwords = s.xwords
  launches : t.launches = s.launches
  devtime : t.devtime = s.devtime
  recQ : t.recQ = s.recQ

theorem StillRuns.refl (s : State) (u k : Nat) : StillRuns s s u k := ⟨rfl, ⟨_, _, rfl⟩, rfl, rfl, rfl, rfl⟩

section
variable {s t r : State} {u k : Nat}

theorem StillRuns.trans (h : StillRuns s t u k) (h' : StillRuns t r u k) : StillRuns s r u k where
  task := h'.task.trans h.task
  unit := by
    obtain ⟨m, p, h⟩ := h.unit
    obtain ⟨m', p', h'⟩ := h'.unit
    exact ⟨m', p', by rw [h', h]⟩
  xwords := h'.xwords.trans h.xwords
  launches := h'.launches.trans h.launches
  devtime := h'.devtime.trans h.devtime
  recQ := h'.recQ.trans h.recQ

theorem StillRuns.runs1 (h : StillRuns s t u k) (hr : runs1 s k u) : runs1 t k u := by
  obtain ⟨m, p, hu⟩ := h.unit
  obtain ⟨hku, huk, hg⟩ := hr
  exact ⟨by rw [h.task, hku], by rw [hu]; exact huk, by rw [h.task, hg]⟩

/-- Which words of a unit have not issued depends on the words and on what issues and runs there. -/
theorem State.dropIssued_freezesOf_congr (hw : t.xwords = s.xwords) (hu : ∃ m p, t.unit u = { s.unit u with mode := m, pc := p })
    (c : Nat) (cut : Bool) : (t.dropIssued u c cut).freezesOf k = (s.dropIssued u c cut).freezesOf k := by
  obtain ⟨m, p, hu⟩ := hu
  have hwords : (t.dropIssued u c cut).xwords = (s.dropIssued u c cut).xwords := by
    unfold State.dropIssued
    simp only [hu, hw]
    split
    · rfl
    · exact hw
  rw [State.freezesOf, State.freezesOf, hwords]

theorem State.standsIn_alone (hr : runs1 s k u) : s.standsIn k = ((s.unit u).vol.attempt, (s.unit u).seg.segno) := by
  obtain ⟨hku, huk, -⟩ := hr
  simp only [State.standsIn, hku, huk, if_true]

theorem State.fnOf_alone (hr : runs1 s k u) : s.fnOf u = (s.launch (s.task k).lid).fn := by
  rw [State.fnOf, State.launchOf, State.taskOf_alone hr]

theorem State.freezeRec_alone (hr : runs1 s k u) (f : Flt) : s.freezeRec k f =
    ⟨.fault (s.fnOf u), s.faultRec (s.task k) (s.unit u).vol.attempt (s.unit u).seg.segno f 2⟩ := by
  rw [State.freezeRec, State.taskRec, State.standsIn_alone hr, State.fnOf_alone hr]

theorem StillRuns.freezeRec (h : StillRuns s t u k) (hr : Claims.runs1 s k u) : t.freezeRec k = s.freezeRec k := by
  obtain ⟨m, p, hu⟩ := h.unit
  have hstands : t.standsIn k = s.standsIn k := by
    rw [State.standsIn_alone hr, State.standsIn_alone (h.runs1 hr), hu]
  funext f
  unfold State.freezeRec State.taskRec State.faultRec State.launch
  rw [hstands, h.task, h.launches, h.devtime]

end

/-! ## One record, then the end -/

/-- The state with the record of a fault (R402). -/
def State.recorded (s : State) (u : Nat) (f : Flt) (sev : Nat) : State := s.posts [⟨.fault (s.fnOf u), faultRecord s u f sev⟩]

/-- A task that ends after its record, with nothing of it changed between. -/
theorem StillRuns.ends {s q : State} {u k : Nat} {f : Flt} {sev : Nat} (h : StillRuns (s.recorded u f sev) q u k)
    (hr : Claims.runs1 s k u) (hst : (s.task k).st ≠ .none) (cut : Bool) :
    let t := q.failOne u (s.unit u).iss.cyc cut (.fault f.code f.sub) f.lab
    recordedEnd s t u k f cut sev ∧ gone s t u k f ∧ t.frozen = q.frozen := by
  intro t
  have hpost : Claims.runs1 (s.recorded u f sev) k u := hr
  have htask : q.task k = s.task k := h.task
  obtain ⟨-, huk, -⟩ := h.runs1 hpost
  obtain ⟨hrecQ, hfrozen⟩ := State.failOne_records huk (s.unit u).iss.cyc cut f.lab (.fault f.code f.sub)
  have hgone := State.failOne_gone huk (s.unit u).iss.cyc cut f f.lab (by rw [htask]; exact hst)
  refine ⟨?_, ?_, hfrozen⟩
  · have hfreezes := State.dropIssued_freezesOf_congr (s := s) (k := k) h.xwords h.unit (s.unit u).iss.cyc cut
    have hrecs : q.freezeRec k = fun g =>
        ⟨.fault (s.fnOf u), s.faultRec (s.task k) (s.unit u).vol.attempt (s.unit u).seg.segno g 2⟩ :=
      (h.freezeRec hpost).trans (funext fun g => State.freezeRec_alone hr g)
    rw [hfreezes, hrecs, h.recQ] at hrecQ
    exact hrecQ
  · rw [gone, htask] at hgone
    exact hgone

section
variable {s : State} {u k : Nat}

theorem State.endGang_alone (hr : runs1 s k u) (c : Nat) (cut : Bool) (how : TEndK) (l : Label) :
    s.endGang k c cut how l = s.failOne u c cut how l := by
  obtain ⟨hku, huk, hg⟩ := hr
  simp only [State.endGang, State.gangTasks_alone hg, List.filter_cons, List.filter_nil, ne_eq, not_true_eq_false, decide_false,
    Bool.false_eq_true, if_false, List.foldl_cons, List.foldl_nil, State.endTask, hku, huk, if_true]

end

/-! ## Freezing a master -/

section
variable {s : State} {u k : Nat}

theorem StillRuns.gain (s : State) (u k j : Nat) : StillRuns s (s.gain j) u k := by
  unfold State.gain
  dsimp only
  split
  · exact .refl s u k
  · exact ⟨rfl, ⟨_, _, rfl⟩, rfl, rfl, rfl, rfl⟩

theorem StillRuns.modTask_ne (s : State) (u : Nat) {k j : Nat} (h : k ≠ j) (g : Task → Task) : StillRuns s (s.modTask j g) u k :=
  ⟨s.task_modTask_ne g h, ⟨_, _, rfl⟩, rfl, rfl, rfl, rfl⟩

/-- A running task does not go back to be placed elsewhere (R406). -/
theorem StillRuns.unprepare (hst : (s.task k).st = .running) (u : Nat) (ks : List Nat) : StillRuns s (s.unprepare ks) u k := by
  refine List.foldlRecOn ks _ (motive := fun t => StillRuns s t u k) (.refl s u k) fun t ht j _ => ?_
  have hrun : (t.task k).st = .running := by rw [ht.task, hst]
  split
  case isFalse => exact ht
  case isTrue hj =>
    have hkj : k ≠ j := by
      rintro rfl
      simp [hrun] at hj
    refine ht.trans ?_
    split
    · exact (StillRuns.gain t u k j).trans (.modTask_ne _ u hkj _)
    · exact .modTask_ne t u hkj _

/-- A unit with a task is listed, so that a change of mode and place is all that is seen of such a change of any unit. -/
theorem StillRuns.modUnit_modePc (hk : (s.unit u).task = some k) {f : Unit → Unit}
    (hf : ∀ x, ∃ m p, f x = { x with mode := m, pc := p }) (v : Nat) : StillRuns s (s.modUnit v f) u k := by
  refine ⟨rfl, ?_, rfl, rfl, rfl, rfl⟩
  by_cases huv : u = v
  · subst huv
    obtain ⟨m, p, hx⟩ := hf (s.unit u)
    have hne : f (s.unit u) ≠ default := fun e =>
      Option.some_ne_none k (hk.symm.trans (congrArg Unit.task (hx.symm.trans e)))
    exact ⟨m, p, (Tab.get_put_of_ne s.units u _ hne).trans hx⟩
  · exact ⟨_, _, s.unit_setUnit_ne v u _ huv⟩

/-- The accesses that a frozen sequencer drops change the mode of a unit at most. -/
theorem StillRuns.dropSeq (hk : (s.unit u).task = some k) (v a : Nat) : StillRuns s (s.dropSeq v a) u k := by
  unfold State.dropSeq
  dsimp only
  split
  case isFalse => exact ⟨rfl, ⟨_, _, rfl⟩, rfl, rfl, rfl, rfl⟩
  case isTrue =>
    refine StillRuns.trans ?_ (.modUnit_modePc ?_ (fun x => ?_) v)
    · exact ⟨rfl, ⟨_, _, rfl⟩, rfl, rfl, rfl, rfl⟩
    · exact hk
    · split <;> exact ⟨_, _, rfl⟩

theorem State.frozen_dropSeq (s : State) (v a : Nat) : (s.dropSeq v a).frozen = s.frozen := by
  unfold State.dropSeq
  dsimp only
  split <;> rfl

/-- A running task and its unit are not touched when a master is frozen. -/
theorem StillRuns.freeze (hst : (s.task k).st = .running) (hk : (s.unit u).task = some k) (m : Master) :
    StillRuns s (s.freeze m) u k := by
  have hfrozen : StillRuns s { s with frozen := s.frozen ++ [m] } u k := ⟨rfl, ⟨_, _, rfl⟩, rfl, rfl, rfl, rfl⟩
  have hback (ks : List Nat) : StillRuns s (State.unprepare { s with frozen := s.frozen ++ [m] } ks) u k :=
    hfrozen.trans (.unprepare (s := { s with frozen := s.frozen ++ [m] }) hst u ks)
  unfold State.freeze
  split
  case isTrue => exact .refl s u k
  case isFalse =>
    cases m
    case core c a => exact hback _
    case seq q a =>
      refine (hback _).trans (.dropSeq ?_ _ _)
      obtain ⟨m, p, hu⟩ := (hback _).unit
      rw [hu, hk]
    all_goals exact hfrozen

theorem State.mem_frozen_freeze_masterOf (s : State) (u a : Nat) : masterOf u a ∈ (s.freeze (masterOf u a)).frozen := by
  unfold masterOf
  split
  case isTrue => exact s.mem_frozen_freeze_core u a
  case isFalse =>
    unfold State.freeze
    split
    case isTrue h => exact List.contains_iff_mem.mp h
    case isFalse =>
      rw [State.frozen_dropSeq, State.frozen_unprepare]
      exact List.mem_append_right _ (List.mem_singleton.mpr rfl)

end

/-! ## The operation that takes a fault -/

theorem faultOut_of_mem_failCodes : ∀ c ∈ failCodes, c ≠ fSegmentCheck ∧ faultOut c = .fail := by decide

section
variable {s : State} {k u : Nat} {f : Flt} (hr : runs1 s k u) (cut : Bool)
include hr

theorem State.gangAttempt_alone (hm : ∀ e, (s.unit u).mode ≠ .tending e) : s.gangAttempt u = (s.unit u).vol.attempt := by
  rw [State.gangAttempt, State.gangLive_alone hr hm]
  exact Nat.max_self _

/-- Outcome F, and outcome K after the third attempt (R403): the record, then the end. -/
theorem State.raise_fail (hseg : f.code ≠ fSegmentCheck)
    (hout : faultOut f.code = .fail ∨ faultOut f.code = .cancel ∧ f.code ≠ fCancel ∧ ¬ s.gangAttempt u < 2) :
    s.raise u f cut = (s.recorded u f 1).failOne u (s.unit u).iss.cyc cut (.fault f.code f.sub) f.lab := by
  have hpost : runs1 (s.recorded u f 1) k u := hr
  rw [← State.endGang_alone hpost]
  obtain ⟨-, huk, -⟩ := hr
  unfold State.raise
  rcases hout with hout | ⟨hout, hcode, hattempt⟩
  · simp only [hseg, hout, huk, if_false]
    rfl
  · simp only [hseg, hout, hcode, hattempt, huk, if_false]
    rfl

/-- Outcome Z (R403): the record, of severity 2, the master frozen, then the end. -/
theorem State.raise_freeze (hst : (s.task k).st = .running) (hseg : f.code ≠ fSegmentCheck) (hout : faultOut f.code = .freeze) :
    s.raise u f cut = ((s.recorded u f 2).freeze (masterOf u (s.asidOf u))).failOne u (s.unit u).iss.cyc cut
      (.fault f.code f.sub) f.lab := by
  have hpost : runs1 (s.recorded u f 2) k u := hr
  obtain ⟨-, huk, -⟩ := hr
  have hfrozen := StillRuns.freeze (s := s.recorded u f 2) hst huk (masterOf u (s.asidOf u))
  rw [← State.endGang_alone (hfrozen.runs1 hpost)]
  unfold State.raise
  simp only [hseg, hout, huk, if_false, if_true]
  rfl

/-- The cancel of a phase of a task of no gang is that of its unit (R252). -/
theorem State.cancelGang_alone (hm : ∀ e, (s.unit u).mode ≠ .tending e) (c : Nat) :
    s.cancelGang u c cut = (s.modUnit u id).cancelOne u c cut := by
  rw [State.cancelGang, State.gangLive_alone hr hm, State.gangAttempt_alone hr hm]
  rfl

end

/-- The restore of a unit in the middle of its phase begins (R252): the task and the unit's volatile state stay, nothing is
recorded. -/
theorem State.cancelOne_inPhase {s : State} {u : Nat}
    (hm : (s.unit u).mode = .seg ∨ (s.unit u).mode = .code ∨ (s.unit u).mode = .sync) (c : Nat) (cut : Bool) :
    let t := s.cancelOne u c cut
    t.recQ = s.recQ ∧ t.tasks = s.tasks ∧ t.unit u = { (s.unit u).abort c cut with mode := .restoring } := by
  have hstored : ((s.dropIssued u c cut).setUnit u { (s.unit u).abort c cut with mode := .restoring }).unit u =
      { (s.unit u).abort c cut with mode := .restoring } := State.unit_setUnit_self _ u _ UMode.noConfusion
  obtain ⟨htasks, -⟩ := sameTasks_dropIssued s u c cut
  have hrecQ := s.dropIssued_recQ u c cut
  unfold State.cancelOne
  rcases hm with hm | hm | hm
  all_goals
    simp only [hm, Bool.false_eq_true, if_false]
    split <;> exact ⟨hrecQ, htasks, hstored⟩

/-- BREAK (R404): the record, and the unit held. -/
theorem State.raise_break {s : State} {u : Nat} {f : Flt} (hc : f.code = 0x11) (cut : Bool) : s.raise u f cut =
    (s.recorded u f 0).modUnit u fun x => { x.abort (s.unit u).iss.cyc cut with mode := .held } := by
  have hseg : f.code ≠ fSegmentCheck := by rw [hc]; decide
  have hout : faultOut f.code = .note := by rw [hc]; rfl
  unfold State.raise
  simp only [hseg, hout, if_false]
  exact if_pos hc

/-- A miss before the third attempt leaves no record and no change in the task table (R252, R402). -/
theorem State.raise_miss_leaves {s : State} {k u : Nat} {f : Flt} (hr : runs1 s k u) (hm : ∀ e, (s.unit u).mode ≠ .tending e)
    (hphase : (s.unit u).mode = .seg ∨ (s.unit u).mode = .code ∨ (s.unit u).mode = .sync) (hc : f.code = 0x03)
    (ha : (s.unit u).vol.attempt < 2) (cut : Bool) :
    let t := s.raise u f cut
    t.recQ = s.recQ ∧ (t.unit u).mode = .restoring ∧ (t.unit u).task = some k ∧ (t.unit u).vol = (s.unit u).vol
      ∧ t.tasks = s.tasks := by
  have hseg : f.code ≠ fSegmentCheck := by rw [hc]; decide
  have hout : faultOut f.code = .cancel := by rw [hc]; rfl
  have hattempt : s.gangAttempt u < 2 := by rwa [State.gangAttempt_alone hr hm]
  have hraise : s.raise u f cut = (s.modUnit u id).cancelOne u (s.unit u).iss.cyc cut := by
    rw [← State.cancelGang_alone hr cut hm]
    unfold State.raise
    simp only [hseg, hout, hattempt, if_false, if_true]
  obtain ⟨-, huk, -⟩ := hr
  have hsame : (s.modUnit u id).unit u = s.unit u := State.unit_modUnit_self s u id <| by
    rcases hphase with h | h | h <;> rw [id, h] <;> exact UMode.noConfusion
  obtain ⟨hrecQ, htasks, hunit⟩ := State.cancelOne_inPhase (s := s.modUnit u id) (by rwa [hsame]) (s.unit u).iss.cyc cut
  rw [hsame] at hunit
  intro t
  have ht : t = _ := hraise
  rw [ht, hunit]
  exact ⟨hrecQ, rfl, huk, rfl, htasks⟩

/-- Settles O40: each outcome as `State.raise` comes to it for a task of no gang. That freezes still held by the words have their
records (log 76) and that a task with an open group waits for its children (log 63) are the model's choices. -/
theorem faultOutcomes : Obligations.FaultOutcomes := by
  intro s u k f cut huk hg hku hst hm t x
  have hr : runs1 s k u := ⟨hku, huk, hg⟩
  have hne : (s.task k).st ≠ .none := by rw [hst]; exact TState.noConfusion
  have hfail (hraise : t = (s.recorded u f 1).failOne u (s.unit u).iss.cyc cut (.fault f.code f.sub) f.lab) :
      recordedEnd s t u k f cut 1 ∧ gone s t u k f ∧ t.frozen = s.frozen := by
    rw [hraise]
    exact (StillRuns.refl (s.recorded u f 1) u k).ends hr hne cut
  refine ⟨fun hc => ?fail, fun hc => ?freeze, fun hc ha hp => ?miss, fun hc ha => ?last, fun hc => ?hold, fun sev => ?length⟩
  case fail =>
    obtain ⟨hseg, hout⟩ := faultOut_of_mem_failCodes f.code hc
    exact hfail (State.raise_fail hr cut hseg (.inl hout))
  case freeze =>
    have hseg : f.code ≠ fSegmentCheck := by rcases hc with hc | hc <;> rw [hc] <;> decide
    have hout : faultOut f.code = .freeze := by rcases hc with hc | hc <;> rw [hc] <;> rfl
    have hraise : t = _ := State.raise_freeze hr cut hst hseg hout
    have hfrozen := StillRuns.freeze (s := s.recorded u f 2) hst huk (masterOf u (s.asidOf u))
    obtain ⟨hrec, hgone, hkept⟩ := hfrozen.ends hr hne cut
    rw [hraise]
    exact ⟨hrec, hgone, by rw [hkept]; exact State.mem_frozen_freeze_masterOf _ u _⟩
  case miss =>
    exact State.raise_miss_leaves hr hm hp hc ha cut
  case last =>
    have hattempt : ¬ s.gangAttempt u < 2 := by rw [State.gangAttempt_alone hr hm]; exact Nat.not_lt.mpr ha
    have hout : faultOut f.code = .cancel := by rw [hc]; rfl
    obtain ⟨hrec, hgone, -⟩ := hfail (State.raise_fail hr cut (by rw [hc]; decide) (.inr ⟨hout, by rw [hc]; decide, hattempt⟩))
    exact ⟨hrec, hgone⟩
  case hold =>
    have hraise : t = _ := State.raise_break hc cut
    have hunit : t.unit u = { (s.unit u).abort (s.unit u).iss.cyc cut with mode := .held } := by
      rw [hraise]
      exact State.unit_modUnit_self _ u _ UMode.noConfusion
    rw [recorded1, hunit, hraise]
    exact ⟨rfl, rfl, huk, rfl⟩
  case length => exact s.faultRec_length ..

end Sys2Proof.Machine
end

section

/-! Writes of memory (spec 10, R266, R268; 17, R314, R316; 21, R397, R398): a sector written at its controller, a run of bytes
sector by sector, a page, a box, then O60. -/

namespace Sys2Proof.Machine
open Claims

/-! ## A run of bytes -/

theorem Mem.write_append (m : Mem) (a : Nat) (bs cs : List Byte) :
    Mem.write m a (bs ++ cs) = Mem.write (Mem.write m a bs) (a + bs.length) cs := by
  induction bs generalizing m a with
  | nil => rfl
  | cons b bs ih =>
    rw [List.cons_append, Mem.write, Mem.write, ih, List.length_cons, Nat.add_assoc, Nat.add_comm 1]

theorem wrote_write (m : Mem) (a : Nat) (bs : List Byte) : wrote m (Mem.write m a bs) a bs := by
  refine ⟨fun x hx => Mem.get_write_out m a x bs hx, fun hwf => ⟨Mem.write_wf m a bs hwf, fun i hi => ?_⟩⟩
  rw [Mem.get_write_in m a i bs hwf hi, ← List.getD_eq_getElem]

/-- A mask that names no bit stands for all of them. -/
@[simp] theorem overlay_nil (old new : List Byte) : overlay old new [] = new := rfl

/-! ## A sector at its controller -/

/-- The memories, their failing cells and the units are the same. -/
structure SameMemories (s t : State) : Prop where
  dev : t.dev = s.dev
  cells : t.cells = s.cells
  hostMem : t.hostMem = s.hostMem
  peerMem : t.peerMem = s.peerMem
  units : t.units = s.units

theorem SameMemories.refl (s : State) : SameMemories s s := ⟨rfl, rfl, rfl, rfl, rfl⟩

theorem SameMemories.ite {c : Prop} [Decidable c] {s t r : State} (ht : SameMemories s t) (hr : SameMemories s r) :
    SameMemories s (if c then t else r) := by
  split
  · exact ht
  · exact hr

theorem SameMemories.post (s : State) (r : RingId) (d : List Byte) : SameMemories s (s.post r d) := ⟨rfl, rfl, rfl, rfl, rfl⟩

theorem SameMemories.rouse (s : State) (sec : Nat) : SameMemories s (s.rouse sec) := .ite ⟨rfl, rfl, rfl, rfl, rfl⟩ (.refl s)

theorem SameMemories.unDrop (s : State) (die line0 line1 : Nat) : SameMemories s (s.unDrop die line0 line1) :=
  ⟨rfl, rfl, rfl, rfl, rfl⟩

theorem State.renew_dev_congr {s t : State} (h : SameMemories s t) (sec : Nat) (w : List Nat) :
    (t.renew sec w).dev = (s.renew sec w).dev := by
  simp only [State.renew, h.dev, h.cells]

theorem State.renew_dev_of_no_cells {s : State} (h : s.cells = []) (sec : Nat) (w : List Nat) :
    (s.renew sec w).dev = s.dev := by
  simp [State.renew, h]

theorem State.renew_cells_of_no_cells {s : State} (h : s.cells = []) (sec : Nat) (w : List Nat) :
    (s.renew sec w).cells = [] := by
  simp [State.renew, h]

/-- A sector written back is the only one that may change. -/
theorem State.get_renew_dev_out (s : State) (sec x : Nat) (w : List Nat) (hx : x < sec ∨ sec + 64 ≤ x) :
    Tab.get (s.renew sec w).dev x = Tab.get s.dev x := by
  simp only [State.renew]
  split
  · rfl
  · refine Mem.get_write_out _ _ _ _ ?_
    simpa [flipBits, leBytes_length, Mem.bytes] using hx

/-- What a write of `bs` at byte `lo` of a sector makes of a state: the sector may have been written back before, with some bits
that stay wrong, and where no cells fail none come to; other memories and the units stay. -/
structure SectorWritten (s : State) (sec lo : Nat) (bs : List Byte) (t : State) : Prop where
  dev : ∃ w, t.dev = Mem.write (s.renew sec w).dev (sec + lo) bs
  cells : s.cells = [] → t.cells = []
  hostMem : t.hostMem = s.hostMem
  peerMem : t.peerMem = s.peerMem
  units : t.units = s.units

theorem SectorWritten.ite {c : Prop} [Decidable c] {s : State} {sec lo : Nat} {bs : List Byte} {t r : State}
    (ht : SectorWritten s sec lo bs t) (hr : SectorWritten s sec lo bs r) :
    SectorWritten s sec lo bs (if c then t else r) := by
  split
  · exact ht
  · exact hr

theorem SectorWritten.of_same {s r : State} {sec lo : Nat} {bs : List Byte} {t : State} (h : SameMemories s r)
    (ht : SectorWritten r sec lo bs t) : SectorWritten s sec lo bs t where
  dev := by
    obtain ⟨w, hw⟩ := ht.dev
    exact ⟨w, by rw [hw, State.renew_dev_congr h]⟩
  cells hs := ht.cells (h.cells.trans hs)
  hostMem := ht.hostMem.trans h.hostMem
  peerMem := ht.peerMem.trans h.peerMem
  units := ht.units.trans h.units

/-- R397, by its three cases: a whole sector, part of an intact one, and part of one that fails or is flagged. -/
theorem State.writeSector_written (s : State) (ctx : Ctx) (pr : Prot) (sec lo : Nat) (bs : List Byte) :
    SectorWritten s sec lo bs (s.writeSector ctx pr sec lo bs []) := by
  refine .of_same (.rouse s sec) ?_
  unfold State.writeSector
  dsimp only
  generalize s.rouse sec = r
  generalize examine pr.code sec (r.flips sec) pr.lines = e
  have hlog : SameMemories r (if e.corr = 0 then r else
      r.post .err (errRecord r ctx 0 0 0 (pcode pr.code) (e.corrC + 16) pr.pol sec e.corr)) := .ite (.refl r) (.post ..)
  generalize (if e.corr = 0 then r else
    r.post .err (errRecord r ctx 0 0 0 (pcode pr.code) (e.corrC + 16) pr.pol sec e.corr)) = logged at hlog ⊢
  refine .ite ?whole (.ite ?intact (.of_same hlog (.ite ?kept ?flagged)))
  case whole => exact ⟨⟨[], rfl⟩, fun h => by simp [h], rfl, rfl, rfl⟩
  case intact => exact ⟨⟨[], rfl⟩, id, rfl, rfl, rfl⟩
  case kept => exact ⟨⟨e.wrong, rfl⟩, fun h => State.renew_cells_of_no_cells h sec e.wrong, rfl, rfl, rfl⟩
  case flagged => exact ⟨⟨e.wrong, rfl⟩, fun h => State.renew_cells_of_no_cells h sec e.wrong, rfl, rfl, rfl⟩

/-! ## Bytes sector by sector -/

/-- What of a run from `a` falls in its first sector. -/
def inFirstSector (a : Nat) (bs : List Byte) : Nat := min bs.length (64 - (a - a / 64 * 64))

theorem State.writePhys_nil (s : State) (ctx : Ctx) (pr : Prot) (fuel a : Nat) : s.writePhys ctx pr fuel a [] [] = s := by
  cases fuel <;> rfl

theorem State.writePhys_succ (s : State) (ctx : Ctx) (pr : Prot) (fuel a : Nat) {bs : List Byte} (h : bs ≠ []) :
    s.writePhys ctx pr (fuel + 1) a bs [] =
      (s.writeSector ctx pr (a / 64 * 64) (a - a / 64 * 64) (bs.take (inFirstSector a bs)) []).writePhys ctx pr fuel
        (a + inFirstSector a bs) (bs.drop (inFirstSector a bs)) [] := by
  rw [State.writePhys, if_neg (by simpa using h)]
  simp only [List.take_nil, List.drop_nil, inFirstSector]

/-- The memories that are not the device's and the units stay. -/
theorem State.writePhys_frame (s : State) (ctx : Ctx) (pr : Prot) (fuel a : Nat) (bs : List Byte) :
    let t := s.writePhys ctx pr fuel a bs []
    t.hostMem = s.hostMem ∧ t.peerMem = s.peerMem ∧ t.units = s.units := by
  induction fuel generalizing s a bs with
  | zero => exact ⟨rfl, rfl, rfl⟩
  | succ fuel ih =>
    by_cases hbs : bs = []
    · rw [hbs, State.writePhys_nil]
      exact ⟨rfl, rfl, rfl⟩
    · have hsec := s.writeSector_written ctx pr (a / 64 * 64) (a - a / 64 * 64) (bs.take (inFirstSector a bs))
      rw [State.writePhys_succ s ctx pr fuel a hbs]
      obtain ⟨hhost, hpeer, hunits⟩ := ih (s.writeSector ctx pr (a / 64 * 64) (a - a / 64 * 64) (bs.take (inFirstSector a bs)) [])
        (a + inFirstSector a bs) (bs.drop (inFirstSector a bs))
      exact ⟨hhost.trans hsec.hostMem, hpeer.trans hsec.peerMem, hunits.trans hsec.units⟩

/-- Whatever cells fail, sectors that the run does not touch stay. -/
theorem State.get_writePhys_dev_out (s : State) (ctx : Ctx) (pr : Prot) (fuel a x : Nat) (bs : List Byte)
    (hx : x < a / 64 * 64 ∨ (a + bs.length + 63) / 64 * 64 ≤ x) :
    Tab.get (s.writePhys ctx pr fuel a bs []).dev x = Tab.get s.dev x := by
  induction fuel generalizing s a bs with
  | zero => rfl
  | succ fuel ih =>
    by_cases hbs : bs = []
    · rw [hbs, State.writePhys_nil]
    · have hlen : 0 < bs.length := List.length_pos_iff.mpr hbs
      have hfirst : inFirstSector a bs = min bs.length (64 - (a - a / 64 * 64)) := rfl
      obtain ⟨w, hw⟩ := (s.writeSector_written ctx pr (a / 64 * 64) (a - a / 64 * 64) (bs.take (inFirstSector a bs))).dev
      rw [State.writePhys_succ s ctx pr fuel a hbs, ih _ _ _ (by rw [List.length_drop]; omega), hw,
        Mem.get_write_out _ _ _ _ (by rw [List.length_take]; omega), State.get_renew_dev_out s _ _ _ (by omega)]

/-- Where no cells fail, device memory takes the bytes and nothing else. -/
theorem State.writePhys_dev_of_no_cells (s : State) (ctx : Ctx) (pr : Prot) (fuel a : Nat) (bs : List Byte) (hs : s.cells = [])
    (hfuel : bs.length ≤ 64 * fuel - a % 64) :
    (s.writePhys ctx pr fuel a bs []).dev = Mem.write s.dev a bs := by
  induction fuel generalizing s a bs with
  | zero =>
    obtain rfl : bs = [] := List.length_eq_zero_iff.mp (by omega)
    rfl
  | succ fuel ih =>
    by_cases hbs : bs = []
    · rw [hbs, State.writePhys_nil]
      rfl
    · have hfirst : inFirstSector a bs = min bs.length (64 - (a - a / 64 * 64)) := rfl
      have hsec := s.writeSector_written ctx pr (a / 64 * 64) (a - a / 64 * 64) (bs.take (inFirstSector a bs))
      obtain ⟨w, hw⟩ := hsec.dev
      have htake : (bs.take (inFirstSector a bs)).length = inFirstSector a bs := by rw [List.length_take]; omega
      rw [State.writePhys_succ s ctx pr fuel a hbs, ih _ _ _ (hsec.cells hs) (by rw [List.length_drop]; omega), hw,
        State.renew_dev_of_no_cells hs, show a / 64 * 64 + (a - a / 64 * 64) = a by omega]
      calc Mem.write (Mem.write s.dev a (bs.take (inFirstSector a bs))) (a + inFirstSector a bs) (bs.drop (inFirstSector a bs))
          = Mem.write s.dev a (bs.take (inFirstSector a bs) ++ bs.drop (inFirstSector a bs)) := by
            rw [Mem.write_append, htake]
        _ = Mem.write s.dev a bs := by rw [List.take_append_drop]

/-! ## A page -/

/-- A page in device memory: the controller writes it, after the die's own copies of its lines are dropped (R327). -/
theorem State.writePage_device (s : State) (ctx : Ctx) {p : Pte} (page va : Nat) (bs : List Byte) (h1 : p.tgt ≠ 1)
    (h2 : p.tgt ≠ 2) : ∃ r pr, SameMemories s r ∧
      s.writePage ctx p page va bs = r.writePhys ctx pr (bs.length / 64 + 2) (p.addr + (va - page)) bs [] := by
  simp only [State.writePage, if_neg h1, if_neg h2]
  exact ⟨_, _, .unDrop .., rfl⟩

/-- A page in host memory. -/
theorem State.writePage_host (s : State) (ctx : Ctx) {p : Pte} (page va : Nat) (bs : List Byte) (h : p.tgt = 1) :
    let t := s.writePage ctx p page va bs
    t.hostMem = Mem.write s.hostMem (p.addr + (va - page)) bs ∧ t.dev = s.dev ∧ t.peerMem = s.peerMem ∧ t.units = s.units := by
  simp only [State.writePage, if_pos h]
  exact ⟨rfl, rfl, rfl, rfl⟩

/-- A page in a peer's memory. -/
theorem State.writePage_peer (s : State) (ctx : Ctx) {p : Pte} (page va : Nat) (bs : List Byte) (h : p.tgt = 2) :
    let t := s.writePage ctx p page va bs
    t.peerMem = s.peerMem.upd p.port (fun m => Mem.write m (p.addr + (va - page)) bs) ∧ t.dev = s.dev
      ∧ t.hostMem = s.hostMem ∧ t.units = s.units := by
  have h1 : p.tgt ≠ 1 := by omega
  simp only [State.writePage, if_neg h1, if_pos h]
  exact ⟨rfl, rfl, rfl, rfl⟩

/-! ## A box -/

theorem State.writeBox_clstore (s : State) (ctx : Ctx) (u : Nat) {b : Box} (l : Label) (a : Nat) (bs : List Byte)
    (h : b.scope = .clstore) :
    s.writeBox ctx u b l a bs = ({ s with clstore := s.clstore.upd b.home fun m => Mem.write m a bs }, none) := by
  simp only [State.writeBox, h, overlay_nil]

theorem State.writeBox_scratch (s : State) (ctx : Ctx) (u : Nat) {b : Box} (l : Label) (a : Nat) (bs : List Byte)
    (h : b.scope = .scratch) :
    s.writeBox ctx u b l a bs = (s.modUnit u fun x => { x with spad := Mem.write x.spad a bs }, none) := by
  simp only [State.writeBox, h, overlay_nil]

/-- Settles O60: a run of bytes, a page by the target it names, a box by the store it lies in. -/
theorem memoryWrites : Obligations.MemoryWrites := by
  refine ⟨wrote_write, fun s ctx u a b l bs => ⟨fun p page va => ⟨fun h1 h2 => ?device, s.writePage_host ctx page va bs,
    s.writePage_peer ctx page va bs⟩, s.writeBox_clstore ctx u l a bs, s.writeBox_scratch ctx u l a bs⟩⟩
  obtain ⟨r, pr, hr, hpage⟩ := s.writePage_device ctx page va bs h1 h2
  obtain ⟨hhost, hpeer, hunits⟩ := r.writePhys_frame ctx pr (bs.length / 64 + 2) (p.addr + (va - page)) bs
  rw [hpage, ← hr.dev]
  refine ⟨fun hs => ?_, fun x hx => ?_, hhost.trans hr.hostMem, hpeer.trans hr.peerMem, hunits.trans hr.units⟩
  · rw [r.writePhys_dev_of_no_cells ctx pr _ _ bs (hr.cells.trans hs) (by omega)]
    exact wrote_write ..
  · exact r.get_writePhys_dev_out ctx pr _ _ x bs hx

end Sys2Proof.Machine
end

section

/-! Children are prepared, return and join their parent (spec 08, R232; 15, R293 to R299): what makes a task READY and what
frees the entries of a group, then O43. -/

namespace Sys2Proof.Machine
open Claims

/-! ## READY -/

section
variable {s : State} {k : Nat} (hst : (s.task k).st = .preparing) (hg : (s.task k).gang = none)
include hst hg

/-- A task of no gang is READY as soon as its copies are made (R299). -/
theorem State.makeReady_alone : s.makeReady k =
    ((s.modTask k fun t => { t with ready := true }).gain k).modTask k fun t =>
      { t with st := .ready, start := s.frame.toNat - t.start } := by
  have hself : (s.modTask k fun t => { t with ready := true }).task k = { s.task k with ready := true } :=
    s.task_modTask_self k _ (by rw [hst]; exact TState.noConfusion)
  have halone : (s.modTask k fun t => { t with ready := true }).gangTasks k = [k] :=
    State.gangTasks_alone (by rw [hself]; exact hg)
  have hgang : ((((s.modTask k fun t => { t with ready := true }).gain k).modTask k fun t =>
      { t with st := .ready, start := s.frame.toNat - t.start }).task k).gang = none := by
    rw [State.task_modTask_self _ k _ TState.noConfusion, (sameTasks_gain ..).task, hself]
    exact hg
  unfold State.makeReady
  simp only [halone, List.all_cons, List.all_nil, hself, hst, decide_true, Bool.and_self, if_true, List.foldl_cons,
    List.foldl_nil, State.modTask_frame, hgang]

theorem State.makeReady_leaves : ((s.makeReady k).task k).st = .ready ∧ ∀ i, i ≠ k → (s.makeReady k).task i = s.task i := by
  rw [State.makeReady_alone hst hg]
  refine ⟨?_, fun i hi => ?_⟩
  · rw [State.task_modTask_self _ k _ TState.noConfusion]
  · rw [State.task_modTask_ne _ _ hi, (sameTasks_gain ..).task, State.task_modTask_ne _ _ hi]

end

section
variable {s t : State} {k u : Nat} (hst : (s.task k).st = .preparing) (hu : (s.task k).unit = some u)
  (hr : (s.task k).ready = false) (hstall : s.schedStalled k = false)
include hst hu hr hstall

theorem exec_childCopyInComplete_made (h : s.copyIn k = (t, none)) :
    exec (.childCopyInComplete k) s = .next (t.makeReady k) := by
  show execChildCopyInComplete k s = _
  simp only [execChildCopyInComplete, hst, hu, hr, hstall, h, Bool.or_self, Bool.false_eq_true, if_false]

theorem exec_childCopyInComplete_fault {code sub det va acc : Nat} (h : s.copyIn k = (t, some (.flt code sub det va, acc))) :
    exec (.childCopyInComplete k) s = .next (t.failPrepared k u (t.copyFlt k code sub det va (s.task k).lbl)) := by
  show execChildCopyInComplete k s = _
  simp only [execChildCopyInComplete, hst, hu, hr, hstall, h, Bool.or_self, Bool.false_eq_true, if_false]

end

/-! ## The outward copies -/

theorem exec_outwardCopyComplete_made {s t : State} {k : Nat} (hst : (s.task k).st = .returning)
    (hstall : s.schedStalled k = false) (h : s.outBoxes k ((s.task k).unit.getD 0) (s.task k).boxes = (t, none)) :
    exec (.outwardCopyComplete k) s =
      .next ((t.freeBoxes k).modTask k fun j => { j with st := .done, unit := none, how := .ok }) := by
  show execOutwardCopyComplete k s = _
  simp only [execOutwardCopyComplete, hst, hstall, h, Bool.false_eq_true, if_false]

/-! ## The entries of a group freed -/

/-- Entries kept or dropped by their keys, in any table. -/
theorem Tab.get_filter_key {α : Type} [Inhabited α] (t : Tab α) (p : Nat → Bool) (k : Nat) :
    Tab.get (t.filter fun e => p e.1) k = if p k then t.get k else default := by
  induction t with
  | nil => exact (ite_self _).symm
  | cons e r ih =>
    obtain ⟨k', v⟩ := e
    by_cases hk : k = k'
    · subst hk
      cases hp : p k <;> simp [Tab.get, hp, ih]
    · cases hp : p k' <;> simp [Tab.get, hp, hk, ih]

theorem State.giveBack_launches (s : State) (asid : Nat) (sc : BScope) (home base : Nat) :
    (s.giveBack asid sc home base).launches = s.launches := by
  cases sc <;> rfl

/-- The entry and nothing else of the table loses its staging areas; the launches stay. -/
theorem State.freeStages_leaves (s : State) (k : Nat) :
    (s.freeStages k).launches = s.launches ∧ ∀ i, i ≠ k → (s.freeStages k).task i = s.task i := by
  unfold State.freeStages
  dsimp only
  generalize hq : List.foldl _ s _ = q
  have hsame : SameTasks s q := hq ▸ .foldl (fun _ _ => sameTasks_giveBack ..) _ s
  refine ⟨?_, fun i hi => by rw [State.task_modTask_ne _ _ hi, hsame.task]⟩
  rw [State.modTask_launches, ← hq]
  exact List.foldlRecOn (motive := fun r : State => r.launches = s.launches) _ _ rfl fun _ hr _ _ =>
    (State.giveBack_launches ..).trans hr

theorem State.foldl_freeStages_leaves (s : State) (ks : List Nat) :
    (ks.foldl State.freeStages s).launches = s.launches ∧ ∀ i, i ∉ ks → (ks.foldl State.freeStages s).task i = s.task i := by
  induction ks generalizing s with
  | nil => exact ⟨rfl, fun _ _ => rfl⟩
  | cons k ks ih =>
    obtain ⟨hl, ht⟩ := s.freeStages_leaves k
    obtain ⟨hl', ht'⟩ := ih (s.freeStages k)
    refine ⟨hl'.trans hl, fun i hi => ?_⟩
    rw [List.mem_cons, not_or] at hi
    obtain ⟨hik, hiks⟩ := hi
    exact (ht' i hiks).trans (ht i hik)

theorem State.freeChildren_launches (s : State) (ks : List Nat) : (s.freeChildren ks).launches = s.launches :=
  (s.foldl_freeStages_leaves ks).1

/-- The children's entries are free, every other one as it was (R299). -/
theorem State.freeChildren_task (s : State) (ks : List Nat) (i : Nat) :
    (s.freeChildren ks).task i = if i ∈ ks then default else s.task i := by
  have hkept := Tab.get_filter_key (ks.foldl State.freeStages s).tasks (fun j => !ks.contains j) i
  refine hkept.trans ?_
  by_cases hi : i ∈ ks
  · simp [hi]
  · have hstages : Tab.get (ks.foldl State.freeStages s).tasks i = s.task i := (s.foldl_freeStages_leaves ks).2 i hi
    simp [hi, hstages]

/-! ## The join -/

/-- A task as it is placed again at its continuation (R232, R298, R299). -/
def Task.continues (t : Task) (chst : Lv 64) (now : Nat) (id : BitVec 32) : Task :=
  { t with st := .spawned, cont := true, saved := none, group := [], closed := false, chst := chst, attempt := 0, commits := 0
           start := now, taskid := id, segchk := [], segno := 0 }

/-- The join of a group whose children have ended and whose results are merged in `t`; which entry the continuation takes is the
scheduler's. -/
theorem exec_join_continues {s t : State} {k : Nat} (hst : (s.task k).st = .joining)
    (hdone : ∀ i ∈ (s.task k).group, (s.task i).st = .done ∧ s.wordsDone i = true) (hstall : s.schedStalled k = false)
    (hrec : s.recordsOut (s.launch (s.task k).lid).fn = true) (hm : s.mergeAll (s.task k).home (s.task k).group = (t, none))
    (hok : (s.task k).how = .ok) : ∃ now id, exec (.join k) s = .next (((t.freeChildren (s.task k).group).gain k).modTask k
      (·.continues (chstOf ((s.task k).group.map t.task)) now id)) := by
  have hall : ((s.task k).group.all fun i => decide ((s.task i).st = .done) && s.wordsDone i) = true :=
    List.all_eq_true.mpr fun i hi => Bool.and_eq_true_iff.mpr ⟨decide_eq_true (hdone i hi).1, (hdone i hi).2⟩
  show ∃ now id, execJoin k s = _
  simp only [execJoin, hst, hall, hstall, hrec, hm, hok, ne_eq, not_true_eq_false, Bool.not_true, Bool.or_self,
    Bool.false_eq_true, if_false, if_true]
  exact ⟨_, _, rfl⟩

/-- Settles O43: READY by `makeReady_leaves`, the freed entries by `freeChildren_task`. -/
theorem childrenJoin : Obligations.ChildrenJoin := by
  unfold Obligations.ChildrenJoin
  intro s t k u j fn
  refine ⟨fun hst hu hr hstall => ⟨fun h hg hst' => ?_, fun code sub det va acc h => ?_⟩, fun hst hstall h => ?_,
    fun hst hdone hstall hrec hm hok hk => ?_⟩
  · exact ⟨_, exec_childCopyInComplete_made hst hu hr hstall h, State.makeReady_leaves hst' hg⟩
  · exact exec_childCopyInComplete_fault hst hu hr hstall h
  · exact exec_outwardCopyComplete_made hst hstall h
  · obtain ⟨now, id, hq⟩ := exec_join_continues hst hdone hstall hrec hm hok
    have hself := State.task_modTask_self ((t.freeChildren j.group).gain k) k
      (·.continues (chstOf (j.group.map t.task)) now id) TState.noConfusion
    have hother (i : Nat) (hi : i ≠ k) : (((t.freeChildren j.group).gain k).modTask k
        (·.continues (chstOf (j.group.map t.task)) now id)).task i = if i ∈ j.group then default else t.task i := by
      rw [State.task_modTask_ne _ _ hi, (sameTasks_gain ..).task, State.freeChildren_task]
    refine ⟨_, hq, ?_, ?_, ?_, ?_, fun i hi => ?_, fun i hi hni => ?_⟩
    · rw [hself]; rfl
    · rw [hself]; rfl
    · rw [hself]; rfl
    · rw [hself]; rfl
    · rw [hother i fun e => hk (e ▸ hi), if_pos hi]
    · rw [hother i hi, if_neg hni]

end Sys2Proof.Machine
end

section

/-! The schedulers' picks (spec 15, R300 to R305, R308): aging, gangs, timetables, the pick of a free unit and the end of a
pre-emption, then O44. -/

namespace Sys2Proof.Machine
open Claims

theorem exec_taskAging_rises {s : State} {k : Nat} (hst : (s.task k).st = .spawned ∨ (s.task k).st = .ready)
    (hp : passed s (s.task k).start 4000) (hc : (s.task k).prio < (s.launch (s.task k).lid).ceil) :
    exec (.taskAging k) s = .next (s.modTask k fun j => { j with prio := j.prio + 1, start := s.frame.toNat }) := by
  have hwaits : (decide ((s.task k).st = .spawned) || decide ((s.task k).st = .ready)) = true := by simpa using hst
  show execTaskAging k s = _
  simp only [execTaskAging, hwaits, State.elapsed_of_passed hp, hc, decide_true, Bool.and_self, if_true]

/-! ## Gangs (R305) -/

theorem State.readyGang_of_gangReady {s : State} {k g : Nat} (h : gangReady s k g) : s.readyGang k = some g := by
  obtain ⟨⟨m, n, hg⟩, hall⟩ := h
  have hready : ((s.gangTasks k).all fun j => decide ((s.task j).st = .ready)) = true :=
    List.all_eq_true.mpr fun j hj => decide_eq_true (hall j hj)
  simp only [State.readyGang, hg, hready, if_true]

section
variable {s : State} {k g : Nat} (h : gangReady s k g)
include h

theorem exec_gangStart_ready (ht : (s.task k).timed = none) (hi : s.allIdle (s.gangTasks k) = true) :
    exec (.gangStart k) s = .next { s.startAll (s.gangTasks k) with gres := s.gres.put g .none } := by
  show execGangStart k s = _
  simp only [execGangStart, State.readyGang_of_gangReady h, ht, hi, Option.isNone_none, Bool.and_self, if_true]

theorem exec_gangReservationLapse_held {f : Nat} (hf : s.gres.get g = .held f) (hp : passed s f 1000) :
    exec (.gangReservationLapse k) s = .next
      { s.event 1 0 (s.launch (s.task k).lid).fn (s.launch (s.task k).lid).asid (clusterOf ((s.task k).unit.getD 0)) with
        gres := s.gres.put g (.lapsed s.frame.toNat) } := by
  show execGangReservationLapse k s = _
  simp only [execGangReservationLapse, State.readyGang_of_gangReady h, hf, State.elapsed_of_passed hp, if_true]
  rfl

theorem exec_gangReservationRenew_lapsed {f : Nat} (hf : s.gres.get g = .lapsed f) (hp : passed s f 1000) :
    exec (.gangReservationRenew k) s = .next { s with gres := s.gres.put g (.held s.frame.toNat) } := by
  show execGangReservationRenew k s = _
  simp only [execGangReservationRenew, State.readyGang_of_gangReady h, hf, State.elapsed_of_passed hp, if_true]

end

/-! ## Timetables (R304) -/

/-- A longer part of a tick's period holds no fewer cycles. -/
theorem State.cyclesIn_mono (s : State) (die : Nat) {m n : Nat} (h : m ≤ n) : s.cyclesIn die m ≤ s.cyclesIn die n :=
  Nat.div_le_div_right (Nat.mul_le_mul_left _ h)

section
variable {s : State} {k c tick y : Nat} (ht : (s.task k).timed = some (c, tick, y))
include ht

/-- The moment of a start that is still to come lies in the present microsecond or is past. -/
theorem State.startDue_timed (hs : (s.task k).saved = none)
    (hst : (s.task k).st = .spawned ∨ (s.task k).st = .preparing ∨ (s.task k).st = .ready)
    (hy : tick < s.frame.toNat ∨ tick = s.frame.toNat ∧ y < s.cyclesIn (dieOf c) (s.devtime.toNat % 4 + 1)) :
    s.startDue k = true := by
  simp only [State.startDue, ht, hs, Option.isNone_none, Bool.and_true, Bool.and_eq_true, Bool.or_eq_true, decide_eq_true_eq]
  exact ⟨or_assoc.mpr hst, hy⟩

theorem State.startNow_timed : s.startNow k = true ↔ tick = s.frame.toNat ∧ s.cyclesIn (dieOf c) (s.devtime.toNat % 4) ≤ y := by
  simp only [State.startNow, ht, Bool.and_eq_true, decide_eq_true_eq]

variable (hg : (s.task k).gang = none) (hd : s.startDue k = true)
  (hf : ∀ e ∈ s.tasks, s.startDue e.1 = true → e.2.startsBefore (s.task k) = false)
include hg hd hf

/-- The first start that is due, of a task of no gang: at its moment on its idle core it runs, else it has come too late. -/
theorem exec_timetabledStart_first : exec (.timetabledStart k) s = .next
    (if s.startNow k && decide ((s.task k).st = .ready) && s.allIdle [k] then s.startAll [k]
      else s.failPrepared k ((s.task k).unit.getD 0) (late (if (s.unit c).quar = true then 4 else 1) s k)) := by
  have hfirst : (s.tasks.any fun e => s.startDue e.1 && e.2.startsBefore (s.task k)) = false :=
    List.any_eq_false.mpr fun e he hb => by
      obtain ⟨hdue, hbefore⟩ := Bool.and_eq_true_iff.mp hb
      exact Bool.false_ne_true ((hf e he hdue).symm.trans hbefore)
  show execTimetabledStart k s = _
  simp only [execTimetabledStart, hd, hfirst, State.gangTasks_alone hg, List.all_cons, List.all_nil, List.any_cons, List.any_nil,
    ht, Bool.and_true, Bool.or_false, Bool.not_true, Bool.false_eq_true, if_false]
  split <;> rfl

theorem exec_timetabledStart_now {u : Nat} (hn : tick = s.frame.toNat)
    (hy : s.cyclesIn (dieOf c) (s.devtime.toNat % 4) ≤ y) (hst : (s.task k).st = .ready) (hu : (s.task k).unit = some u)
    (hi : s.idleUnit u = true) (hfit : s.fitsUnit u k = true) : exec (.timetabledStart k) s = .next (s.startTask u k) := by
  have hnow : s.startNow k = true := (State.startNow_timed ht).mpr ⟨hn, hy⟩
  rw [exec_timetabledStart_first ht hg hd hf]
  simp only [hnow, hst, State.allIdle, State.startAll, List.all_cons, List.all_nil, List.foldl_cons, List.foldl_nil, hu, hi, hfit,
    decide_true, Bool.and_self, if_true]

theorem exec_timetabledStart_past
    (hp : tick < s.frame.toNat ∨ tick = s.frame.toNat ∧ y < s.cyclesIn (dieOf c) (s.devtime.toNat % 4)) :
    exec (.timetabledStart k) s = .next
      (s.failPrepared k ((s.task k).unit.getD 0) (late (if (s.unit c).quar = true then 4 else 1) s k)) := by
  have hnow : s.startNow k = false := by
    rw [← Bool.not_eq_true, State.startNow_timed ht]
    omega
  rw [exec_timetabledStart_first ht hg hd hf, hnow, Bool.false_and, Bool.false_and, if_neg Bool.false_ne_true]

end

/-! ## The pick of a free unit, and the end of a pre-emption -/

theorem exec_taskPick_ready {s : State} {k u : Nat} (hi : s.idleUnit u = true) (hr : s.reservedFor u = none)
    (hb : s.best ((s.queued u).filter fun i => (s.task i).st = .ready && (s.task i).gang.isNone && (s.task i).timed.isNone
      && s.fitsUnit u i) = some k) : exec (.taskPick u) s = .next (s.startTask u k) := by
  show execTaskPick u s = _
  simp only [execTaskPick, hi, hr, hb, Option.isNone_none, Bool.and_self, if_true]

/-- No task of the context holds a unit or waits at one (R308). -/
theorem exec_preemptComplete_left {s : State} {asid : Nat} {lim : Nat × Nat} (hp : (s.asids.get asid).pre = some lim)
    (hleft : ∀ e ∈ s.tasks, (s.launch e.2.lid).asid = asid →
      e.2.st ≠ .running ∧ e.2.st ≠ .preparing ∧ e.2.st ≠ .ready ∧ e.2.st ≠ .returning) :
    exec (.preemptComplete asid) s = .next ({ s with asids := s.asids.put asid { s.asids.get asid with pre := none } }.event
      2 0 (s.asids.get asid).fn asid asid) := by
  have hnone : (s.tasks.any fun e => decide ((s.launch e.2.lid).asid = asid) &&
      (e.2.st = .running || e.2.st = .preparing || e.2.st = .ready || e.2.st = .returning)) = false :=
    List.any_eq_false.mpr fun e he hb => by
      obtain ⟨hasid, hheld⟩ := Bool.and_eq_true_iff.mp hb
      obtain ⟨hrun, hprep, hready, hret⟩ := hleft e he (of_decide_eq_true hasid)
      simp [hrun, hprep, hready, hret] at hheld
  show execPreemptComplete asid s = _
  simp only [execPreemptComplete, hp, hnone, Option.isNone_some, Bool.or_self, Bool.false_eq_true, if_false]

/-- Settles O44: each row's lemma. A start within the present microsecond is due because it holds no fewer cycles than the ones
before (`cyclesIn_mono`). -/
theorem schedulerPicks : Obligations.SchedulerPicks := by
  unfold Obligations.SchedulerPicks
  intro s k u j
  refine ⟨exec_taskAging_rises, fun g hg => ⟨exec_gangStart_ready hg, fun f => exec_gangReservationLapse_held hg,
    fun f => exec_gangReservationRenew_lapsed hg⟩, fun c tick y ht hs hg hf => ?_, exec_taskPick_ready,
    fun asid lim => exec_preemptComplete_left⟩
  refine ⟨fun hn hlo hhi hst => ?_, fun hp hst => ?_⟩
  · exact exec_timetabledStart_now ht hg (State.startDue_timed ht hs (.inr (.inr hst)) (.inr ⟨hn, hhi⟩)) hf hn hlo hst
  · have hdue : s.startDue k = true := State.startDue_timed ht hs hst
      (hp.imp_right fun ⟨hn, hy⟩ => ⟨hn, hy.trans_le (s.cyclesIn_mono _ (Nat.le_succ _))⟩)
    exact exec_timetabledStart_past ht hg hdue hf hp

end Sys2Proof.Machine
end

section

/-! Chains and launches (spec 15, R309 to R311; 22, R406): writes of TAIL and CHRST, the entry at HEAD, a launch put under way and
its end, then O47. -/

namespace Sys2Proof.Machine
open Claims

/-! ## TAIL and CHRST (R309, R406) -/

/-- A write by a port on which the function is frozen is ignored. -/
theorem exec_chainWrites_frozen {s t : State} {fn ch : Nat} (hch : ch ≤ 3) (h : s.doorFrozen fn = (t, true)) (v : BitVec 64) :
    exec (.chainTailWrite fn ch v) s = .next t ∧ exec (.chainReset fn ch) s = .next t := by
  have hlt : ¬ ch > 3 := Nat.not_lt.mpr hch
  refine ⟨?_, ?_⟩
  · show execChainTailWrite fn ch v s = _
    simp only [execChainTailWrite, hlt, h, Bool.or_true, if_true, if_false]
  · show execChainReset fn ch s = _
    simp only [execChainReset, hlt, h, Bool.or_true, if_true, if_false]

section
variable {s t : State} {fn ch : Nat} (h : door s t fn ch)
include h

/-- The state after the port is settled answers the page as before it. -/
theorem doorShut_of_door : t.doorShut fn = false := by
  obtain ⟨hshut, hfrozen, -⟩ := h
  have hsame := s.doorFrozen_doorShut fn
  rw [hfrozen] at hsame
  exact hsame.trans hshut

theorem exec_chainTailWrite_door (v : BitVec 64) : exec (.chainTailWrite fn ch v) s = .next
    (if (s.chain fn ch).en = false ∨ v.toNat < (s.chain fn ch).tail.toNat
        ∨ (s.chain fn ch).head.toNat + 2 ^ (s.chain fn ch).log2n < v.toNat then t.event 3 0 fn 0 ch
      else t.setChain fn ch { s.chain fn ch with tail := v }) := by
  have hshut := doorShut_of_door h
  obtain ⟨-, hfrozen, hch⟩ := h
  have hlt : ¬ ch > 3 := Nat.not_lt.mpr hch
  show execChainTailWrite fn ch v s = _
  simp only [execChainTailWrite, hlt, hfrozen, hshut, Bool.or_self, Bool.false_eq_true, if_false, Bool.or_eq_true,
    Bool.not_eq_true', decide_eq_true_eq, BitVec.lt_def, gt_iff_lt, or_assoc]
  split <;> rfl

theorem exec_chainReset_door : exec (.chainReset fn ch) s = .next
    (if (s.chain fn ch).en then t
      else t.setChain fn ch { s.chain fn ch with tail := 0#64, head := 0#64, cseq := 0#64, fin := [] }) := by
  have hshut := doorShut_of_door h
  obtain ⟨-, hfrozen, hch⟩ := h
  have hlt : ¬ ch > 3 := Nat.not_lt.mpr hch
  show execChainReset fn ch s = _
  simp only [execChainReset, hlt, hfrozen, hshut, Bool.or_self, Bool.false_eq_true, if_false]
  split <;> rfl

end

/-! ## The port of a doorbell write (R406, log 107) -/

/-- A VF has one port. -/
theorem State.doorFrozen_vf {s : State} {fn p : Nat} (h0 : fn ≠ 0) (hp : s.vfPort fn = some p) :
    s.doorFrozen fn = (s, decide (Master.fn fn p ∈ s.frozen)) := by
  simp only [State.doorFrozen, h0, if_false, hp, List.contains_eq_mem]

/-- The PF is frozen on both ports or on none: by which one a write came does not matter. -/
theorem State.doorFrozen_pf {s : State} (h : Master.fn 0 0 ∈ s.frozen ↔ Master.fn 0 1 ∈ s.frozen) :
    s.doorFrozen 0 = (s, decide (Master.fn 0 0 ∈ s.frozen)) := by
  simp only [State.doorFrozen, if_true, List.contains_eq_mem, h]

/-! ## The entry at HEAD (R310, R311) -/

section
variable {s t : State} {fn ch : Nat} {e : ChainE} (h : entryRead s t fn ch e)
include h

/-- The chain has an entry to read, dispatch goes on, and the entry is in its turn. -/
theorem entryRead_opens :
    (s.doorShut fn || !(s.chain fn ch).en || decide ((s.chain fn ch).head ≥ (s.chain fn ch).tail) || !(s.fns.get fn).winSet
      || s.cpStalled (s.fns.get fn).winAs) = false
    ∧ ((s.cps.get 8).frozen || (s.cps.get 8).dead) = false
    ∧ (e.serial && decide ((s.chain fn ch).cseq ≠ (s.chain fn ch).head)) = false := by
  obtain ⟨hshut, hen, hhead, hwin, hstall, hfrozen, hdead, hserial, -⟩ := h
  have hhead : ¬ (s.chain fn ch).head ≥ (s.chain fn ch).tail := BitVec.not_le.mpr hhead
  refine ⟨?_, ?_, ?_⟩
  · simp only [hshut, hen, hhead, hwin, hstall, decide_false, Bool.not_true, Bool.or_self]
  · simp only [hfrozen, hdead, Bool.or_self]
  · cases he : e.serial with
    | false => rfl
    | true => exact decide_eq_false (not_not.mpr (hserial he))

theorem exec_chainEntryStart_nop (hop : e.op = 0) : exec (.chainEntryStart fn ch) s =
    .next ((headOn s fn ch t).chainDone fn ch ((s.chain fn ch).head.toNat + 1) e.irq) := by
  obtain ⟨hopen, hdispatch, hturn⟩ := entryRead_opens h
  obtain ⟨-, -, -, -, -, -, -, -, r, hread, rfl⟩ := h
  show execChainEntryStart fn ch s = _
  simp only [execChainEntryStart, hopen, hdispatch, hread, hturn, hop, Bool.false_eq_true, if_false, if_true]
  rfl

theorem exec_chainEntryStart_launch {t1 t2 : State} {hd b : RdOk} {l : Launch} (hop : e.op = 1) (hok : t.entryOk fn e = true)
    (hcp : t.cpStalled e.asid = false) (h1 : t.readVa (cpCtx e.asid) .rd false 3 e.record 64 = (t1, .ok hd))
    (hlen : 64 ≤ fld hd.data 0x38 4)
    (h2 : t1.readVa (cpCtx e.asid) .rd false (pagesOf (fld hd.data 0x38 4)) e.record (fld hd.data 0x38 4) = (t2, .ok b))
    (hl : launchOfBytes b.data (t2.asids.get e.asid).map (t2.asids.get e.asid).slots = some l) (htimed : t2.timedOk e l = true)
    (hroom : (if (l.levelOf 0).domain = 4 then 1 else 513) ≤ t2.freeEntries (t2.arbiterDie { l with dies := e.dies })) :
    exec (.chainEntryStart fn ch) s =
      .next ((headOn s fn ch t2).startLaunch fn ch ((s.chain fn ch).head.toNat + 1) e l) := by
  obtain ⟨hopen, hdispatch, hturn⟩ := entryRead_opens h
  obtain ⟨-, -, -, -, -, -, -, -, r, hread, rfl⟩ := h
  have hlaunch : (chainEntryOf r.data).op ≠ 0 := by rw [hop]; exact Nat.one_ne_zero
  show execChainEntryStart fn ch s = _
  simp only [execChainEntryStart, hopen, hdispatch, hread, hturn, hlaunch, hok, hcp, h1, Nat.not_lt.mpr hlen, h2, hl, htimed,
    Nat.not_lt.mpr hroom, Bool.not_true, Bool.false_eq_true, if_false]
  rfl

end

/-! ## A launch (R299, R311) -/

/-- A candidate that comes up changes its function's virtual time alone (R302). -/
theorem State.gain_launches (s : State) (k : Nat) : (s.gain k).launches = s.launches ∧ (s.gain k).lnext = s.lnext := by
  unfold State.gain
  dsimp only
  split <;> exact ⟨rfl, rfl⟩

/-- A launch put under way has its record's tables and its entry's fields. -/
theorem State.startLaunch_launch (s : State) (fn ch n : Nat) (e : ChainE) {l : Launch} (hlive : l.live = true) :
    (s.startLaunch fn ch n e l).lnext = s.lnext + 1 ∧ (s.startLaunch fn ch n e l).launch s.lnext = { l with
      fn := fn, chain := ch, entry := n, asid := e.asid, dies := e.dies, tgroup := e.tgroup, prio := e.prio, ceil := e.ceil
      irq := e.irq, status := e.status, user := e.user, top := s.spawns } := by
  unfold State.startLaunch
  dsimp only
  refine ⟨(State.gain_launches ..).2, ?_⟩
  unfold State.launch
  rw [(State.gain_launches ..).1]
  refine Tab.get_put_of_ne _ _ _ fun hdef => ?_
  have hdead : l.live = false := congrArg Launch.live hdef
  exact Bool.false_ne_true (hdead.symm.trans hlive)

/-- Its entry task is the newest one, and waits to be picked. -/
theorem State.startLaunch_task (s : State) (fn ch n : Nat) (e : ChainE) (l : Launch) :
    (s.startLaunch fn ch n e l).spawns = s.spawns + 1 ∧ (let j := (s.startLaunch fn ch n e l).task s.spawns
      j.st = .spawned ∧ j.lid = s.lnext ∧ j.index = l.first ∧ j.level = 0 ∧ j.parent = none ∧ j.prio = e.prio) := by
  unfold State.startLaunch
  dsimp only
  refine ⟨(sameTasks_gain ..).2, ?_⟩
  rw [(sameTasks_gain ..).task]
  unfold State.task
  rw [Tab.get_put_of_ne _ _ _ (Task.ne_default TState.noConfusion)]
  exact ⟨rfl, rfl, rfl, rfl, rfl, rfl⟩

/-- A launch that has ended in success (R311). -/
theorem exec_launchComplete_ok {s t : State} {lid : Nat} (hd : s.launchDone lid = true)
    (hcp : s.cpStalled (s.launch lid).asid = false) (hr : s.recordsOut (s.launch lid).fn = true)
    (hok : (s.task (s.launch lid).top).how = .ok)
    (hw : s.writeStatus (s.launch lid).fn (s.launch lid).asid (s.launch lid).status (s.launch lid).user 0 0 0 0#8 = some t) :
    exec (.launchComplete lid) s =
      .next (({ t.freeChildren [(s.launch lid).top] with launches := t.launches.put lid default } : State).chainDone
        (s.launch lid).fn (s.launch lid).chain (s.launch lid).entry (s.launch lid).irq) := by
  show execLaunchComplete lid s = _
  simp only [execLaunchComplete, hd, hcp, hr, hok, hw, State.freeChildren_launches, Bool.not_true, Bool.or_self, Bool.false_eq_true,
    if_false, if_true]

/-- Settles O47: each row's lemma; the launch and its entry task are read off `startLaunch`. -/
theorem chainsAndLaunches : Obligations.ChainsAndLaunches := by
  unfold Obligations.ChainsAndLaunches
  intro s t fn ch c
  refine ⟨fun h v => ⟨fun hbad => ?_, fun hen hlo hhi => ?_⟩, fun h hen => ?_, fun h hen => ?_,
    fun hch hf v => exec_chainWrites_frozen hch hf v, fun p => State.doorFrozen_vf, State.doorFrozen_pf,
    fun e => exec_chainEntryStart_nop, ?_, ?_⟩
  · rw [exec_chainTailWrite_door h, if_pos hbad]
  · have hgood : ¬ (c.en = false ∨ v.toNat < c.tail.toNat ∨ c.head.toNat + 2 ^ c.log2n < v.toNat) := by
      simp only [hen, Bool.true_eq_false, false_or]
      omega
    rw [exec_chainTailWrite_door h, if_neg hgood]
  · rw [exec_chainReset_door h, if_neg (Bool.eq_false_iff.mp hen)]
  · rw [exec_chainReset_door h, if_pos hen]
  · intro e t1 t2 hd b l h hop hok hcp h1 hlen h2 hl hlive htimed hroom
    obtain ⟨hlnext, hlaunch⟩ := (headOn s fn ch t2).startLaunch_launch fn ch (c.head.toNat + 1) e hlive
    obtain ⟨hspawns, htask⟩ := (headOn s fn ch t2).startLaunch_task fn ch (c.head.toNat + 1) e l
    refine ⟨_, exec_chainEntryStart_launch h hop hok hcp h1 hlen h2 hl htimed hroom, hlnext, hspawns, htask, ?_⟩
    intro m
    rw [show m = _ from hlaunch]
    exact ⟨rfl, rfl, rfl, rfl, rfl, rfl, rfl, rfl, rfl⟩
  · intro lid l hd hcp hr hok hw
    exact exec_launchComplete_ok hd hcp hr hok hw

end Sys2Proof.Machine
end

section

/-! REPLAY of a TXRUN (spec 17, R320; 18, R350), and the refutation of O48. -/

namespace Sys2Proof.Machine
open Claims

/-! ## REPLAY of the one stalled access -/

theorem Stall.tagged_iff_named (st : Stall) (die : Nat) (tag : BitVec 16) : st.tagged die tag = true ↔ named die tag st := by
  simp [Stall.tagged, named, and_assoc]

section
variable {s : State} {st : Stall} {die n : Nat} {tag : BitVec 16}
  (hp : s.pwr.ready = true) (hs : s.stalls = [st]) (hn : named die tag st) (ha : st.agent = .fst n) (hacc : st.acc = 1)
include hp hs hn ha hacc

/-- The TXRUN goes back to its restart point, and its access walks again. -/
theorem exec_faultresolveReplay_txrun : exec (.faultresolveReplay die tag) s =
    .next { s.setWord st.word (s.word st.word).rewind with stalls := [{ st with walked := false }] } := by
  have ht : st.tagged die tag = true := (st.tagged_iff_named die tag).mpr hn
  show execFaultresolveReplay die tag s = _
  simp [execFaultresolveReplay, hp, hs, ht, State.rewound, ha, hacc]

/-- O48's clause of a TXRUN, in a canonical table of words: the word of the access is rewound, every other one stays. -/
theorem exec_faultresolveReplay_rewinds (hw : Tab.wf s.xwords = true) :
    ∃ q, exec (.faultresolveReplay die tag) s = .next q ∧ q.xwords.get st.word = (s.xwords.get st.word).rewind
      ∧ ∀ k, k ≠ st.word → q.xwords.get k = s.xwords.get k :=
  ⟨_, exec_faultresolveReplay_txrun hp hs hn ha hacc, Tab.get_put_self _ _ _ hw, fun _ hk => Tab.get_put_ne _ _ _ _ hk⟩

end

/-! ## A word that is listed twice

The statement asks nothing of the form of the table of words. A table that lists a key twice, the first time with the default
entry, is no canonical table (`Tab.wf`). There the rewound word is the default one again, and writing it uncovers the second
entry. -/

/-- A write of word 1 by FST lane 0, stalled on page 0 of die 0 and posted under tag 9. -/
def txrunStall : Stall :=
  { (default : Stall) with acc := 1, agent := .fst 0, tag := 9, word := 1, posted := true, walked := true }

/-- The package is ready, and that word is listed twice: the default one, then one that has failed. -/
def wordListedTwice : State :=
  { (default : State) with
    pwr := { (default : Pwr) with ready := true }
    stalls := [txrunStall]
    xwords := [(1, default), (1, { (default : XWord) with err := 1 })] }

theorem wordListedTwice_not_wf : Tab.wf wordListedTwice.xwords = false := by decide +kernel

/-- What REPLAY leaves at the word differs from the rewound word. -/
theorem wordListedTwice_not_rewound : let w := (wordListedTwice.xwords.get 1).rewind
    (wordListedTwice.xwords.put 1 w).get 1 ≠ w := by decide +kernel

/-- Refutes O48: after REPLAY word 1 of `wordListedTwice` reads as its second entry, not as its first one rewound. In a canonical
table of words the clause is as stated (`exec_faultresolveReplay_rewinds`). -/
theorem not_pageFaults : ¬ Obligations.PageFaults := by
  intro hall
  have hnamed : named 0 9#16 txrunStall := ⟨rfl, rfl, rfl⟩
  obtain ⟨-, -, hreplay, -⟩ := hall wordListedTwice default 0 0 0 9#16
  obtain ⟨q, hq, hrewound, -⟩ := hreplay txrunStall 0 rfl rfl hnamed rfl rfl
  have hleft := (exec_faultresolveReplay_txrun (s := wordListedTwice) rfl rfl hnamed rfl rfl).symm.trans hq
  cases hleft
  exact wordListedTwice_not_rewound hrewound

end Sys2Proof.Machine
end

section

/-! The Col's decision (spec 19, R359 to R365; 22, R406) and accesses from outside (spec 20, R376): what becomes of a transaction
that has been judged, what a host function's window and a debug read answer, then O49. -/

namespace Sys2Proof.Machine
open Claims

/-! ## The Col -/

/-- An unlabelled transaction passes (R361). -/
theorem State.judge_unlabelled (s : State) {t : Txn} (h : t.lab = 0#8) : s.judge t = (s.dropExpired, none) := if_pos h

/-- What the Col does with a transaction it has judged (R359, R361, R365). -/
def Txn.enact (t : Txn) : State × Option Nat → State
  | (s, none) => settled (s.passTxn t) t
  | (s, some why) =>
    match t.word with
    | some k => ((s.colRecord t why).holdAt k fGate why 0 (s.vaOf k t.port t.addr)).tendCheck (s.word k).unit
    | none => (t.master.elim (s.colRecord t why) (s.colRecord t why).freeze).dropTxn t

section
variable {s : State} {t : Txn} {r : List Txn} (hq : s.colQ = t :: r)
include hq

/-- A frozen master's transaction is dropped without a record (R406). -/
theorem exec_colDecision_frozen (hf : masterFrozen s t) :
    exec .colDecision s = .next (({ s with colQ := r } : State).dropTxn t) := by
  obtain ⟨m, hm, hin⟩ := hf
  show execColDecision s = _
  simp [execColDecision, hq, hm, hin]

/-- Any other transaction is judged. -/
theorem exec_colDecision_judged (hf : ¬ masterFrozen s t) :
    exec .colDecision s = .next (t.enact (({ s with colQ := r } : State).judge t)) := by
  show execColDecision s = _
  have hgo : ∀ m, t.master = some m → m ∉ s.frozen := fun m hm hin => hf ⟨m, hm, hin⟩
  cases hm : t.master <;>
    simp only [execColDecision, hq, hm, List.contains_eq_mem, hgo, decide_false, Bool.false_eq_true, if_false]
  all_goals
    rcases ({ s with colQ := r } : State).judge t with ⟨s1, _ | why⟩
    · rfl
    · unfold Txn.enact
      cases hw : t.word <;> simp only [hm] <;> rfl

end

/-! ## Reads and writes from outside -/

/-- What a read from outside found goes to its reader through the Col (R359). -/
theorem State.outsideRead_ok {s s1 : State} {ctx : Ctx} {va len : Nat} {g : RdOk}
    (h : s.readVa ctx .rd false (pagesOf len) va len = (s1, .ok g)) (who kind port fn : Nat) (m : Master) (addr : Nat) :
    ∃ q, s.outsideRead who kind port fn m ctx va len addr = { s1 with colQ := s1.colQ ++ [q] } ∧ q.kind = kind ∧ q.port = port
      ∧ q.addr = addr ∧ q.lab = g.lab ∧ q.layout = g.layout ∧ q.act = .ans g.data ∧ q.master = some m := by
  unfold State.outsideRead
  rw [h]
  exact ⟨_, rfl, rfl, rfl, rfl, rfl, rfl, rfl, rfl⟩

/-- A write from outside that no page refuses. -/
theorem State.outsideWrite_ok {s s1 : State} {ctx : Ctx} {va : Nat} {bs : List Byte}
    (h : s.writeVa ctx .wr 0#8 (pagesOf bs.length) va bs = (s1, none)) (who port fn : Nat) :
    s.outsideWrite who port fn ctx va bs = s1 := by
  unfold State.outsideWrite
  rw [h]

/-! ### The window of a host function -/

theorem State.fnOn_of {s : State} {fn port : Nat} (hp : s.pwr.ready = true) (h : port < 2) (hon : fn = 0 ∨ s.vfPort fn = some port) :
    s.fnOn fn port = true := by
  simp [State.fnOn, hp, h, hon]

theorem exec_bar2Access_on {s : State} {fn port : Nat} {a : HostAcc} (hon : s.fnOn fn port = true) (hlen : 0 < accLen a)
    (hin : accOff a + accLen a ≤ 2 ^ 36) : exec (.bar2Access fn port a) s = .next (s.hostAccess fn port (accOff a) a) := by
  show execBar2Access fn port a s = _
  have hlen : accLen a ≠ 0 := hlen.ne'
  have hin : ¬ accOff a + accLen a > 2 ^ 36 := Nat.not_lt.mpr hin
  simp only [execBar2Access, hon, hlen, hin, Bool.not_true, decide_false, Bool.or_self, Bool.false_eq_true, if_false]

theorem exec_cxlMemAccess_on {s : State} {port : Nat} {a : HostAcc} (hon : s.fnOn 0 port = true) (hlen : 0 < accLen a)
    (hin : accOff a + accLen a ≤ 8 * dieBytes) : exec (.cxlMemAccess port a) s = .next (s.hostAccess 0 port (accOff a) a) := by
  show execCxlMemAccess port a s = _
  have hlen : accLen a ≠ 0 := hlen.ne'
  have hin : ¬ accOff a + accLen a > 8 * dieBytes := Nat.not_lt.mpr hin
  simp only [execCxlMemAccess, hon, hlen, hin, Bool.not_true, decide_false, Bool.or_self, Bool.false_eq_true, if_false]

section
variable (s : State) (fn port off : Nat) (a : HostAcc)

/-- A function in reset or frozen has no access, and posts nothing (R386, R406). -/
theorem State.hostAccess_frozen (h : (s.fns.get fn).flr = true ∨ Master.fn fn port ∈ s.frozen) :
    s.hostAccess fn port off a = { s with answer := some (1, none) } := by
  have hshut : ((s.fns.get fn).flr || s.frozen.contains (.fn fn port)) = true := by simpa using h
  simp only [State.hostAccess, hshut, if_true]
  rfl

variable {s fn port} (hflr : (s.fns.get fn).flr = false) (hfr : Master.fn fn port ∉ s.frozen)
include hflr hfr

/-- An access without a window is event 5 (R376). -/
theorem State.hostAccess_unwindowed (hw : (s.fns.get fn).winSet = false) :
    s.hostAccess fn port off a = { s.event 5 port fn 0 off with answer := some (1, none) } := by
  simp only [State.hostAccess, hflr, hw, List.contains_eq_mem, hfr, decide_false, Bool.or_self, Bool.false_eq_true, if_false,
    Bool.not_false, Bool.true_or, if_true]
  rfl

/-- A write through the window lands at its place in the window's address space (R376). -/
theorem State.hostAccess_write {o : Nat} {bs : List Byte} {t : State} (hw : (s.fns.get fn).winSet = true)
    (hlive : (s.asids.get (s.fns.get fn).winAs).live = true)
    (h : s.writeVa ⟨.hostp port, 8, (s.fns.get fn).winAs, 0xFFFFFFFF, 0, false, none, false⟩ .wr 0#8 (pagesOf bs.length)
      ((s.fns.get fn).winBase + off) bs = (t, none)) : s.hostAccess fn port off (.wr o bs) = t := by
  simp only [State.hostAccess, hflr, hw, hlive, List.contains_eq_mem, hfr, decide_false, Bool.or_self, Bool.false_eq_true, if_false,
    Bool.not_true]
  exact State.outsideWrite_ok h 1 port fn

end

/-! ### The debug session -/

section
variable {s : State} {asid len : Nat} (hp : s.pwr.ready = true) (hlo : 0 < len) (hhi : len ≤ 4096)
  (hlive : (s.asids.get asid).live = true)
include hp hlo hhi hlive

theorem debugRead_opens : (!s.pwr.ready || decide (len = 0) || decide (len > 4096) || !(s.asids.get asid).live) = false := by
  have hlo : len ≠ 0 := hlo.ne'
  have hhi : ¬ len > 4096 := Nat.not_lt.mpr hhi
  simp only [hp, hlo, hhi, hlive, decide_false, Bool.not_true, Bool.or_self]

/-- A debug read of virtual memory (R359). -/
theorem exec_debugRead_va (va : Nat) : exec (.debugRead asid (.va va) len) s = .next
    (if Master.debug ∈ s.frozen then { s with answer := some (3, none) }
      else s.outsideRead 3 3 0 0 .debug ⟨.hostp 0, 8, asid, 0xFFFFFFFF, 0, false, none, false⟩ va len 0) := by
  show execDebugRead asid (.va va) len s = _
  simp only [execDebugRead, debugRead_opens hp hlo hhi hlive, Bool.false_eq_true, if_false, List.contains_eq_mem, decide_eq_true_eq]
  split <;> rfl

/-- A debug read of a box in a scratchpad or cluster store (R359). -/
theorem exec_debugRead_box (hfr : Master.debug ∉ s.frozen) {task slot off lay : Nat} {l : Label} {bs : List Byte}
    (hb : s.boxBytes asid task slot off len = some (l, lay, bs)) :
    ∃ q, exec (.debugRead asid (.box task slot off) len) s = .next { s with colQ := s.colQ ++ [q] }
      ∧ q.kind = 3 ∧ q.lab = l ∧ q.layout = lay ∧ q.act = .ans bs ∧ q.master = some .debug := by
  refine ⟨{ (default : Txn) with
    kind := 3, asid := asid, lab := l, layout := lay, size := len, master := some .debug, act := .ans bs }, ?_, rfl, rfl, rfl, rfl, rfl⟩
  show execDebugRead asid (.box task slot off) len s = _
  simp only [execDebugRead, debugRead_opens hp hlo hhi hlive, hb, List.contains_eq_mem, hfr, decide_false, Bool.false_eq_true, if_false]

end

/-- Settles O49: a transaction of a frozen master is dropped, any other one judged and its verdict enacted; each access from
outside by the law above of its row. -/
theorem colAndOutsideAccess : Obligations.ColAndOutsideAccess := by
  intro s s1 t r hq s0
  refine ⟨exec_colDecision_frozen hq, fun hf hj => ?pass, fun why k hf hj hw => ?hold, fun why m hf hj hw hm => ?freeze,
    fun h => congrArg Prod.snd (s0.judge_unlabelled h), fun fn port a asid va len ha hp hport =>
      ⟨fun hon hin => ?window, fun hin => exec_cxlMemAccess_on (State.fnOn_of hp hport (.inl rfl)) ha hin, ?frozen, ?va, ?box⟩⟩
  case pass => rw [exec_colDecision_judged hq hf, hj]; rfl
  case hold => rw [exec_colDecision_judged hq hf, hj]; simp only [Txn.enact, hw]; rfl
  case freeze => rw [exec_colDecision_judged hq hf, hj]; simp only [Txn.enact, hw, hm]; rfl
  case window =>
    have hrun := exec_bar2Access_on (State.fnOn_of hp hport hon) ha hin
    refine ⟨fun h => hrun.trans (congrArg _ (s.hostAccess_frozen fn port _ a h)), fun hflr hfr hw =>
      hrun.trans (congrArg _ (State.hostAccess_unwindowed _ a hflr hfr hw)), ?_⟩
    rintro o bs t rfl hflr hfr hw hlive h
    exact hrun.trans (congrArg _ (State.hostAccess_write _ hflr hfr hw hlive h))
  case frozen =>
    intro hlo hhi hlive hfr
    rw [exec_debugRead_va hp hlo hhi hlive, if_pos hfr]
  case va =>
    intro g hlo hhi hlive hfr hread
    obtain ⟨q, hq, hkind, -, -, hlab, hlay, hact, hm⟩ := State.outsideRead_ok hread 3 3 0 0 .debug 0
    refine ⟨q, ?_, hkind, hlab, hlay, hact, hm⟩
    rw [exec_debugRead_va hp hlo hhi hlive, if_neg hfr, hq]
  case box =>
    intro task slot off l lay bs hlo hhi hlive hfr hb
    exact exec_debugRead_box hp hlo hhi hlive hfr hb

end Sys2Proof.Machine
end

section

/-! The patrol scrub, errors of on-chip SRAM and command-processor pairs (spec 21, R398, R399; 22, R409, R410), then O54. -/

namespace Sys2Proof.Machine
open Claims

/-! ## The patrol scrub -/

/-- A write back of a sector, its wrong bits kept, stays inside it. -/
theorem State.renew_dev_out (s : State) (sector : Nat) (wrong : List Nat) {a : Nat} (h : a < sector ∨ sector + 64 ≤ a) :
    Tab.get (s.renew sector wrong).dev a = Tab.get s.dev a := by
  unfold State.renew
  dsimp only
  split
  · rfl
  · refine Mem.get_write_out _ _ _ _ ?_
    simpa [flipBits, leBytes_length, Mem.bytes] using h

/-- The cells that a write back leaves, damaged ones of the sector and those of other sectors, are not spent by a read of it. -/
theorem State.spend_renew_cells (s : State) (sector : Nat) (wrong : List Nat) :
    ((s.renew sector wrong).spend sector).cells = s.cells.filter fun c => decide (c.sector ≠ sector) || !passes c := by
  unfold State.renew State.spend
  dsimp only
  rw [List.filterMap_filter, ← List.filterMap_eq_filter]
  refine List.filterMap_congr fun c _ => ?_
  by_cases hc : c.sector = sector
  · cases hk : c.kind <;> simp [Option.guard, passes, hc, hk]
  · simp [Option.guard, hc]

section
variable (s : State) (ctx : Ctx) (l pol sector : Nat) {e : Exam} (flags more : Nat)

/-- No unit, no byte of host memory and no LOSTSEV is changed by a correction. -/
theorem State.corrected_frame (e : Exam) : let t := s.corrected ctx l pol sector e flags more
    t.units = s.units ∧ t.hostMem = s.hostMem ∧ t.lostsev = s.lostsev := by
  unfold State.corrected
  split
  · exact ⟨rfl, rfl, rfl⟩
  · split <;> exact ⟨rfl, rfl, rfl⟩

/-- One record for a correction (R398). -/
theorem State.corrected_recQ_length (e : Exam) :
    (s.corrected ctx l pol sector e flags more).recQ.length = s.recQ.length + if e.corr = 0 then 0 else 1 := by
  unfold State.corrected
  split
  · rfl
  · split <;> exact List.length_append

theorem State.corrected_dev_out (e : Exam) {a : Nat} (h : a < sector ∨ sector + 64 ≤ a) :
    Tab.get (s.corrected ctx l pol sector e flags more).dev a = Tab.get s.dev a := by
  unfold State.corrected
  split
  · rfl
  · split
    · exact s.renew_dev_out sector e.wrong h
    · rfl

/-- A sound sector is written back. -/
theorem State.corrected_cells (hcorr : e.corr ≠ 0) (hsound : e.sound = true) :
    (s.corrected ctx l pol sector e flags more).cells = (s.renew sector e.wrong).cells := by
  unfold State.corrected
  rw [if_neg hcorr, if_pos hsound]
  rfl

/-- Where nothing is corrected, or nothing stays wrong, the stored bytes are as they were. -/
theorem State.corrected_dev (h : e.corr = 0 ∨ e.wrong = []) : (s.corrected ctx l pol sector e flags more).dev = s.dev := by
  unfold State.corrected
  split
  · rfl
  · next hcorr =>
    split
    · rw [h.resolve_left hcorr]; rfl
    · rfl

end

/-- Who scrubs a sector, as its records name it (R400). -/
def scrubCtx (sector : Nat) : Ctx := ⟨.scrub, sector / 2 ^ 37, 0, 0xFFFFFFFF, 0, false, none, false⟩

/-- A scrub of an existing sector corrects it, records what is lost or cannot be corrected, and reads it once. -/
theorem exec_patrolScrub {s : State} {sector : Nat} (hp : s.pwr.ready = true) (h64 : sector % 64 = 0)
    (hphys : s.physOk sector 64 = true) (hc3 : (s.dies.get (sector / 2 ^ 37)).ccur ≠ 3) :
    let l := (s.frameProt sector).code
    let e := examine l sector (s.flips sector) (s.frameProt sector).lines
    ∃ rs : List Rec, rs.length = (if max (s.lostsev.get (sector / 64)) (e.sev l e.grps) = 0 then 0 else 1)
      ∧ exec (.patrolScrub sector) s = .next (((s.corrected (scrubCtx sector) l 0 sector e 64 0).posts rs).spend sector) := by
  intro l e
  have hrun : (decide (sector % 64 ≠ 0) || !s.physOk sector 64 || !s.pwr.ready
      || decide ((s.dies.get (sector / 2 ^ 37)).ccur = 3)) = false := by
    simp only [h64, hphys, hp, hc3, ne_eq, not_true_eq_false, decide_false, Bool.not_true, Bool.or_self]
  have hexec : exec (.patrolScrub sector) s = _ := if_neg (Bool.eq_false_iff.mp hrun)
  rw [hexec]
  split
  · exact ⟨[], rfl, by rw [State.posts_nil]; rfl⟩
  · exact ⟨[_], rfl, rfl⟩

/-! ## Errors of SRAM -/

/-- A corrected error is logged and nothing else (R399). -/
theorem exec_sramError_corrected (s : State) (x : Sram) (unit off : Nat) :
    exec (.sramError x unit off false) s = .next (s.sramLog (sramCtx s x unit) 0 0 off 1) := rfl

/-- An uncorrectable error among the destinations of the Col's store loses the entry (R399). -/
theorem exec_sramError_dest (s : State) (unit : Nat) {off : Nat} (h : off < 32 * 4096) :
    exec (.sramError .colStore unit off true) s =
      .next { s.sramLog (sramCtx s .colStore unit) 5 acHalt off 0 with dests := s.dests.put (off / 32) none } := by
  show execSramError .colStore unit off true s = _
  simp only [execSramError, if_pos h]
  rfl

/-! ## Command processors -/

/-- A mismatch freezes a pair that runs; a mailbox command on Steppe's ends with 0xFD (R409). -/
theorem exec_cpLockstepMismatch_runs {s : State} {u : Nat} (hp : s.pwr.ready = true) (hu : u ≤ 8)
    (hfr : (s.cps.get u).frozen = false) (hd : (s.cps.get u).dead = false) :
    let s1 := { s with cps := s.cps.upd u fun c => { c with frozen := true } }
    exec (.cpLockstepMismatch u) s = if u = 8 ∧ s.mbox.busy = true then answered s1 0xFD 0 else .next s1 := by
  have hu : ¬ u > 8 := Nat.not_lt.mpr hu
  show execCpLockstepMismatch u s = _
  simp only [execCpLockstepMismatch, hu, hfr, hd, hp, State.cpMismatch, decide_false, Bool.not_true, Bool.or_self,
    Bool.false_eq_true, if_false, Bool.and_eq_true, decide_eq_true_eq]
  split <;> rfl

/-- A restart ends the freeze, or with a bad image leaves it for good (R409, R410). -/
theorem exec_cpRestartComplete_frozen {s : State} {u : Nat} (hfr : (s.cps.get u).frozen = true) (hd : (s.cps.get u).dead = false) :
    let c := s.cps.get u
    exec (.cpRestartComplete u) s = .next { s with cps := s.cps.put u { c with
      restarts := (c.restarts + 1) % 2 ^ 32, dead := c.bad, frozen := c.bad } } := by
  show execCpRestartComplete u s = _
  cases hb : (s.cps.get u).bad <;> simp [execCpRestartComplete, hfr, hd, hb]

/-- Settles O54: what a scrub leaves is what its correction leaves, the rest by the law above of each row. -/
theorem errorsAndRestarts : Obligations.ErrorsAndRestarts := by
  intro s hp
  refine ⟨?scrub, exec_sramError_corrected s, fun unit off h => exec_sramError_dest s unit h,
    fun u hu hfr hd => exec_cpLockstepMismatch_runs hp hu hfr hd, fun u hfr hd => exec_cpRestartComplete_frozen hfr hd⟩
  intro sector h64 hphys hc3 l e
  obtain ⟨rs, hlen, hexec⟩ := exec_patrolScrub hp h64 hphys hc3
  obtain ⟨hunits, hhost, hlost⟩ := s.corrected_frame (scrubCtx sector) l 0 sector 64 0 e
  have hnone : e.corr = 0 → s.corrected (scrubCtx sector) l 0 sector e 64 0 = s := fun h => if_pos h
  have hsound := s.corrected_cells (scrubCtx sector) l 0 sector 64 0 (e := e)
  have hdev := s.corrected_dev (scrubCtx sector) l 0 sector 64 0 (e := e)
  have hout := fun a => s.corrected_dev_out (scrubCtx sector) l 0 sector 64 0 e (a := a)
  have hrec := s.corrected_recQ_length (scrubCtx sector) l 0 sector 64 0 e
  generalize s.corrected (scrubCtx sector) l 0 sector e 64 0 = c at *
  refine ⟨_, hexec, hunits, hhost, hlost, hout, hdev, fun h => ?_, fun h h' => ?_, ?_⟩
  · rw [hnone h]; rfl
  · rw [← s.spend_renew_cells sector e.wrong]
    exact congrArg (List.filterMap _) (hsound h h')
  · show (c.recQ ++ rs).length = _
    rw [List.length_append, hrec, hlen]

end Sys2Proof.Machine
end

section

/-! The mailbox (spec 20, R377 to R381; 19, R353, R360 to R363; 17, R313, R323; 15, R302, R308; 09, R256): how a command is
answered, what each command does with a payload that keeps its rules, then O50. -/

namespace Sys2Proof.Machine
open Claims

/-! ## Commands in progress -/

/-- A command in progress, and its payload (R377). -/
theorem commandIs_of_command {s : State} {c n : Nat} {b : List Byte} (h : command s c n b) :
    s.commandIs c = true ∧ s.mbox.len.toNat = n ∧ s.payload = b := by
  obtain ⟨hp, hbusy, hcmd, hfr, hd, hlen, hb⟩ := h
  refine ⟨?_, hlen, ?_⟩
  · simp only [State.commandIs, hp, hbusy, hcmd, hfr, hd, decide_true, Bool.not_false, Bool.and_self]
  · rw [State.payload, hlen, hb]

theorem length_of_command {s : State} {c n : Nat} {b : List Byte} (h : command s c n b) : b.length = n := by
  obtain ⟨-, -, -, -, -, -, rfl⟩ := h
  simp [Mem.bytes]

section
variable {s : State} {c n : Nat} {b : List Byte} {f : List Byte → State × Nat × Nat}

/-- A payload of another length (R378). -/
theorem runCommand_length {m : Nat} (h : command s c m b) (hm : m ≠ n) : runCommand s c n f = answered s 0xFE 0 := by
  obtain ⟨hc, rfl, -⟩ := commandIs_of_command h
  simp only [runCommand, hc, hm, Bool.not_true, Bool.false_eq_true, if_false, ne_eq, not_false_eq_true, if_true]
  rfl

variable (h : command s c n b)
include h

/-- What a command answers of its payload. Where RESULT is not 0 nothing but the mailbox changes. -/
theorem runCommand_eq {v : State × Nat × Nat} (hf : f b = v) :
    runCommand s c n f = answered (if v.2.1 = 0 then v.1 else s) v.2.1 v.2.2 := by
  obtain ⟨hc, hlen, hb⟩ := commandIs_of_command h
  simp only [runCommand, hc, hlen, hb, hf, Bool.not_true, Bool.false_eq_true, if_false, ne_eq, not_true_eq_false]
  rfl

/-- A command that does its work. -/
theorem runCommand_done {t : State} {hd : Nat} (hf : f b = (t, 0, hd)) : runCommand s c n f = answered t 0 hd :=
  runCommand_eq h hf

/-- A command that is refused. -/
theorem runCommand_refused {t : State} (hf : f b = (t, 1, 0)) : runCommand s c n f = answered s 1 0 :=
  runCommand_eq h hf

end

/-- Every command whose payload has one length answers another one with 0xFE (R378). -/
theorem exec_command_length {s : State} {b : List Byte} {i : Instr} {c n m : Nat} (hi : commandLen i = some (c, n)) (hm : m ≠ n)
    (h : command s c m b) : exec i s = answered s 0xFE 0 := by
  unfold commandLen at hi
  split at hi <;> cases hi
  all_goals
    dsimp only [exec]
    exact runCommand_length h hm

/-- An opcode that R377 does not name. -/
theorem exec_mailboxUnknownCommand_unknown {s : State} {b : List Byte} {c m : Nat} (hc : c = 0 ∨ 14 < c) (h : command s c m b) :
    exec .mailboxUnknownCommand s = answered s 0xFF 0 := by
  obtain ⟨his, -, -⟩ := commandIs_of_command h
  obtain ⟨-, -, hcmd, -⟩ := h
  have hunknown : ¬ ((decide (1 ≤ c) && decide (c ≤ 14)) = true) := by simp; omega
  show execMailboxUnknownCommand s = _
  simp only [execMailboxUnknownCommand, hcmd, hunknown, his, Bool.not_true, Bool.false_eq_true, if_false]
  rfl

/-! ## Address spaces -/

theorem leNat_lt (bs : List Byte) : leNat bs < 256 ^ bs.length := by
  induction bs with
  | nil => exact Nat.one_pos
  | cons x r ih =>
    have hx := x.isLt
    rw [leNat, List.length_cons, Nat.pow_succ]
    omega

/-- A field of `n` bytes is below `256 ^ n`. -/
theorem fld_lt (b : List Byte) (off n : Nat) : fld b off n < 256 ^ n :=
  (leNat_lt _).trans_le (Nat.pow_le_pow_right (by decide) (List.length_take_le _ _))

/-- What a payload of CREATE_AS makes of its address space (R313); whether the driver enables debug is `debug`. -/
def asOf (b : List Byte) (debug : Bool) : As :=
  { (default : As) with
    live := true, fn := fld b 2 2, l0 := fld b 8 8, map := (List.range 8).map fun i => fld b (0x10 + i) 1
    slots := BitVec.ofNat 8 (fld b 0x18 1), poltab := BitVec.ofNat 64 (fld b 0x20 8), arena := fld b 0x28 8
    arenaN := fld b 0x30 8, save := fld b 0x38 8, saveN := fld b 0x40 8, debug := debug, limit := 500 }

/-! ### The slot map of CREATE_AS (R351) -/

theorem getD_slotMap (b : List Byte) {i : Nat} (hi : i < 8) :
    ((List.range 8).map fun i => fld b (0x10 + i) 1).getD i 0 = fld b (0x10 + i) 1 := by
  simp [List.getD, List.getElem?_map, List.getElem?_range hi]

/-- Bits of a byte of a payload. -/
theorem getLsbD_ofNat_eight (n : Nat) {i : Nat} (hi : i < 8) : (BitVec.ofNat 8 n).getLsbD i = n.testBit i := by
  rw [BitVec.getLsbD_ofNat, decide_eq_true hi, Bool.true_and]

/-- No tenant stands in a slot that is not used. -/
theorem slotMap_unused {b : List Byte} (h : ∀ i, i < 8 → (fld b 0x18 1).testBit i = false → fld b (0x10 + i) 1 = 0) :
    ((List.range 8).all fun i => (BitVec.ofNat 8 (fld b 0x18 1)).getLsbD i
      || decide (((List.range 8).map fun i => fld b (0x10 + i) 1).getD i 0 = 0)) = true := by
  refine List.all_eq_true.mpr fun i hi => ?_
  have hi := List.mem_range.mp hi
  rw [getLsbD_ofNat_eight _ hi, getD_slotMap b hi]
  cases hbit : (fld b 0x18 1).testBit i with
  | true => rfl
  | false => exact decide_eq_true (h i hi hbit)

/-- A VF that owns an address space stands in one of its used slots. -/
theorem slotMap_owner {b : List Byte}
    (h : fld b 2 2 = 0 ∨ ∃ i, i < 8 ∧ (fld b 0x18 1).testBit i = true ∧ fld b (0x10 + i) 1 = fld b 2 2) :
    (decide (fld b 2 2 ≠ 0) && !((List.range 8).any fun i => (BitVec.ofNat 8 (fld b 0x18 1)).getLsbD i
      && decide (((List.range 8).map fun i => fld b (0x10 + i) 1).getD i 0 = fld b 2 2))) = false := by
  rcases h with h0 | ⟨i, hi, hset, hmine⟩
  · rw [h0]; rfl
  · rw [List.any_eq_true.mpr ⟨i, List.mem_range.mpr hi, ?_⟩, Bool.not_true, Bool.and_false]
    rw [getLsbD_ofNat_eight _ hi, getD_slotMap b hi, hset, hmine, decide_eq_true rfl, Bool.true_and]

/-- A payload that `createOk` allows makes the address space, unless it is in being. -/
theorem exec_createAs_ok {s : State} {b : List Byte} (hc : command s 0x01 72 b) (h : createOk s b) : exec .createAs s =
    if (s.asids.get (fld b 0 2)).live then answered s 1 0
    else answered { s with asids := s.asids.put (fld b 0 2) (asOf b (Config.freeBit s.frees)), frees := s.frees + 1 } 0 0 := by
  obtain ⟨hasid, hfn, hz4, hl0, hl0a, hphys, hz19, hpol, har, hara, harn, hsave, hsavea, hsaven, hslots, howner⟩ := h
  show execCreateAs s = _
  refine (runCommand_eq hc (if_neg ?_)).trans ?_
  · simp only [hz4, hphys, hz19, hpol, slotMap_unused hslots, slotMap_owner howner, hasid.not_gt, hfn.not_gt, hl0.not_ge, hl0a,
      har.not_ge, hara, harn, hsave.not_ge, hsavea, hsaven, decide_false, ne_eq, not_true_eq_false, Bool.not_true, Bool.or_self,
      Bool.false_eq_true, not_false_eq_true]
  · split <;> rfl

/-- The slot mask and the POLTAB as the address space holds them. -/
theorem asOf_masks (b : List Byte) (debug : Bool) :
    (asOf b debug).slots.toNat = fld b 0x18 1 ∧ (asOf b debug).poltab.toNat = fld b 0x20 8 :=
  ⟨(BitVec.toNat_ofNat ..).trans (Nat.mod_eq_of_lt (fld_lt b 0x18 1)),
    (BitVec.toNat_ofNat ..).trans (Nat.mod_eq_of_lt (fld_lt b 0x20 8))⟩

/-- The payload of a command that names an address space in being and nothing else keeps its rules. -/
theorem asid_payload_ok {s : State} {b : List Byte} (ha : fld b 0 2 ≤ 1023) (hz : zeroAt b 2 6 = true)
    (hlive : (s.asids.get (fld b 0 2)).live = true) :
    ¬ (decide (fld b 0 2 > 1023) || !zeroAt b 2 6 || !(s.asids.get (fld b 0 2)).live) = true := by
  simp only [ha.not_gt, hz, hlive, decide_false, Bool.not_true, Bool.or_self, Bool.false_eq_true, not_false_eq_true]

section
variable {s : State} {b : List Byte} (ha : fld b 0 2 ≤ 1023) (hz : zeroAt b 2 6 = true)
  (hlive : (s.asids.get (fld b 0 2)).live = true)
include ha hz hlive

/-- DESTROY_AS is refused while a launch runs in the address space. -/
theorem exec_destroyAs_busy (hc : command s 0x02 8 b) (hbusy : s.asBusy (fld b 0 2) = true) : exec .destroyAs s = answered s 1 0 := by
  show execDestroyAs s = _
  exact runCommand_refused hc ((if_neg (asid_payload_ok ha hz hlive)).trans (if_pos hbusy))

/-- DESTROY_AS takes the address space, its translations, and what was bound to it. -/
theorem exec_destroyAs_idle (hc : command s 0x02 8 b) (hbusy : s.asBusy (fld b 0 2) = false) :
    ∃ fns peers, exec .destroyAs s = answered { s.tlbDrop (fld b 0 2) none with
      asids := s.asids.put (fld b 0 2) default, fns := fns, peers := peers } 0 0 := by
  show ∃ fns peers, execDestroyAs s = _
  exact ⟨_, _, runCommand_done hc ((if_neg (asid_payload_ok ha hz hlive)).trans (if_neg (Bool.eq_false_iff.mp hbusy)))⟩

theorem exec_preempt_live (hc : command s 0x0C 8 b) : exec .preempt s = answered (s.preemptAs (fld b 0 2)) 0 0 := by
  show execPreempt s = _
  exact runCommand_done hc (if_neg (asid_payload_ok ha hz hlive))

theorem exec_resume_live (hc : command s 0x0D 8 b) : exec .resume s =
    answered { s with asids := s.asids.upd (fld b 0 2) fun a => { a with off := false, pre := none } } 0 0 := by
  show execResume s = _
  exact runCommand_done hc (if_neg (asid_payload_ok ha hz hlive))

end

/-- The translations of an address space leave both TLBs (R323). -/
theorem State.tlbDrop_whole (s : State) (asid : Nat) : s.tlbDrop asid none = { s with
    tlb := s.tlb.filter (fun e => decide (e.2.1 ≠ asid)), utlb := s.utlb.filter (fun e => decide (e.2.1 ≠ asid)) } := by
  have hgone : (fun e : Nat × Nat × Nat × Pte => !(decide (e.2.1 = asid) && true)) = fun e => decide (e.2.1 ≠ asid) := by
    funext e
    rw [Bool.and_true, decide_not]
  unfold State.tlbDrop
  dsimp only
  rw [hgone]

/-- INVALIDATE of a whole address space of which no access is under way. -/
theorem exec_invalidate_whole {s : State} {b : List Byte} (hc : command s 0x03 24 b) (hway : s.asOnWay (fld b 0 2) none = false)
    (ha : fld b 0 2 ≤ 1023) (hwhole : fld b 2 1 = 1) (hz : zeroAt b 3 5 = true) (hva : fld b 8 8 = 0) (hn : fld b 16 8 = 0) :
    exec .invalidate s = answered (s.tlbDrop (fld b 0 2) none) 0 0 := by
  have hinv : invalidation b = some (fld b 0 2, none) := by
    simp [invalidation, length_of_command hc, ha.not_gt, hwhole, hz, hva, hn]
  obtain ⟨-, -, hb⟩ := commandIs_of_command hc
  show execInvalidate s = _
  unfold execInvalidate
  rw [hb, hinv]
  dsimp only
  rw [hway, Bool.and_false, if_neg Bool.false_ne_true]
  exact runCommand_done hc (by rw [hinv])

/-! ## Keys, destinations and policies -/

theorem exec_setKey_set {s : State} {b : List Byte} (hc : command s 0x04 72 b) (hclear : fld b 1 1 = 0) (hz : zeroAt b 2 6 = true)
    (hz41 : zeroAt b 0x41 7 = true) : exec .setKey s = answered { s with
      policies := s.policies.filter fun e => !e.2.tenants.contains (fld b 0 1)
      keys := s.keys.put (fld b 0 1) ((b.drop 8).take 57) } 0 0 := by
  show execSetKey s = _
  refine runCommand_done hc ((if_neg ?_).trans ?_)
  · simp [hclear, hz, hz41]
  · rw [hclear]
    rfl

theorem exec_setDest_set {s : State} {b : List Byte} (hc : command s 0x05 40 b) (hi : fld b 0 2 ≤ 4095) (hz : zeroAt b 2 6 = true)
    {d : Dest} (hd : destOf ((b.drop 8).take 32) false = some d) (hany : ¬ ∀ x ∈ (b.drop 8).take 32, x = 0#8) :
    exec .setDest s = answered { s with dests := s.dests.put (fld b 0 2) (some d) } 0 0 := by
  have hany : ¬ ((b.drop 8).take 32).all (fun x => decide (x = 0#8)) = true := fun hall =>
    hany fun x hx => of_decide_eq_true (List.all_eq_true.mp hall x hx)
  show execSetDest s = _
  refine runCommand_done hc ((if_neg ?_).trans ((if_neg hany).trans ?_))
  · simp [hi.not_gt, hz]
  · rw [hd]

theorem exec_removePolicy_live {s : State} {b : List Byte} (hc : command s 0x07 8 b) (hz : zeroAt b 2 6 = true) (hh : fld b 0 2 ≤ 1023)
    (hlive : (s.policies.get (fld b 0 2)).live = true) :
    exec .removePolicy s = answered { s with policies := s.policies.drop (fld b 0 2) } 0 0 := by
  show execRemovePolicy s = _
  refine runCommand_done hc ((if_neg ?_).trans (if_neg ?_))
  · simp [hz]
  · simp [hh.not_gt, hlive]

section
variable {s : State} {b : List Byte} {p : Policy} {n : Nat} (hc : command s 0x06 n b) (hlo : 592 ≤ n)
  (hn : n = 592 + 114 * fld b 6 1) (hp : policyOf b = some p)
include hc hlo hn hp

/-- A policy one of whose tenants has given no key (R363). -/
theorem exec_installPolicy_unkeyed (hkey : ∃ x ∈ p.tenants, Tab.find s.keys x = none) : exec .installPolicy s = answered s 2 0 := by
  obtain ⟨his, hlen, hb⟩ := commandIs_of_command hc
  obtain ⟨x, hx, hnone⟩ := hkey
  have hany : (p.tenants.any fun t => (Tab.find s.keys t).isNone) = true :=
    List.any_eq_true.mpr ⟨x, hx, Option.isNone_iff_eq_none.mpr hnone⟩
  show execInstallPolicy s = _
  simp only [execInstallPolicy, his, hlen, hb, ← hn, hlo.not_gt, hp, hany, Bool.not_true, Bool.false_eq_true, if_false, if_true,
    decide_false, ne_eq, not_true_eq_false, Bool.or_self]
  rfl

/-- A policy whose tenants have keys, that has not expired and is not installed: its signatures decide (R362, R363). -/
theorem exec_installPolicy_keyed {h : Nat} (hkey : ∀ x ∈ p.tenants, Tab.find s.keys x ≠ none)
    (hexp : s.devtime.toNat ≤ p.expiry) (hnew : ∀ e ∈ s.policies, ¬ (e.2.tenants = p.tenants ∧ e.2.nonce = p.nonce))
    (hfree : (List.range 1024).find? (fun h => !(s.policies.get h).live) = some h) :
    exec .installPolicy s = if p.tenants.zipIdx.all (fun e => ed448Verify ((Tab.find s.keys e.1).getD [])
        policyContext (b.take 0x250) ((b.drop (0x250 + 114 * e.2)).take 114)) = true then
      answered { s with policies := s.policies.put h p } 0 h else answered s 3 0 := by
  obtain ⟨his, hlen, hb⟩ := commandIs_of_command hc
  have hany : (p.tenants.any fun t => (Tab.find s.keys t).isNone) = false :=
    List.any_eq_false.mpr fun x hx => by simpa using hkey x hx
  have hold : (s.policies.any fun e => decide (e.2.tenants = p.tenants) && decide (e.2.nonce = p.nonce)) = false :=
    List.any_eq_false.mpr fun e he => by simpa using hnew e he
  show execInstallPolicy s = _
  simp only [execInstallPolicy, his, hlen, hb, ← hn, hlo.not_gt, hp, hany, hexp.not_gt, hold, hfree, Bool.not_true, Bool.false_eq_true,
    if_false, decide_false, ne_eq, not_true_eq_false, Bool.or_self]
  generalize p.tenants.zipIdx.all _ = signed
  cases signed <;> rfl

end

/-! ## Circuits, weights, windows, ports -/

section
variable {s : State} {b : List Byte}

/-- CONNECT of a table that keeps the constraints of R379: the circuits that change start to retune. -/
theorem exec_connect_ok (hc : command s 0x08 64 b) (hr : s.retune = none) (hself : ∀ i, i < 8 → fld b (9 * i) 1 = 0)
    (hsum : ∀ i, i < 8 → ((List.range 8).map fun j => fld b (8 * i + j) 1).sum ≤ 224
      ∧ ((List.range 8).map fun j => fld b (8 * j + i) 1).sum ≤ 224)
    (hpair : ∀ i j, i < 8 → j < 8 → i ≠ j → (s.pairBusy i j = true → fld b (8 * i + j) 1 ≠ 0)
      ∧ (s.pairTimed i j = true → 8 ≤ fld b (8 * i + j) 1)) :
    let ch := (List.range 64).filterMap fun i => if fld b i 1 = s.conn.get i then none else some (i, fld b i 1)
    exec .connect s = answered { s with retune := if ch.isEmpty then none else some ch } 0 0 := by
  have hfold : ∀ f : Nat → Nat, (List.range 8).foldl (fun n i => n + f i) 0 = ((List.range 8).map f).sum := fun f => by
    rw [List.sum_eq_foldl, List.foldl_map]
  have hrows : ((List.range 8).any fun i => decide (fld b (8 * i + i) 1 ≠ 0)
      || decide ((List.range 8).foldl (fun n j => n + fld b (8 * i + j) 1) 0 > 224)
      || decide ((List.range 8).foldl (fun n j => n + fld b (8 * j + i) 1) 0 > 224)) = false := by
    refine List.any_eq_false.mpr fun i hi => ?_
    have hi := List.mem_range.mp hi
    obtain ⟨hrow, hcol⟩ := hsum i hi
    rw [hfold, hfold, show 8 * i + i = 9 * i by omega, hself i hi]
    simp only [hrow.not_gt, hcol.not_gt, decide_false, ne_eq, not_true_eq_false, Bool.or_self, Bool.false_eq_true, not_false_eq_true]
  have hpairs : ((List.range 8).any fun i => (List.range 8).any fun j => decide (i ≠ j) &&
      ((s.pairBusy i j && decide (fld b (8 * i + j) 1 = 0)) || (s.pairTimed i j && decide (fld b (8 * i + j) 1 < 8)))) = false := by
    refine List.any_eq_false.mpr fun i hi => Bool.eq_false_iff.mp (List.any_eq_false.mpr fun j hj hbad => ?_)
    simp only [Bool.and_eq_true, Bool.or_eq_true, decide_eq_true_eq] at hbad
    obtain ⟨hne, hbad⟩ := hbad
    obtain ⟨hbusy, htimed⟩ := hpair i j (List.mem_range.mp hi) (List.mem_range.mp hj) hne
    exact hbad.elim (fun h => hbusy h.1 h.2) fun h => (htimed h.1).not_gt h.2
  intro ch
  show execConnect s = _
  unfold execConnect
  rw [hr, Option.isSome_none, Bool.and_false, if_neg Bool.false_ne_true]
  refine runCommand_done hc (if_neg ?_)
  dsimp only
  rw [hrows, hpairs]
  exact Bool.false_ne_true

/-- Circuits that are empty take their new widths (R381). -/
theorem exec_circuitRetuneComplete_empty {ch : List (Nat × Nat)} (hr : s.retune = some ch) (ht : s.tuned = false)
    (he : ∀ e ∈ ch, s.circuitEmpty (e.1 / 8) (e.1 % 8) = true) :
    exec .circuitRetuneComplete s = .next { s with conn := ch.foldl (fun c e => c.put e.1 e.2) s.conn, tuned := true } := by
  show execCircuitRetuneComplete s = _
  simp only [execCircuitRetuneComplete, hr, ht, List.all_eq_true.mpr he, Bool.not_true, Bool.or_self, Bool.false_eq_true, if_false]

theorem exec_setWeight_ok (hc : command s 0x09 8 b) (hfn : fld b 0 2 ≤ 192) (hz : zeroAt b 4 4 = true) : exec .setWeight s =
    answered { s with fns := s.fns.upd (fld b 0 2) fun f => { f with weight := some (fld b 2 2) } } 0 0 := by
  show execSetWeight s = _
  refine runCommand_done hc (if_neg ?_)
  simp [hfn.not_gt, hz]

/-- A window is refused where the function may not use the address space (R376). -/
theorem exec_setWindow_ok (hc : command s 0x0A 16 b) (hfn : fld b 0 2 ≤ 192) (hz : zeroAt b 4 4 = true) (hbase : fld b 8 8 < 2 ^ 52)
    (hal : fld b 8 8 % 65536 = 0) : exec .setWindow s = if s.granted (fld b 2 2) (fld b 0 2) then answered { s with
        fns := s.fns.upd (fld b 0 2) fun f => { f with winSet := true, winAs := fld b 2 2, winBase := fld b 8 8 } } 0 0
      else answered s 1 0 := by
  show execSetWindow s = _
  refine (runCommand_eq hc (if_neg ?_)).trans ?_
  · simp only [hfn.not_gt, hz, hbase.not_ge, hal, decide_false, ne_eq, not_true_eq_false, Bool.not_true, Bool.or_self,
      Bool.false_eq_true, not_false_eq_true]
  · cases s.granted (fld b 2 2) (fld b 0 2) <;> rfl

theorem exec_setPeerasid_ok (hc : command s 0x0B 8 b) (hport : fld b 0 1 ≤ 31) (hz1 : zeroAt b 1 1 = true) (hz : zeroAt b 4 4 = true)
    (ha : fld b 2 2 ≤ 1023 ∨ fld b 2 2 = 0xFFFF) : exec .setPeerasid s =
      answered { s with peers := s.peers.upd (fld b 0 1) fun p => { p with
        asid := if fld b 2 2 = 0xFFFF then none else some (fld b 2 2) } } 0 0 := by
  have hasid : (decide (fld b 2 2 > 1023) && decide (fld b 2 2 ≠ 0xFFFF)) = false := by
    rw [← Bool.not_eq_true, Bool.and_eq_true, decide_eq_true_eq, decide_eq_true_eq]
    omega
  show execSetPeerasid s = _
  refine runCommand_done hc (if_neg ?_)
  simp only [hport.not_gt, hz1, hz, hasid, decide_false, Bool.not_true, Bool.or_self, Bool.false_eq_true, not_false_eq_true]

end

/-! ## Timing groups -/

/-- A die that drains is not the one an unlisted key reads as. -/
theorem Die.ne_default {x : Die} (h : x.drain = true ∨ x.group.isSome = true) : x ≠ default := by
  rintro rfl
  exact h.elim Bool.false_ne_true Bool.false_ne_true

/-- A change of P-state that begins leaves the timing groups as they are. -/
theorem State.modDies_drain_group (s : State) (ds : List Nat) (d : Nat) :
    ((s.modDies ds fun x => { x with drain := true }).dies.get d).group = (s.dies.get d).group := by
  unfold State.modDies
  refine List.foldlRecOn ds _ (motive := fun t : Tab Die => (t.get d).group = (s.dies.get d).group) rfl fun t ht e _ => ?_
  by_cases hd : d = e
  · subst hd
    rw [Tab.upd, Tab.get_put_of_ne _ _ _ (Die.ne_default (.inl rfl))]
    exact ht
  · rw [Tab.get_upd_ne _ _ _ _ hd]
    exact ht

theorem State.beginDrain_group (s : State) (e d : Nat) :
    ((s.beginDrain e).dies.get d).group = (s.dies.get d).group ∧ (s.beginDrain e).tgroups = s.tgroups := by
  unfold State.beginDrain
  split
  · exact ⟨s.modDies_drain_group _ d, rfl⟩
  · exact ⟨rfl, rfl⟩

/-- A die brought into a timing group, or out of it, as the group's mask says (R256). -/
def State.joinGroup (s : State) (g : Nat) (m : BitVec 8) (d : Nat) : State :=
  { s with dies := s.dies.upd d fun x => { x with
      group := if m.getLsbD d then some g else if x.group = some g then none else x.group } }

section
variable (s : State) {g d : Nat} {m : BitVec 8}

theorem State.joinGroup_self (hm : m.getLsbD d = true) : ((s.joinGroup g m d).dies.get d).group = some g := by
  unfold State.joinGroup Tab.upd
  dsimp only
  rw [if_pos hm, Tab.get_put_of_ne _ _ _ (Die.ne_default (.inr rfl))]

theorem State.joinGroup_ne {e : Nat} (h : d ≠ e) : (s.joinGroup g m e).dies.get d = s.dies.get d := by
  unfold State.joinGroup
  dsimp only
  exact Tab.get_upd_ne _ _ _ _ h

/-- A die of the mask is in the group as soon as its turn has come. -/
theorem State.foldl_joinGroup_group (hm : m.getLsbD d = true) (ds : List Nat) (h : d ∈ ds ∨ (s.dies.get d).group = some g) :
    ((ds.foldl (fun s d => s.joinGroup g m d) s).dies.get d).group = some g := by
  induction ds generalizing s with
  | nil => exact h.resolve_left List.not_mem_nil
  | cons e ds ih =>
    refine ih (s.joinGroup g m e) ?_
    by_cases hd : d = e
    · exact .inr (hd ▸ s.joinGroup_self (hd ▸ hm))
    · rw [s.joinGroup_ne hd]
      exact h.imp_left fun hin => (List.mem_cons.mp hin).resolve_left hd

theorem State.foldl_joinGroup_tgroups (g : Nat) (m : BitVec 8) (ds : List Nat) :
    (ds.foldl (fun s d => s.joinGroup g m d) s).tgroups = s.tgroups :=
  List.foldlRecOn ds _ (motive := fun t : State => t.tgroups = s.tgroups) rfl fun _ ht _ _ => ht

theorem State.foldl_beginDrain_group (ds : List Nat) (d : Nat) :
    ((ds.foldl State.beginDrain s).dies.get d).group = (s.dies.get d).group ∧ (ds.foldl State.beginDrain s).tgroups = s.tgroups :=
  List.foldlRecOn ds _ (motive := fun t : State => (t.dies.get d).group = (s.dies.get d).group ∧ t.tgroups = s.tgroups) ⟨rfl, rfl⟩
    fun t ⟨hg, ht⟩ e _ => ⟨(t.beginDrain_group e d).1.trans hg, (t.beginDrain_group e d).2.trans ht⟩

end

/-- The timing group `g` of the dies of a mask, formed (R256). -/
def State.formGroup (s : State) (g : Nat) (m : BitVec 8) : State :=
  let q := (List.range 8).foldl State.beginDrain ((List.range 8).foldl (fun s d => s.joinGroup g m d) s)
  { q with tgroups := q.tgroups.put g m }

theorem State.formGroup_tgroups (s : State) (g : Nat) (m : BitVec 8) : (s.formGroup g m).tgroups = s.tgroups.put g m := by
  unfold State.formGroup
  dsimp only
  rw [(State.foldl_beginDrain_group _ _ 0).2, State.foldl_joinGroup_tgroups]

theorem State.formGroup_group (s : State) (g : Nat) {m : BitVec 8} {d : Nat} (hd : d < 8) (hm : m.getLsbD d = true) :
    ((s.formGroup g m).dies.get d).group = some g := by
  unfold State.formGroup
  dsimp only
  rw [(State.foldl_beginDrain_group _ _ d).1]
  exact s.foldl_joinGroup_group hm _ (.inl (List.mem_range.mpr hd))

/-- TIMING_GROUP of dies that are live and in no other group, while no timed launch runs on the group. -/
theorem exec_timingGroup_ok {s : State} {b : List Byte} (hc : command s 0x0E 8 b) (hg : fld b 0 1 ≤ 7) (hz : zeroAt b 2 6 = true)
    (hlive : ∀ d, d < 8 → (fld b 1 1).testBit d = true → s.dieLive d = true)
    (hother : ∀ d h, d < 8 → (fld b 1 1).testBit d = true → (s.dies.get d).group = some h → h = fld b 0 1)
    (hbusy : s.groupBusy (fld b 0 1) = false) :
    exec .timingGroup s = answered (s.formGroup (fld b 0 1) (BitVec.ofNat 8 (fld b 1 1))) 0 0 := by
  have hdead : ((List.range 8).any fun d => (BitVec.ofNat 8 (fld b 1 1)).getLsbD d && !s.dieLive d) = false := by
    refine List.any_eq_false.mpr fun d hd hbad => ?_
    have hd := List.mem_range.mp hd
    rw [getLsbD_ofNat_eight _ hd, Bool.and_eq_true, Bool.not_eq_true'] at hbad
    exact Bool.false_ne_true (hbad.2.symm.trans (hlive d hd hbad.1))
  show execTimingGroup s = _
  refine runCommand_done hc ((if_neg ?_).trans ((if_neg ?_).trans ?_))
  · simp only [hg.not_gt, hz, hdead, decide_false, Bool.not_true, Bool.or_self, Bool.false_eq_true, not_false_eq_true]
  · rw [hbusy, Bool.or_false, Bool.not_eq_true]
    refine List.any_eq_false.mpr fun d hd hbad => ?_
    have hd := List.mem_range.mp hd
    dsimp only at hbad
    rw [getLsbD_ofNat_eight _ hd, Bool.and_eq_true] at hbad
    obtain ⟨hm, hbad⟩ := hbad
    cases hgrp : (s.dies.get d).group with
    | none => rw [hgrp] at hbad; exact Bool.false_ne_true hbad
    | some h => rw [hgrp] at hbad; exact of_decide_eq_true hbad (hother d h hd hm hgrp)
  · unfold State.formGroup State.joinGroup
    rfl

/-- Settles O50: each command's law above, its payload keeping the rules of the command. -/
theorem mailboxCommands : Obligations.MailboxCommands := by
  intro s b
  refine ⟨fun i c n m hi hm h => exec_command_length hi hm h, fun c m hc h => exec_mailboxUnknownCommand_unknown hc h, ?create,
    fun hc ha hz hl hb => exec_destroyAs_busy ha hz hl hc hb, ?destroy, ?invalidate, fun hc h0 hz hz' => exec_setKey_set hc h0 hz hz',
    fun hc hi hz d hd ha => exec_setDest_set hc hi hz hd ha,
    fun p n hc hlo hn hp => ⟨exec_installPolicy_unkeyed hc hlo hn hp, fun h => exec_installPolicy_keyed hc hlo hn hp⟩,
    fun hc hz hh hl => exec_removePolicy_live hc hz hh hl, fun hc hr hs hsum hpair => exec_connect_ok hc hr hs hsum hpair,
    fun ch hr ht he => exec_circuitRetuneComplete_empty hr ht he, fun hc hf hz => exec_setWeight_ok hc hf hz, ?window,
    fun hc hp hz hz' ha => exec_setPeerasid_ok hc hp hz hz' ha, fun hc ha hz hl => exec_preempt_live ha hz hl hc,
    fun hc ha hz hl => exec_resume_live ha hz hl hc, ?group⟩
  case create =>
    intro hc hok
    have hrun := exec_createAs_ok hc hok
    refine ⟨fun hlive => hrun.trans (if_pos hlive), fun hlive =>
      ⟨_, hrun.trans (if_neg (Bool.eq_false_iff.mp hlive)), rfl, rfl, rfl, rfl, (asOf_masks b _).1, (asOf_masks b _).2, rfl, rfl⟩⟩
  case destroy =>
    intro hc ha hz hlive hbusy
    obtain ⟨fns, peers, hrun⟩ := exec_destroyAs_idle ha hz hlive hc hbusy
    refine ⟨_, hrun, rfl, fun e he => ?_, fun e he => ?_, rfl, rfl⟩
    all_goals
      rw [State.tlbDrop_whole] at he
      exact of_decide_eq_true (List.mem_filter.mp he).2
  case invalidate =>
    intro hc hway ha hwhole hz hva hn
    rw [exec_invalidate_whole hc hway ha hwhole hz hva hn, State.tlbDrop_whole]
  case window =>
    intro hc hf hz hb hal
    have hrun := exec_setWindow_ok hc hf hz hb hal
    exact ⟨fun hno => hrun.trans (if_neg (Bool.eq_false_iff.mp hno)), fun hyes => hrun.trans (if_pos hyes)⟩
  case group =>
    intro hc hg hz hlive hother hbusy
    refine ⟨_, exec_timingGroup_ok hc hg hz hlive hother hbusy, State.formGroup_tgroups .., fun d hd hm => ?_⟩
    exact State.formGroup_group s _ hd ((getLsbD_ofNat_eight _ hd).trans hm)

end Sys2Proof.Machine
end

section

/-! Function-level reset (spec 20, R386): it changes no function but the one it names, the PF's doorbell page is zeroed in a canonical
table of functions, and the refutation of O52. -/

namespace Sys2Proof.Machine
open Claims

/-! ## What a purge leaves of the functions -/

theorem foldl_fns {α : Type} {f : State → α → State} (hf : ∀ s a, (f s a).fns = s.fns) (l : List α) (s : State) :
    (l.foldl f s).fns = s.fns :=
  List.foldlRecOn l f (motive := fun t : State => t.fns = s.fns) rfl fun t ht a _ => (hf t a).trans ht

theorem State.sendFlit_fns (s : State) (t : Txn) : (s.sendFlit t).fns = s.fns := by
  unfold State.sendFlit
  refine foldl_fns (fun _ _ => ?_) _ s
  rfl

theorem State.passTxn_fns (s : State) (t : Txn) : (s.passTxn t).fns = s.fns := by
  unfold State.passTxn
  split
  case h_1 => split; exacts [s.sendFlit_fns t, rfl]
  case h_2 =>
    split
    · refine foldl_fns (fun _ _ => ?_) _ s
      rfl
    · exact s.sendFlit_fns t
  case h_3 => split; exacts [rfl, s.sendFlit_fns t]
  all_goals exact s.sendFlit_fns t

theorem State.judge_fns (s : State) (t : Txn) : (s.judge t).1.fns = s.fns := by
  unfold State.judge
  dsimp only
  repeat' split
  all_goals rfl

/-- What a purged transaction does, if it was performed. -/
theorem State.purgeTxn_fns (s : State) (t : Txn) : (s.purgeTxn t).fns = s.fns := by
  unfold State.purgeTxn
  split
  case h_3 =>
    dsimp only
    have hj := State.judge_fns (s.freeBits 1).1 t
    rcases hv : (s.freeBits 1).1.judge t with ⟨s1, _ | why⟩
    · rw [hv] at hj
      cases t.master <;> dsimp only <;> split
      exacts [rfl, (s1.passTxn_fns t).trans hj, rfl, (s1.passTxn_fns t).trans hj]
    · cases t.master <;> dsimp only <;> split <;> rfl
  all_goals rfl

theorem State.purgeCol_fns (s : State) (fn : Nat) : (s.purgeCol fn).fns = s.fns := foldl_fns State.purgeTxn_fns _ _

theorem State.peerAtom_fns (s : State) (port k a : Nat) : (s.peerAtom port k a).fns = s.fns := by
  unfold State.peerAtom
  dsimp only
  split
  · split <;> rfl
  · rfl

theorem State.flitActs_fns (s : State) (port : Nat) (f : Flit) : (s.flitActs port f).fns = s.fns := by
  unfold State.flitActs
  split
  case h_3 => split; exacts [s.peerAtom_fns .., rfl]
  all_goals rfl

theorem State.purgeFlit_fns (s : State) (port : Nat) (f : Flit) : (s.purgeFlit port f).fns = s.fns := by
  unfold State.purgeFlit
  split
  case h_3 => dsimp only; split; exacts [State.flitActs_fns .., rfl]
  all_goals rfl

theorem State.purgePort_fns (s : State) (fn port : Nat) : (s.purgePort fn port).fns = s.fns :=
  foldl_fns (fun s f => s.purgeFlit_fns port f) _ _

theorem State.giveBack_fns (s : State) (asid : Nat) (sc : BScope) (home base : Nat) : (s.giveBack asid sc home base).fns = s.fns := by
  cases sc <;> rfl

theorem State.freeBoxes_fns (s : State) (k : Nat) : (s.freeBoxes k).fns = s.fns := by
  refine foldl_fns (fun s e => ?_) _ s
  dsimp only
  split
  · rfl
  · exact s.giveBack_fns ..

theorem State.freeStages_fns (s : State) (k : Nat) : (s.freeStages k).fns = s.fns := by
  unfold State.freeStages
  exact foldl_fns (fun s r => s.giveBack_fns ..) _ s

theorem State.freeChildren_fns (s : State) (ks : List Nat) : (s.freeChildren ks).fns = s.fns := by
  unfold State.freeChildren
  exact foldl_fns (fun s k => s.freeStages_fns k) ks s

/-- A function's tasks leave their units and the tables. -/
theorem State.dropFnTasks_fns (s : State) (fn : Nat) : (s.dropFnTasks fn).fns = s.fns := by
  unfold State.dropFnTasks
  dsimp only
  rw [State.freeChildren_fns]
  dsimp only
  rw [foldl_fns (f := fun s k => (s.freeBoxes k).freeSave k) fun s k => s.freeBoxes_fns k]
  refine foldl_fns (fun s e => ?_) _ s
  split
  · split <;> rfl
  · rfl

/-! ## Doorbell pages zeroed -/

/-- Of a reset VF the functions' table changes, at its own entry alone. -/
theorem State.flrVf_fns (s : State) (fn : Nat) : ∃ f g : Fn → Fn, (s.flrVf fn).fns = (s.fns.upd fn f).upd fn g := by
  refine ⟨fun f => { f with chains := [], ring := default, weight := none, pba := 0#16, msix := [] },
    fun f => { f with winSet := false, winAs := 0, winBase := 0, flr := false }, ?_⟩
  unfold State.flrVf State.zeroDoor State.zeroPage
  dsimp only
  rw [State.event, State.post_fns]
  dsimp only
  rw [State.dropFnTasks_fns]
  dsimp only
  rw [foldl_fns (f := fun s p => s.purgePort fn p) fun s p => s.purgePort_fns fn p, State.purgeCol_fns]

theorem State.flrVf_wf (s : State) (fn : Nat) (h : Tab.wf s.fns = true) : Tab.wf (s.flrVf fn).fns = true := by
  obtain ⟨f, g, hfns⟩ := s.flrVf_fns fn
  rw [hfns]
  exact Tab.upd_wf _ _ _ (Tab.upd_wf _ _ _ h)

/-- O52's clause of the PF, in a canonical table of functions: its chains are gone (R386). -/
theorem exec_flr_pf {s : State} {port : Nat} (hw : Tab.wf s.fns = true) (hon : s.fnOn 0 port = true) :
    ∃ t, exec (.flr 0 port) s = .next t ∧ ∀ ch, (t.fns.get 0).chains.get ch = default := by
  have hwf (vfs : List Nat) : Tab.wf (vfs.foldl State.flrVf s).fns = true :=
    List.foldlRecOn vfs _ (motive := fun t : State => Tab.wf t.fns = true) hw fun t ht fn _ => t.flrVf_wf fn ht
  have hrun : exec (.flr 0 port) s = .next
      ((((List.range 193).filter fun n => n ≠ 0 && s.vfPort n = some port).foldl State.flrVf s).zeroPage 0) := by
    show execFlr 0 port s = _
    rw [execFlr, hon, Bool.not_true, if_neg Bool.false_ne_true, if_neg (not_not.mpr rfl)]
  refine ⟨_, hrun, fun ch => ?_⟩
  unfold State.zeroPage
  dsimp only
  rw [Tab.get_upd_self _ _ _ (hwf _)]
  rfl

/-! ## A function that is listed twice

The statement asks nothing of the form of the table of functions. A table that lists a key twice, the first time with the default
entry, is no canonical table (`Tab.wf`). There the PF's zeroed entry is the default one again, and writing it uncovers the second
entry with its chains. -/

/-- The package is ready, and function 0 is listed twice: the default one, then one whose chain 0 is enabled. -/
def pfListedTwice : State :=
  { (default : State) with
    pwr := { (default : Pwr) with ready := true }
    fns := [(0, default), (0, { (default : Fn) with chains := [(0, { (default : Chain) with en := true })] })] }

theorem pfListedTwice_not_wf : Tab.wf pfListedTwice.fns = false := by decide +kernel

/-- Chain 0 of the PF is enabled after a row. -/
def pfChainOn (o : Out) : Bool :=
  match o with
  | .next t => ((t.fns.get 0).chains.get 0).en
  | _ => false

theorem flr_pfListedTwice : pfListedTwice.fnOn 0 0 = true ∧ pfChainOn (exec (.flr 0 0) pfListedTwice) = true := by decide +kernel

/-- Refutes O52: the reset of the PF leaves chain 0 of `pfListedTwice` enabled. In a canonical table of functions the clause is as
stated (`exec_flr_pf`). -/
theorem not_peersAndFunctionReset : ¬ Obligations.PeersAndFunctionReset := by
  intro hall
  obtain ⟨hon, hleft⟩ := flr_pfListedTwice
  obtain ⟨-, -, -, -, -, -, -, -, hpf⟩ := hall pfListedTwice 0
  obtain ⟨t, hflr, hgone⟩ := hpf hon
  rw [hflr] at hleft
  have hoff : pfChainOn (.next t) = false := congrArg Chain.en (hgone 0)
  exact Bool.false_ne_true (hoff.symm.trans hleft)

end Sys2Proof.Machine
end

section

/-! The access that wakes a die (spec 23, R418, R420), and the refutation of O53. -/

namespace Sys2Proof.Machine
open Claims

/-! ## An access to the memory of a die in C3 -/

section
variable {s : State} {die sector : Nat} (hw : Tab.wf s.dies = true) (hd : sector / 2 ^ 37 = die) (hc : (s.dies.get die).ccur = 3)
include hw hd hc

/-- In a canonical table of dies the access finds the die awake, whether or not the wake has come before it. -/
theorem State.rouse_asleep : s.rouse sector = (withDie s die fun x => { x with ccur := 0 }).rouse sector := by
  have hawake : ((withDie s die fun x => { x with ccur := 0 }).dies.get die).ccur ≠ 3 := by
    unfold withDie
    dsimp only
    rw [Tab.get_upd_self _ _ _ hw]
    exact (by decide : 0 ≠ 3)
  unfold State.rouse
  rw [hd, if_pos hc, if_neg hawake]
  rfl

/-- O53's clause of an access to a die in C3, in a canonical table of dies: it is the same before and after the wake (R418, R420,
log 44). -/
theorem State.access_asleep (ctx : Ctx) (pr : Prot) (lo hi : Nat) (bs mask : List Byte) :
    let w := withDie s die fun x => { x with ccur := 0 }
    s.readSector ctx pr sector lo hi = w.readSector ctx pr sector lo hi
      ∧ s.writeSector ctx pr sector lo bs mask = w.writeSector ctx pr sector lo bs mask := by
  have hrouse := State.rouse_asleep hw hd hc
  unfold State.readSector State.writeSector
  rw [hrouse]
  exact ⟨rfl, rfl⟩

end

/-! ## A die that is listed twice

The statement asks nothing of the form of the table of dies. A table that lists a key twice is no canonical table (`Tab.wf`). There
a die that wakes may be the default one, and writing it uncovers the second entry: a second die in C3, which the access wakes in its
turn. -/

/-- The package is ready, and die 0 is listed twice, each time in C3 and else as the default one. -/
def dieListedTwice : State :=
  { (default : State) with
    pwr := { (default : Pwr) with ready := true }
    dies := [(0, { (default : Die) with ccur := 3 }), (0, { (default : Die) with ccur := 3 })] }

theorem dieListedTwice_not_wf : Tab.wf dieListedTwice.dies = false := by decide +kernel

/-- A read takes one entry for die 0 away where the wake has not come before it, and the other one too where it has. -/
theorem readSector_dieListedTwice :
    (dieListedTwice.readSector default default 0 0 0).1.dies = [(0, { (default : Die) with ccur := 3 })]
      ∧ ((withDie dieListedTwice 0 fun x => { x with ccur := 0 }).readSector default default 0 0 0).1.dies = [] := by
  decide +kernel

/-- Refutes O53: the wake changes what a read of die 0 of `dieListedTwice` leaves. In a canonical table of dies the clause is as stated
(`State.access_asleep`). -/
theorem not_ticksPowerAndReset : ¬ Obligations.TicksPowerAndReset := by
  intro hall
  obtain ⟨-, -, -, -, hdie, -⟩ := hall dieListedTwice 0 rfl
  obtain ⟨-, -, -, -, -, -, -, -, hasleep⟩ := hdie (by decide)
  obtain ⟨hread, -⟩ := hasleep default default 0 0 [] [] 0 rfl rfl
  obtain ⟨hbefore, hafter⟩ := readSector_dieListedTwice
  have hdiff := hbefore.symm.trans ((congrArg (fun r => r.1.dies) hread).trans hafter)
  exact List.cons_ne_nil _ _ hdiff

end Sys2Proof.Machine
end
